-- ==== Sys2Proof/Word.lean ====
section
/-! DEFINITION. The plainest data of the model: words, bytes, and sparse tables held as lists of
(key, value) pairs. The operations on tables stand in Machine/Tab.lean. -/
namespace Sys2Proof

/-- The payload of a token and the width of every memory-mapped register (spec 02 R34, 15 R380). -/
abbrev Word := BitVec 64

/-- The smallest addressable unit of memory (spec 01 R16). -/
abbrev Byte := BitVec 8

/-- A sparse table: pairs of a key and a value, keys strictly rising, no pair holding the value that an
unlisted key reads as (Machine/Tab.lean states and keeps that form). -/
abbrev Tab (α : Type) := List (Nat × α)

end Sys2Proof
end

