-- ==== Sys2Proof/Machine/Tab.lean ====
section
/-! DEFINITION. Operations on sparse tables (`Tab`) and small list helpers. A table lists its keys in rising
order and, under `tput`, no key at its default, so that equal tables are equal data. -/
namespace Sys2Proof.Machine

/-- The value at key `k`, `d` if it is not listed. -/
def tget {α : Type} (t : Tab α) (d : α) (k : Nat) : α :=
  match t with
  | [] => d
  | (j, v) :: r => if j = k then v else tget r d k

/-- The value listed at key `k`. -/
def tfind {α : Type} (t : Tab α) (k : Nat) : Option α :=
  match t with
  | [] => none
  | (j, v) :: r => if j = k then some v else tfind r k

/-- Keeps the entries whose key satisfies `p`. -/
def tkeep {α : Type} (p : Nat → Bool) (t : Tab α) : Tab α := t.filter fun x => p x.1

/-- Writes `v` at `k`; a value equal to the default `d` is not listed. A key that an ill-formed table lists twice is
no longer listed after it, so that key `k` reads `v` whatever the table was. -/
def tput {α : Type} [DecidableEq α] (t : Tab α) (d : α) (k : Nat) (v : α) : Tab α :=
  match t with
  | [] => if v = d then [] else [(k, v)]
  | (j, u) :: r =>
    if k < j then (if v = d then (j, u) :: tkeep (fun i => i != k) r else (k, v) :: (j, u) :: r)
    else if k = j then (if v = d then tkeep (fun i => i != k) r else (k, v) :: r)
    else (j, u) :: tput r d k v

/-- Lists `v` at `k`, whatever it is (a table without a default). -/
def tins {α : Type} (t : Tab α) (k : Nat) (v : α) : Tab α :=
  match t with
  | [] => [(k, v)]
  | (j, u) :: r =>
    if k < j then (k, v) :: (j, u) :: r
    else if k = j then (k, v) :: r
    else (j, u) :: tins r k v

/-- Removes key `k`. -/
def tdel {α : Type} (t : Tab α) (k : Nat) : Tab α := tkeep (fun i => i != k) t

/-- The canonical form of a table with default `d`: keys strictly rising, no value equal to `d`. -/
def tcanon {α : Type} [DecidableEq α] (d : α) : Tab α → Bool
  | [] => true
  | [(_, v)] => v != d
  | (j, v) :: (k, u) :: r => v != d && decide (j < k) && tcanon d ((k, u) :: r)

/-- Inserts a number into a strictly rising list. -/
def sins (l : List Nat) (n : Nat) : List Nat :=
  match l with
  | [] => [n]
  | m :: r => if n < m then n :: m :: r else if n = m then m :: r else m :: sins r n

/-- Removes a number from a list. -/
def sdel (l : List Nat) (n : Nat) : List Nat := l.filter fun m => m != n

/-- A strictly rising list. -/
def sorted : List Nat → Bool
  | [] => true
  | [_] => true
  | a :: b :: r => decide (a < b) && sorted (b :: r)

/-- The first `n` positions from 0 satisfying `p`, as an option: the least. -/
def least (n : Nat) (p : Nat → Bool) : Option Nat := (List.range n).find? p

/-- The list without its element at position `n`. -/
def dropAt {α : Type} (l : List α) (n : Nat) : List α := l.take n ++ l.drop (n + 1)

/-- Replaces the element at position `n` (nothing beyond the end). -/
def putAt {α : Type} (l : List α) (n : Nat) (a : α) : List α :=
  match l, n with
  | [], _ => []
  | _ :: r, 0 => a :: r
  | b :: r, n + 1 => b :: putAt r n a

/-- The first element that satisfies `p`, replaced by its image under `f`. -/
def mapFirst {α : Type} (p : α → Bool) (f : α → α) (l : List α) : List α :=
  match l with
  | [] => []
  | a :: r => if p a then f a :: r else a :: mapFirst p f r

/-- The list without its first element that satisfies `p`. -/
def eraseFirst {α : Type} (p : α → Bool) (l : List α) : List α :=
  match l with
  | [] => []
  | a :: r => if p a then r else a :: eraseFirst p r

/-- The position of the first element that satisfies `p`. -/
def posOf {α : Type} (p : α → Bool) (l : List α) : Option Nat :=
  match l with
  | [] => none
  | a :: r => if p a then some 0 else (posOf p r).map (· + 1)

/-- The element of a list whose measure is least, the first such. -/
def argMin {α : Type} (f : α → Nat) (l : List α) : Option α :=
  match l with
  | [] => none
  | a :: r => match argMin f r with
    | none => some a
    | some b => if f b < f a then some b else some a

end Sys2Proof.Machine
end

