-- ==== Sys2Proof/Syntax.lean ====
section
/-! DEFINITION. The syntax: tokens, the fields of an instruction word, what the events carry, and the ONE
inductive `Instr` with a constructor for every row of spec/opcode_table.json: 218 for instruction words
(every OP of Table 2.15 but EMPTY; READ, STRMK and CHKPT have one per form) and 128 for events. -/
namespace Sys2Proof

/-- Token kinds (spec 02 Table 2.3). `reserved n` is KIND 10 + n. -/
inductive Kind where
  | data | null | order | fault | endm | credit | config | service | header | paddr
  | reserved (n : Fin 6)
  deriving DecidableEq, Repr

/-- A token (spec 02 Table 2.1). -/
structure Token where
  cont  : BitVec 30
  tag   : BitVec 20
  kind  : Kind
  rank  : BitVec 2
  psn   : Bool
  aux   : BitVec 7
  value : Word
  deriving DecidableEq, Repr

/-- The fields of an instruction word beside OP (spec 02 Table 2.5). -/
structure Fields where
  fn : BitVec 5
  pr : BitVec 2
  ls : BitVec 5
  om : BitVec 3
  t0 : BitVec 22
  t1 : BitVec 22
  xf : BitVec 12
  k  : BitVec 48
  deriving DecidableEq, Repr

/-- Where a configuration message comes from (spec 02 Table 2.4, R59, R73). -/
inductive CfgSrc where
  | loader | firmware
  | ingress (port : Nat)
  deriving DecidableEq, Repr

/-- A configuration message: its token and its source (spec 02 R43). -/
structure CfgMsg where
  tok : Token
  src : CfgSrc
  deriving DecidableEq, Repr

/-- The record a STALLCLEAR names (spec 13 Table 13.9). -/
inductive StallRef where
  | channel (core ep : Nat)
  | quiesce (cl i : Nat)
  deriving DecidableEq, Repr

/-- Who writes a register (spec 10 R285, 11 R311, 15 R382, R399, R404): a management agent, a function of the host link by its number,
which PART_CFG.FUNC gives a partition (0 the physical function), a core of a partition by a store, or firmware through SYSWR. -/
inductive Writer where
  | agent (n : BitVec 2)
  | function (n : Nat)
  | core (part : Option Nat)
  | firmware
  deriving DecidableEq, Repr

/-- An object handed to the loader (spec 15 R387, R388): its image, and the pages of HBM for its mappings (log 14). -/
structure LoadImage where
  pages : List Nat
  bytes : List Byte
  deriving DecidableEq, Repr

/-- An ingress aperture as its function's BAR2 numbers it (spec 15 R382). -/
structure Aperture where
  by_    : Writer
  number : Nat
  deriving DecidableEq, Repr

/-- A register and who reads it (spec 15 R382). -/
structure RegRead where
  by_  : Writer
  addr : Nat
  deriving DecidableEq, Repr

/-- A firmware update (spec 15 R391): the object that it rebuilds, and the feature level that it supports. -/
structure Update where
  href  : BitVec 32
  level : Nat
  deriving DecidableEq, Repr

/-- What a remote access asks of its home (spec 16 R410, R412). `op` is the operation's OP value, the
operand words those of its ports b and c. -/
structure RemoteOp where
  op : Nat
  addr : Nat
  width : Nat
  y : Word
  z : Word
  psn : Bool
  dom : BitVec 16
  gen : BitVec 6
  deriving DecidableEq, Repr

/-- An item of a fabric stream (spec 16 R408, R410, R415). -/
inductive FabBody where
  | request (r : RemoteOp) (unit : Nat)
  | reply (unit : Nat) (value : Word) (status : BitVec 9) (psn refused : Bool) (gen : BitVec 6)
  | token (t : Token)
  | marker (cut : Nat)
  deriving DecidableEq, Repr

/-- A fabric item: the logical chips it goes from and to, class, sequence number, body (spec 16 R410). -/
structure FabItem where
  src : Nat
  dst : Nat
  cls : Nat
  num : Nat
  body : FabBody
  deriving DecidableEq, Repr

/-- A flit that arrives (spec 16 R408): its items, and what its control word says of this end's flits: the link sequence number up to
which they are taken, and whether the next was refused. -/
structure FlitIn where
  items   : List FabItem
  taken   : Nat
  refused : Bool
  deriving DecidableEq, Repr

/-- A firmware image as bring-up meets it (spec 15 R400). -/
structure Firmware where
  image : List Byte
  version : Nat
  deriving DecidableEq, Repr

/-- One constructor per row of the opcode table; an instruction carries the fields of its word, an event
what tells it from other events of its row (which unit, which of the waiting items, what was written). -/
inductive Instr where
  /-- MOV (spec R109): Forwards the token on port a unchanged to the targets under the firing's tag. -/
  | mov (w : Fields)
  /-- CONST (spec R109): On a trigger on port a, emits the sign-extended constant K as DATA. -/
  | const (w : Fields)
  /-- FAN (spec R109): Sends n copies of the token on port a, one per cycle, or NULLs for n times the positions of a NULL. -/
  | fan (w : Fields)
  /-- STEER (spec R110): Routes the token on port a to T0 or T1 by the control token on port p, and sends a NULL to the other target. -/
  | steer (w : Fields)
  /-- MERGE (spec R111): Rejoins two paths by forwarding whichever of ports a and b holds a value. -/
  | merge (w : Fields)
  /-- GATE (spec R112): Forwards the token on port a once any token is present on port b. -/
  | gate (w : Fields)
  /-- SINK (spec R113): Consumes the token on port a and emits nothing. -/
  | sink (w : Fields)
  /-- NULLGEN (spec R114): Emits a NULL with skip count k for each trigger, and forwards an END. -/
  | nullgen (w : Fields)
  /-- ISNULL (spec R114): Emits DATA 1 for each position of a NULL and DATA 0 for a value. -/
  | isnull (w : Fields)
  /-- COALESCE (spec R114): Replaces each position of a NULL by DATA holding the identity constant, and passes other tokens unchanged. -/
  | coalesce (w : Fields)
  /-- ENDM (spec R115): Emits an end marker of the given rank at each trigger, merging it with an incoming END. -/
  | endm (w : Fields)
  /-- ENDRANK (spec R116): Passes the stream to T0 and sends T1 the close count of each token at or above the given rank. -/
  | endrank (w : Fields)
  /-- SKIP (spec R114): Sends NULLs for the number of positions held in the value on port a. -/
  | skip (w : Fields)
  /-- CHSEND (spec R119): Takes one credit and places the token in a send buffer of a producer endpoint, then emits ORDER. -/
  | chsend (w : Fields)
  /-- CHRECV (spec R120): Forwards each token that its consumer endpoint delivers, in channel order, under the token's own tag. -/
  | chrecv (w : Fields)
  /-- CREDIT (spec R121): Returns c credits from a consumer endpoint to its producer, whatever the kind of the trigger. -/
  | credit (w : Fields)
  /-- CHOPEN (spec R122): Opens a channel endpoint as producer or consumer of a given depth, once enough buffers are free. -/
  | chopen (w : Fields)
  /-- CHCLOSE (spec R122): Puts an endpoint into the closing state and closes it once its buffers are empty and every credit is back. -/
  | chclose (w : Fields)
  /-- PACKT (spec R117): Splits a token into its value on T0 and its kind, rank, aux and poison descriptor on T1. -/
  | packt (w : Fields)
  /-- TALLOC (spec R124): Allocates a tag space of the given size, waiting for an identifier and indices, and forwards the token under index 0. -/
  | talloc (w : Fields)
  /-- TFREE (spec R125): Makes the firing's tag space freeing, and forwards the token under the parent tag when its last activation commits. -/
  | tfree (w : Fields)
  /-- TNEXT (spec R126): Advances the tag space's current index once the next index has no uncommitted activation, and forwards the token under it. -/
  | tnext (w : Fields)
  /-- TIDX (spec R127): Emits the index of the firing's tag as DATA. -/
  | tidx (w : Fields)
  /-- TSET (spec R127): Forwards the token on port a to a chosen index of the firing's tag space. -/
  | tset (w : Fields)
  /-- TGET (spec R127): Emits the firing's 20-bit tag as DATA. -/
  | tget (w : Fields)
  /-- TCALL (spec R128): Allocates a callee tag space and sends the argument and a link word holding the return continuation and tag. -/
  | tcall (w : Fields)
  /-- TRET (spec R129): Sends the result to the continuation and tag in the link word, and makes the callee space freeing. -/
  | tret (w : Fields)
  /-- READ (spec R187): Returns the value of the hold register named by the token on port a, as seen by the activation (R174). -/
  | read (w : Fields)
  /-- READ_HOLD_AT_OPEN (spec R187): Fires once at each opening of an activation and returns the hold register named in K. -/
  | readHoldAtOpen (w : Fields)
  /-- WRITE (spec R187): Stages a write or null-write of a hold register for the activation, and emits ORDER. -/
  | write (w : Fields)
  /-- EXIT (spec R188): Counts the activation's one exit, and names a successor block or none. -/
  | exit (w : Fields)
  /-- EXITX (spec R188): Counts the activation's exit, with the successor block taken from the token on port b. -/
  | exitx (w : Fields)
  /-- SPAWN (spec R287): Reads a task record from memory, sends it to the counter cluster's dispatcher, and emits ORDER on acceptance. -/
  | spawn (w : Fields)
  /-- SPAWNI (spec R288): Forms a task record from its constant and a coordinate token, and spawns it as SPAWN does. -/
  | spawni (w : Fields)
  /-- CNTINIT (spec R320): Sets a completion counter's value and clears its flags, then emits ORDER once applied. -/
  | cntinit (w : Fields)
  /-- CNTDEC (spec R321): Decrements a completion counter once every access certified by its inputs has performed, as a release. -/
  | cntdec (w : Fields)
  /-- CNTWAIT (spec R322): Posts a wait at a completion counter and emits its flags when the counter reads 0. -/
  | cntwait (w : Fields)
  /-- WAITA (spec R323): Posts a watch of a memory word at the monitor table of its home, and emits the value and status on completion. -/
  | waita (w : Fields)
  /-- SWITCH (spec R190): Posts a request to the region controller to switch to a configuration frame. -/
  | switch (w : Fields)
  /-- QUIET (spec R191): Waits until a fixed set of earlier activations of the region has committed and its stores have performed, then forwards the token. -/
  | quiet (w : Fields)
  /-- GETID (spec R189): Emits the element, region, ASID or owning-context identity that sel selects. -/
  | getid (w : Fields)
  /-- CYCLE (spec R189): Emits the core's cycle counter as it stands in the issue cycle. -/
  | cycle (w : Fields)
  /-- TRAP (spec R358): Sends a service request to a service core and emits ORDER once it has entered an inbox. -/
  | trap (w : Fields)
  /-- SVC (spec R358): Sends a service request and emits the reply, or the refusal, when it returns. -/
  | svc (w : Fields)
  /-- BRK (spec R358): Forwards the token, or freezes the element as a breakpoint when debugging is enabled for the ASID. -/
  | brk (w : Fields)
  /-- PIN (spec R289): Makes or replaces a valid, pinned residency entry for a tile reference at a location. -/
  | pin (w : Fields)
  /-- UNPIN (spec R290): Clears PIN on, or frees, the residency entries of a tile reference, and emits the count changed. -/
  | unpin (w : Fields)
  /-- RESQ (spec R292): Returns a snapshot of residency entries or of the residency directory for a tile reference. -/
  | resq (w : Fields)
  /-- KEYQ (spec R293): Returns a snapshot of a lock key's state, or of its slice, without acquiring anything. -/
  | keyq (w : Fields)
  /-- ADD (spec R130): Emits the wrapped sum of the two operands. -/
  | add (w : Fields)
  /-- SUB (spec R130): Emits the wrapped difference a minus b. -/
  | sub (w : Fields)
  /-- RSUB (spec R130): Emits the wrapped difference b minus a. -/
  | rsub (w : Fields)
  /-- NEG (spec R130): Emits the wrapped negation of the operand. -/
  | neg (w : Fields)
  /-- ABS (spec R130): Emits the absolute value of the signed operand. -/
  | abs (w : Fields)
  /-- ADDS (spec R130): Emits the saturated signed sum. -/
  | adds (w : Fields)
  /-- SUBS (spec R130): Emits the saturated signed difference. -/
  | subs (w : Fields)
  /-- MUL (spec R130): Emits the low w bits of the product. -/
  | mul (w : Fields)
  /-- MULH (spec R130): Emits the high w bits of the signed product. -/
  | mulh (w : Fields)
  /-- MULHZ (spec R130): Emits the high w bits of the unsigned product. -/
  | mulhz (w : Fields)
  /-- DIV (spec R131): Emits the signed quotient toward zero, with fixed results for division by zero and overflow. -/
  | div (w : Fields)
  /-- DIVZ (spec R131): Emits the unsigned quotient, or all ones for division by zero. -/
  | divz (w : Fields)
  /-- REM (spec R131): Emits the signed remainder of division toward zero. -/
  | rem (w : Fields)
  /-- REMZ (spec R131): Emits the unsigned remainder, or x for division by zero. -/
  | remz (w : Fields)
  /-- MIN (spec R130): Emits the signed minimum. -/
  | min (w : Fields)
  /-- MAX (spec R130): Emits the signed maximum. -/
  | max (w : Fields)
  /-- MINZ (spec R130): Emits the unsigned minimum. -/
  | minz (w : Fields)
  /-- MAXZ (spec R130): Emits the unsigned maximum. -/
  | maxz (w : Fields)
  /-- AND (spec R130): Emits the bitwise AND. -/
  | and (w : Fields)
  /-- OR (spec R130): Emits the bitwise OR. -/
  | or (w : Fields)
  /-- XOR (spec R130): Emits the bitwise exclusive OR. -/
  | xor (w : Fields)
  /-- ANDN (spec R130): Emits a AND NOT b. -/
  | andn (w : Fields)
  /-- ORN (spec R130): Emits a OR NOT b. -/
  | orn (w : Fields)
  /-- NOT (spec R130): Emits the bitwise complement. -/
  | not (w : Fields)
  /-- SHL (spec R132): Emits the operand shifted left. -/
  | shl (w : Fields)
  /-- SHR (spec R132): Emits the operand shifted right logically. -/
  | shr (w : Fields)
  /-- SAR (spec R132): Emits the operand shifted right arithmetically. -/
  | sar (w : Fields)
  /-- ROL (spec R132): Emits the operand rotated left by m mod w. -/
  | rol (w : Fields)
  /-- ROR (spec R132): Emits the operand rotated right by m mod w. -/
  | ror (w : Fields)
  /-- CLZ (spec R130): Emits the count of leading zero bits. -/
  | clz (w : Fields)
  /-- CTZ (spec R130): Emits the count of trailing zero bits. -/
  | ctz (w : Fields)
  /-- POPC (spec R130): Emits the count of one bits. -/
  | popc (w : Fields)
  /-- BREV (spec R130): Emits the operand with its bits reversed. -/
  | brev (w : Fields)
  /-- BSWAP (spec R130): Emits the operand with its bytes reversed. -/
  | bswap (w : Fields)
  /-- EXT (spec R133): Extracts a bit field and sign-extends it. -/
  | ext (w : Fields)
  /-- EXTZ (spec R133): Extracts a bit field and zero-extends it. -/
  | extz (w : Fields)
  /-- INS (spec R133): Replaces a bit field of a by the low bits of b. -/
  | ins (w : Fields)
  /-- SEXT (spec R133): Sign-extends the low n bits of the operand. -/
  | sext (w : Fields)
  /-- ZEXT (spec R133): Zero-extends the low n bits of the operand. -/
  | zext (w : Fields)
  /-- LEA (spec R130): Emits a plus b shifted left by the amount in c. -/
  | lea (w : Fields)
  /-- PACKW (spec R130): Packs the low halves of the two operands into one value. -/
  | packw (w : Fields)
  /-- CMPEQ (spec R134): Emits 1 if the operands are equal, else 0. -/
  | cmpeq (w : Fields)
  /-- CMPNE (spec R134): Emits 1 if the operands differ, else 0. -/
  | cmpne (w : Fields)
  /-- CMPLT (spec R134): Emits 1 if a is less than b, signed. -/
  | cmplt (w : Fields)
  /-- CMPLE (spec R134): Emits 1 if a is at most b, signed. -/
  | cmple (w : Fields)
  /-- CMPLTZ (spec R134): Emits 1 if a is less than b, unsigned. -/
  | cmpltz (w : Fields)
  /-- CMPLEZ (spec R134): Emits 1 if a is at most b, unsigned. -/
  | cmplez (w : Fields)
  /-- TESTZ (spec R134): Emits 1 if a AND b is zero. -/
  | testz (w : Fields)
  /-- TESTNZ (spec R134): Emits 1 if a AND b is not zero. -/
  | testnz (w : Fields)
  /-- SEL (spec R134): Emits a or b according to bit 0 of c. -/
  | sel (w : Fields)
  /-- BOUND (spec R136): Emits a if it is below b unsigned, and otherwise a NULL, keeping poison. -/
  | bound (w : Fields)
  /-- CLAMP (spec R134): Clamps the signed operand a between b and c. -/
  | clamp (w : Fields)
  /-- PAND (spec R137): Emits the AND of bit 0 of the operands. -/
  | pand (w : Fields)
  /-- POR (spec R137): Emits the OR of bit 0 of the operands. -/
  | por (w : Fields)
  /-- PNOT (spec R137): Emits the complement of bit 0 of the operand. -/
  | pnot (w : Fields)
  /-- FADD (spec R144): Emits the floating sum, rounded once. -/
  | fadd (w : Fields)
  /-- FSUB (spec R144): Emits the floating difference, rounded once. -/
  | fsub (w : Fields)
  /-- FMUL (spec R144): Emits the floating product, rounded once. -/
  | fmul (w : Fields)
  /-- FFMA (spec R144): Emits a times b plus c with one rounding. -/
  | ffma (w : Fields)
  /-- FFMS (spec R144): Emits a times b minus c with one rounding. -/
  | ffms (w : Fields)
  /-- FMIN (spec R145): Emits the floating minimum, ordering -0 below +0 and preferring a non-NaN operand. -/
  | fmin (w : Fields)
  /-- FMAX (spec R145): Emits the floating maximum, ordering -0 below +0 and preferring a non-NaN operand. -/
  | fmax (w : Fields)
  /-- FABS (spec R145): Clears the sign bit of the operand. -/
  | fabs (w : Fields)
  /-- FNEG (spec R145): Inverts the sign bit of the operand. -/
  | fneg (w : Fields)
  /-- FCPYS (spec R145): Emits a with the sign bit of b. -/
  | fcpys (w : Fields)
  /-- FCMPEQ (spec R144): Emits 1 if the floating operands are equal. -/
  | fcmpeq (w : Fields)
  /-- FCMPLT (spec R144): Emits 1 if a is less than b, as floating values. -/
  | fcmplt (w : Fields)
  /-- FCMPLE (spec R144): Emits 1 if a is at most b, as floating values. -/
  | fcmple (w : Fields)
  /-- FCMPUN (spec R144): Emits 1 if either operand is NaN. -/
  | fcmpun (w : Fields)
  /-- FRCP (spec R146): Emits the correctly rounded reciprocal. -/
  | frcp (w : Fields)
  /-- FRSQ (spec R146): Emits the correctly rounded reciprocal square root. -/
  | frsq (w : Fields)
  /-- FSQRT (spec R146): Emits the correctly rounded square root. -/
  | fsqrt (w : Fields)
  /-- FDIV (spec R146): Emits the correctly rounded quotient. -/
  | fdiv (w : Fields)
  /-- FEXP2 (spec R146): Emits 2 to the power of the operand, correctly rounded. -/
  | fexp2 (w : Fields)
  /-- FLOG2 (spec R146): Emits the base-2 logarithm, correctly rounded. -/
  | flog2 (w : Fields)
  /-- FTANH (spec R146): Emits the hyperbolic tangent, correctly rounded. -/
  | ftanh (w : Fields)
  /-- FSIN (spec R146): Emits the sine of pi times the operand, correctly rounded. -/
  | fsin (w : Fields)
  /-- FCOS (spec R146): Emits the cosine of pi times the operand, correctly rounded. -/
  | fcos (w : Fields)
  /-- FRND (spec R147): Rounds the operand to an integral value in the same format. -/
  | frnd (w : Fields)
  /-- FSCALE (spec R147): Emits a times 2 to the power of b, rounded once. -/
  | fscale (w : Fields)
  /-- FGETE (spec R147): Emits the unbiased exponent of the operand as I32. -/
  | fgete (w : Fields)
  /-- CVTF (spec R148): Converts between floating formats. -/
  | cvtf (w : Fields)
  /-- CVTFI (spec R148): Converts a floating value to a saturated integer. -/
  | cvtfi (w : Fields)
  /-- CVTIF (spec R148): Converts an integer to a floating format. -/
  | cvtif (w : Fields)
  /-- FCLASS (spec R147): Emits a one-hot class of the floating operand. -/
  | fclass (w : Fields)
  /-- VADD (spec R150): Adds lane by lane, wrapped. -/
  | vadd (w : Fields)
  /-- VSUB (spec R150): Subtracts lane by lane, wrapped. -/
  | vsub (w : Fields)
  /-- VMUL (spec R150): Multiplies lane by lane, keeping the low bits. -/
  | vmul (w : Fields)
  /-- VMULH (spec R150): Emits the high bits of each signed lane product. -/
  | vmulh (w : Fields)
  /-- VADDS (spec R150): Adds lane by lane with signed saturation. -/
  | vadds (w : Fields)
  /-- VSUBS (spec R150): Subtracts lane by lane with signed saturation. -/
  | vsubs (w : Fields)
  /-- VMIN (spec R150): Emits the signed minimum of each lane. -/
  | vmin (w : Fields)
  /-- VMAX (spec R150): Emits the signed maximum of each lane. -/
  | vmax (w : Fields)
  /-- VAVG (spec R150): Emits the rounded-up signed average of each lane. -/
  | vavg (w : Fields)
  /-- VSHL (spec R150): Shifts each lane left. -/
  | vshl (w : Fields)
  /-- VSHR (spec R150): Shifts each lane right logically. -/
  | vshr (w : Fields)
  /-- VSAR (spec R150): Shifts each lane right arithmetically. -/
  | vsar (w : Fields)
  /-- VCMPEQ (spec R150): Emits an all-ones lane mask where lanes are equal. -/
  | vcmpeq (w : Fields)
  /-- VCMPLT (spec R150): Emits an all-ones lane mask where a lane of a is less than b, signed. -/
  | vcmplt (w : Fields)
  /-- VSEL (spec R150): Selects bits of a or b by the mask c. -/
  | vsel (w : Fields)
  /-- VSPLAT (spec R150): Copies lane 0 into every lane. -/
  | vsplat (w : Fields)
  /-- VSHUF (spec R151): Permutes bytes of a by the selectors in b. -/
  | vshuf (w : Fields)
  /-- VPACK (spec R151): Narrows the lanes of a and b into half-width lanes, optionally saturating. -/
  | vpack (w : Fields)
  /-- VUNPKL (spec R151): Sign-extends the lower half of the lanes to double width. -/
  | vunpkl (w : Fields)
  /-- VUNPKH (spec R151): Sign-extends the upper half of the lanes to double width. -/
  | vunpkh (w : Fields)
  /-- VREDADD (spec R152): Sums the lanes in the fixed pairwise tree. -/
  | vredadd (w : Fields)
  /-- VREDMAX (spec R152): Reduces the lanes to their signed maximum. -/
  | vredmax (w : Fields)
  /-- VREDMIN (spec R152): Reduces the lanes to their signed minimum. -/
  | vredmin (w : Fields)
  /-- VDOT (spec R153): Forms a dot product of the lanes of a and b and adds c. -/
  | vdot (w : Fields)
  /-- VFMA (spec R154): Fused multiply-add of floating lanes with one rounding per lane. -/
  | vfma (w : Fields)
  /-- VFADD (spec R154): Adds floating lanes. -/
  | vfadd (w : Fields)
  /-- VFMUL (spec R154): Multiplies floating lanes. -/
  | vfmul (w : Fields)
  /-- VFMAX (spec R154): Takes the floating maximum of each lane, as FMAX. -/
  | vfmax (w : Fields)
  /-- VCVT (spec R154): Converts each lane between formats. -/
  | vcvt (w : Fields)
  /-- PFXC (spec R155): Emits the running offset of a bitmap word and the offset advanced by its population count. -/
  | pfxc (w : Fields)
  /-- ISECT (spec R156): Intersects two bitmap words and emits a 64-position stream of matches and NULL runs, plus the match count. -/
  | isect (w : Fields)
  /-- OBT (spec R157): Maps floating lanes to order-preserving unsigned keys. -/
  | obt (w : Fields)
  /-- OBTI (spec R157): Maps order-preserving keys back to floating values. -/
  | obti (w : Fields)
  /-- DIGIT (spec R158): Emits one radix digit of a key that matches the prefix, and otherwise a NULL. -/
  | digit (w : Fields)
  /-- LD (spec R207): Loads 1 to 8 bytes, with store-buffer forwarding, and emits the value and ORDER. -/
  | ld (w : Fields)
  /-- ST (spec R208): Computes a store's address and enters it in the store buffer to be written at commit. -/
  | st (w : Fields)
  /-- LDACQ (spec R317): Loads as LD and emits only after performing at its scope, ordering later accesses. -/
  | ldacq (w : Fields)
  /-- STREL (spec R318): Buffers a release store whose write at commit waits for the activation's other stores and its inputs to perform. -/
  | strel (w : Fields)
  /-- FENCE (spec R319): Waits until every access certified by its input tokens has performed at its scope, then emits ORDER. -/
  | fence (w : Fields)
  /-- PREF (spec R209): Asks the home of an address to hold its line, and never faults. -/
  | pref (w : Fields)
  /-- XLATE (spec R342): Translates a VA into a PADDR token, a FAULT token or a fall-back VA. -/
  | xlate (w : Fields)
  /-- LEAP (spec R343): Adds an offset to a PADDR within its page, or to a DATA value. -/
  | leap (w : Fields)
  /-- AADD (spec R212): Atomically adds at the home and returns the old value. -/
  | aadd (w : Fields)
  /-- ASUB (spec R212): Atomically subtracts at the home and returns the old value. -/
  | asub (w : Fields)
  /-- AMIN (spec R212): Atomic signed minimum at the home. -/
  | amin (w : Fields)
  /-- AMAX (spec R212): Atomic signed maximum at the home. -/
  | amax (w : Fields)
  /-- AMINZ (spec R212): Atomic unsigned minimum at the home. -/
  | aminz (w : Fields)
  /-- AMAXZ (spec R212): Atomic unsigned maximum at the home. -/
  | amaxz (w : Fields)
  /-- AAND (spec R212): Atomic AND at the home. -/
  | aand (w : Fields)
  /-- AOR (spec R212): Atomic OR at the home. -/
  | aor (w : Fields)
  /-- AXOR (spec R212): Atomic exclusive OR at the home. -/
  | axor (w : Fields)
  /-- AXCHG (spec R212): Atomic exchange at the home. -/
  | axchg (w : Fields)
  /-- ACAS (spec R212): Atomic compare-and-swap at the home. -/
  | acas (w : Fields)
  /-- AFADD (spec R212): Atomic floating add, rounded RNE, at the home. -/
  | afadd (w : Fields)
  /-- AINCW (spec R212): Atomic wrapping increment at the home. -/
  | aincw (w : Fields)
  /-- STREAM (spec R218): Reads and checks a stream descriptor and starts an address generator on it. -/
  | stream (w : Fields)
  /-- STRMK_QUERY (spec R219): Returns a generator's state, queue occupancy and positions emitted. -/
  | strmkQuery (w : Fields)
  /-- STRMK_CANCEL (spec R219): Stops a generator, discards its unemitted positions and closes its stream with an END of rank 3. -/
  | strmkCancel (w : Fields)
  /-- STRMK_DRAIN (spec R219): Emits ORDER once the generator is idle. -/
  | strmkDrain (w : Fields)
  /-- WRING (spec R220): Translates a tile range and starts a spread unit turning it into a stream without zeros. -/
  | wring (w : Fields)
  /-- SPREAD (spec R222): Opens a spread-unit session that writes a stream back into a dense tile range. -/
  | spread (w : Fields)
  /-- RPORT (spec R223): Opens a reduction-port session that merges a stream into resident tile values. -/
  | rport (w : Fields)
  /-- LDRB (spec R224): Copies 512 bytes of a memory tile into a row-buffer entry after earlier broadcasts have read it. -/
  | ldrb (w : Fields)
  /-- MCFG (spec R242): Queues a macro configuration of A format, weight format and node base. -/
  | mcfg (w : Fields)
  /-- MLDB (spec R243): Translates a weight panel and queues its load into a macro's shadow array. -/
  | mldb (w : Fields)
  /-- MSWAP (spec R244): Queues the exchange of a macro's active and shadow arrays. -/
  | mswap (w : Fields)
  /-- MBC (spec R245): Queues a broadcast of A from a row-buffer entry across a macro. -/
  | mbc (w : Fields)
  /-- MBCW (spec R245): Queues a broadcast and reports on T1 once every partial has been added or held. -/
  | mbcw (w : Fields)
  /-- ACCSET (spec R246): Sets base exponent, headroom and mode on a range of accumulator nodes. -/
  | accset (w : Fields)
  /-- ACCCNT (spec R247): Arms a group of nodes for counted release. -/
  | acccnt (w : Fields)
  /-- ACCRD (spec R248): Reads a range of nodes, converted to a format, and sends values and a flag word. -/
  | accrd (w : Fields)
  /-- ACCCLR (spec R249): Clears the sums, flags and counts of a range of nodes and disarms them. -/
  | accclr (w : Fields)
  /-- MCHK (spec R250): Queues a recomputation of an array's checksums against the stored sums. -/
  | mchk (w : Fields)
  /-- HCOPY (spec R349): Reads and checks a halyard descriptor and hands a row copy request to the engine. -/
  | hcopy (w : Fields)
  /-- HGATH (spec R349): Hands an indexed gather request to the halyard engine. -/
  | hgath (w : Fields)
  /-- HSCAT (spec R349): Hands an indexed scatter request to the halyard engine. -/
  | hscat (w : Fields)
  /-- HRED (spec R351): Hands an element-wise reduction request to the halyard engine. -/
  | hred (w : Fields)
  /-- HFILL (spec R349): Hands a pattern fill request to the halyard engine. -/
  | hfill (w : Fields)
  /-- CHKPT_BEGIN (spec R420): Firmware starts this package's part of a checkpoint cut. -/
  | chkptBegin (w : Fields)
  /-- CHKPT_RESTORE (spec R420): Firmware restores stream numbers, ensign table and replay buffers from a cut image and marks entries for resend. -/
  | chkptRestore (w : Fields)
  /-- CHKPT_ABANDON (spec R420): Firmware abandons a cut being taken or last recorded, releasing held arrivals and discarding its image. -/
  | chkptAbandon (w : Fields)
  /-- CHKPT_QUERY (spec R420): Returns PART_CUT. -/
  | chkptQuery (w : Fields)
  /-- SYSRD (spec R404): Firmware reads a register of the own logical chip by physical address. -/
  | sysrd (w : Fields)
  /-- SYSWR (spec R404): Firmware writes a register of the own logical chip by physical address. -/
  | syswr (w : Fields)
  /-- TOKEN_ARRIVAL (spec R75): A token reaches an element and joins the queue of its slot, port and tag, possibly completing an operand set. -/
  | tokenArrival (n : Nat)
  /-- OVERFLOW_REFILL (spec R82): A freed matching-store entry is refilled from the oldest overflow record of the most-spilled slot. -/
  | overflowRefill (elem : Nat)
  /-- IWORD_LO (spec R44): Configuration message carrying the low half of an instruction word. -/
  | iwordLo (m : CfgMsg)
  /-- IWORD_HI (spec R44): Configuration message carrying the high half of an instruction word, which then takes effect. -/
  | iwordHi (m : CfgMsg)
  /-- BHDR_LO (spec R44): Configuration message carrying the low half of a block header. -/
  | bhdrLo (m : CfgMsg)
  /-- BHDR_HI (spec R57): Configuration message carrying the high half of a block header, which takes effect and sets the frame state. -/
  | bhdrHi (m : CfgMsg)
  /-- ROUTE (spec R44): Configuration message writing a route entry of a frame. -/
  | route (m : CfgMsg)
  /-- KSET (spec R44): Configuration message replacing a slot's constant K, applied when the element accepts it. -/
  | kset (m : CfgMsg)
  /-- HOIST (spec R386): Ingress configuration message that makes a hoist the stream's current hoist and starts its regions in a configuration entry. -/
  | hoist (port : Nat)
  /-- INSTALL (spec R392): Ingress configuration message that installs an object version and holds the stream until it completes. -/
  | install (port : Nat)
  /-- INSTALL_COMPLETE (spec R392): An installation completes, replaces task-type entries and decrements its named counter as a release. -/
  | installComplete (port : Nat)
  /-- HOIST_PLACEMENT (spec R386): The loader places every region of a hoist on free frames of the partition, or fails the stream. -/
  | hoistPlacement (port : Nat)
  /-- OBJECT_LOAD (spec R389): The loader checks an object's digest, signature, feature level, blocks and tag budget, and keeps or rejects it whole. -/
  | objectLoad (asid base : Nat) (image : LoadImage)
  /-- FAULT_REPORT (spec R102): A region or task controller reads the next frozen element's fault register and sends a SERVICE report. -/
  | faultReport (cl i : Nat)
  /-- SERVICE_INBOX_ENTRY (spec R356): A held SERVICE token enters a service core's inbox once it has room. -/
  | serviceInboxEntry (n : Nat)
  /-- ERR_EFAULT_ACK (spec R102): A read of the high word of a controller's fault copy acknowledges the report. -/
  | errEfaultAck (cl i : Nat)
  /-- REISSUE (spec R359): Service action that unfreezes an element and issues its faulting firing, or offers its token, again. -/
  | reissue (elem : Nat)
  /-- NULLIFY (spec R359): Service action that unfreezes an element and consumes its faulting operand set as an unfired instruction, or discards its token. -/
  | nullify (elem : Nat)
  /-- STEP (spec R359): Service action that resumes an element frozen by BRK, which then forwards its token. -/
  | step (elem : Nat)
  /-- GENRESUME (spec R359): Service action that clears a generator's fault record and re-issues from its faulting position. -/
  | genresume (core g : Nat)
  /-- GENABORT (spec R217): Service action that ends a stopped generator's stream with an END of rank 3 and a FAULT on T1. -/
  | genabort (core g : Nat)
  /-- NODECLEAR (spec R252): Service action that drops offending partials or releases of frozen nodes and clears their groups. -/
  | nodeclear (core : Nat)
  /-- TASKRESUME (spec R359): Service action that repeats a parked task's fetch or a held store's translation. -/
  | taskresume (core ctx : Nat)
  /-- TASKDISCARD (spec R359): Service action that discards a task, its uncommitted activations and its keys. -/
  | taskdiscard (task : Nat)
  /-- STALLCLEAR (spec R359): Service action that clears a channel or quiescence stall record so its watch counts again. -/
  | stallclear (r : StallRef)
  /-- REGIONABORT (spec R360): Service action that resets a region's current configuration, discarding its activations and state. -/
  | regionabort (cl rc : Nat)
  /-- FRAME_UNLOAD (spec R162): A service core unloads a Resident frame once no uncommitted activation remains. -/
  | frameUnload (core frame : Nat)
  /-- COMMIT (spec R168): An activation whose stores, writes and exit are complete commits, releasing its staged writes and stores. -/
  | commit (core seq : Nat)
  /-- SUCCESSOR_OPEN (spec R177): A successor block named by EXIT opens in the task context once its frame is ready. -/
  | successorOpen (core ctx : Nat)
  /-- FETCH (spec R177): A successor block image is copied into a frame by configuration messages and its routes stitched. -/
  | fetch (core ctx : Nat)
  /-- RETIREMENT (spec R267): A task whose last activation committed waits for its stores to perform, then decrements DONEC and releases its keys. -/
  | retirement (core ctx : Nat)
  /-- QUIESCENCE_PROBE (spec R314): A region controller that sees every core quiet probes the reporters and decides whether the region is quiet. -/
  | quiescenceProbe (cl rc : Nat)
  /-- REGION_SWITCH (spec R190): Once the region is quiet, the controller advances PERIOD, makes the requested frame current and sends the SWITCH token. -/
  | regionSwitch (cl rc : Nat)
  /-- QUIET_REQUEST_TAKEN (spec R191): The region controller takes a QUIET request and fixes the set of activations it waits for. -/
  | quietRequestTaken (cl rc : Nat)
  /-- QUIESCENCE_STALL (spec R315): A stall watch reaches 65,536 cycles without progress, writes ERR_QSTALL and sends a SERVICE token. -/
  | quiescenceStall (cl i : Nat)
  /-- BANK_STARVATION_GRANT (spec R202): A bank request refused for 16 consecutive cycles is granted next. -/
  | bankStarvationGrant (n : Nat)
  /-- ACCESS_AT_HOME (spec R298): A load, store, engine access or row-buffer read is performed at its home in the address's one order. -/
  | accessAtHome (n : Nat)
  /-- ATOMIC_AT_HOME (spec R211): The read-modify-write pipeline at the home performs an atomic and returns its old value. -/
  | atomicAtHome (n : Nat)
  /-- STREL_RELEASE (spec R304): A committed release store is written at its home once the operations it is held behind have performed. -/
  | strelRelease (n : Nat)
  /-- GENERATOR_STEP (spec R216): An address generator issues a position's read or emits its next token in walk order. -/
  | generatorStep (core g : Nat)
  /-- WRING_EMIT (spec R220): A spread unit emits the next non-zero element, NULL run or row end of a wrung tile. -/
  | wringEmit (core u : Nat)
  /-- SPREAD_SESSION_TOKEN (spec R222): A spread session consumes the next stream token on port c and writes it into the tile. -/
  | spreadSessionToken (core u : Nat)
  /-- REDUCTION_SESSION_TOKEN (spec R223): A reduction-port session merges the next stream token into the resident element. -/
  | reductionSessionToken (core tile : Nat)
  /-- CHANNEL_TOKEN_ARRIVAL (spec R225): A channel token reaches its consumer endpoint and is buffered for CHRECV, or dropped. -/
  | channelTokenArrival (n : Nat)
  /-- CREDIT_ARRIVAL (spec R225): Returned credits reach an endpoint and are added, held or discarded. -/
  | creditArrival (n : Nat)
  /-- CHANNEL_STALL (spec R227): A consumer endpoint's stall watch reaches 4,096 cycles, writes its stall record and reports. -/
  | channelStall (core ep : Nat)
  /-- BROADCAST (spec R233): A broadcast takes effect at its macro: it latches A, converts it and forms partials for every column. -/
  | broadcast (core macr : Nat)
  /-- NULL_BROADCAST (spec R241): A null-broadcast takes effect and gives each reached node one contribution with no partial. -/
  | nullBroadcast (core macr : Nat)
  /-- MCFG_EFFECT (spec R242): A queued MCFG takes effect and sets AFMT, LFMT, NBASE and CPSN. -/
  | mcfgEffect (core macr : Nat)
  /-- MLDB_EFFECT (spec R243): A queued MLDB writes the converted weights, exponents and checksums into the shadow array. -/
  | mldbEffect (core macr : Nat)
  /-- MSWAP_EFFECT (spec R244): A queued MSWAP exchanges the active and shadow arrays. -/
  | mswapEffect (core macr : Nat)
  /-- MCHK_EFFECT (spec R250): A queued MCHK compares checksums, marking the array BAD and faulting on a mismatch. -/
  | mchkEffect (core macr : Nat)
  /-- CONTRIBUTION (spec R30): A broadcast's partials reach an accumulator node and are added, or are held behind an unreleased group. -/
  | contribution (core macr : Nat)
  /-- TASK_RECORD_ACCEPT (spec R259): A task record reaches its counter cluster's dispatcher and is checked, then accepted or refused. -/
  | taskRecordAccept (n : Nat)
  /-- TASK_ROUTING (spec R273): A task leaving Counter-wait has its home cluster chosen, sends its key tries and is routed. -/
  | taskRouting (task : Nat)
  /-- KEY_TRY (spec R278): A key try reaches its slice and is granted or refused without queuing. -/
  | keyTry (n : Nat)
  /-- KEY_REQUEST (spec R278): A key request reaches its slice and is granted or queued. -/
  | keyRequest (n : Nat)
  /-- KEY_REPLY (spec R277): Key grants and refusals reach the home cluster, which makes the task Ready or sends its next ordered request. -/
  | keyReply (n : Nat)
  /-- KEY_RELEASE (spec R278): A key release reaches its slice, which grants from the head of the key's queue. -/
  | keyRelease (n : Nat)
  /-- KEY_AGING (spec R279): A task that has waited 64 dispatcher rounds becomes aged and its requests reserved. -/
  | keyAging (task : Nat)
  /-- KEY_ENTRY_RETRY (spec R280): A request waiting for a slice entry retries each round. -/
  | keyEntryRetry (cl : Nat)
  /-- TASK_START (spec R283): The dispatcher picks a Ready task, chooses a core, takes a frame and context, loads H0 to H8 and opens the entry block. -/
  | taskStart (cl : Nat)
  /-- TASK_REROUTE (spec R274): A task whose cluster can never have an eligible core is routed with its keys to the next cluster, or discarded after all. -/
  | taskReroute (task : Nat)
  /-- RESIDENCY_STALE_NOTICE (spec R270): A write to a watched line makes the residency entries that cover it stale. -/
  | residencyStaleNotice (n : Nat)
  /-- COUNTER_APPLY (spec R310): A counter applies an arriving operation and, at zero, releases its waiting tasks and CNTWAITs. -/
  | counterApply (n : Nat)
  /-- CNTWAIT_RETRY (spec R310): A CNTWAIT returned for a full pool is retried every 16 cycles. -/
  | cntwaitRetry (n : Nat)
  /-- CNT_VAL_WRITE (spec R311): A register write to a counter is applied as a CNTINIT of the value, keeping the flags. -/
  | cntValWrite (by_ : Writer) (cl idx : Nat) (v : Word)
  /-- MONITOR_POST (spec R312): A WAITA request reaches its home, which tests the word and completes it or makes a monitor entry. -/
  | monitorPost (n : Nat)
  /-- MONITOR_DEADLINE (spec R312): A monitor entry's deadline passes and the WAITA completes with the current value. -/
  | monitorDeadline (cl n : Nat)
  /-- DIRECTORY_LOOKUP (spec R338): A translation-cache miss is served by the die's directory, or passed to a page walker. -/
  | directoryLookup (die n : Nat)
  /-- PAGE_WALK (spec R335): A page walker reads one entry per level and returns a translation or a failure, setting A and D. -/
  | pageWalk (die n : Nat)
  /-- SHOOT_DOWN (spec R344): A write of XL_INV with GO for one page starts a shoot-down across all four directories. -/
  | shootDown (by_ : Writer) (die : Nat) (v : Word)
  /-- SHOOT_DOWN_ALL (spec R344): A write of XL_INV with GO and ALL shoots down every translation of an ASID. -/
  | shootDownAll (by_ : Writer) (die : Nat) (v : Word)
  /-- INVALIDATION (spec R345): A holder's invalidation unit removes a translation and acknowledges once its accesses have performed. -/
  | invalidation (n : Nat)
  /-- HALYARD_UNIT (spec R350): The halyard engine translates, reads and writes one unit of a request, or ends it on failure. -/
  | halyardUnit (cl n : Nat)
  /-- ECHO (spec R357): Service request that does nothing and replies with the value sent. -/
  | echo (die sc : Nat)
  /-- MAPREQ (spec R357): Service request that asks system software to make a page present. -/
  | mapreq (die sc : Nat) (refusal : Option (BitVec 8))
  /-- LOG (spec R357): Service request that passes the value to the partition's event log. -/
  | log (die sc : Nat)
  /-- ABORTSELF (spec R357): Service request that aborts the calling region or discards the calling task. -/
  | abortself (die sc : Nat)
  /-- HOST_SERVICE (spec R357): Service request 32 to 63 passed to the host driver. -/
  | hostService (die sc : Nat) (reply : Option Word)
  /-- SERVICE_REFUSED (spec R357): A request with an unlisted service number is refused. -/
  | serviceRefused (die sc : Nat)
  /-- SVC_REPLY (spec R358): A service reply returns to an SVC firing, which emits it to its targets. -/
  | svcReply (n : Nat)
  /-- SOFT_PREEMPTION (spec R364): PART_PCTL GO with HARD 0 stops the victim's tasks and ingress and lets it drain to commit and quiet. -/
  | softPreemption (by_ : Writer) (v : Word)
  /-- HARD_PREEMPTION (spec R367): PART_PCTL GO with HARD 1 stops the victim, drains exposed activations and discards the rest. -/
  | hardPreemption (by_ : Writer) (v : Word)
  /-- DRAIN_LIMIT (spec R367): The drain limit expires, and exposed activations still uncommitted are counted in XLOST and reported. -/
  | drainLimit (part : Nat)
  /-- SAVE (spec R369): The victim's contexts, regions and ASID state are written to the save area and zeroed. -/
  | save (part : Nat)
  /-- PREEMPT_RESUME (spec R370): PART_PCTL RESUME restores the saved victim, re-places its regions and redelivers logged tokens. -/
  | preemptResume (by_ : Writer) (v : Word)
  /-- INGRESS_WRITE (spec R383): A host write to an ingress aperture is accepted at NEXT and its tokens are checked and taken in order, or discarded as misplaced. -/
  | ingressWrite (port : Aperture) (offset : Nat) (bytes : List Byte)
  /-- ING_CFG_WRITE (spec R384): A write to ING_CFG; setting EN from 0 to 1 resets NEXT, SEQ, ING_HOIST and the error window. -/
  | ingCfgWrite (by_ : Writer) (port : Nat) (v : Word)
  /-- ING_ERR_CLEAR (spec R385): Writing 1 to ING_STATUS.ERR ends the stream's error state for later writes. -/
  | ingErrClear (by_ : Writer) (port : Nat) (v : Word)
  /-- GRANULE_ASSIGN (spec R394): A write of PART_GOWN zeroes and assigns a 2 MiB HBM granule, or is ignored for KIND 3. -/
  | granuleAssign (by_ : Writer) (v : Word)
  /-- GRANULE_ZEROED (spec R394): Zeroing of an assigned granule completes and the new owner takes it. -/
  | granuleZeroed
  /-- PART_CFG_WRITE (spec R393): A write of PART_CFG defines a partition, ignored if it shares a cluster with a valid one. -/
  | partCfgWrite (by_ : Writer) (n : Nat) (v : Word)
  /-- PART_RESET (spec R397): A write of PART_RESET raises the partition's generation, discards its work, zeroes its clusters and notifies its function. -/
  | partReset (by_ : Writer) (v : Word)
  /-- OWN_CLAIM (spec R399): An agent claims ownership of the package if it has no owner. -/
  | ownClaim (agent : BitVec 2)
  /-- OWN_SUCC (spec R399): The owner hands ownership to another agent, or releases it. -/
  | ownSucc (agent next : BitVec 2)
  /-- REGISTER_WRITE (spec R380): A write to a register with no behaviour of its own sets its fields by their access codes. -/
  | registerWrite (by_ : Writer) (addr : Nat) (v : Word)
  /-- REGISTER_READ_CLEAR (spec R5): A read of an RC field returns its value and clears it in the same access. -/
  | registerReadClear (addr : RegRead)
  /-- PACKAGE_RESET (spec R399): A package reset requested through MCTP clears ownership and resets the device. -/
  | packageReset
  /-- BRING_UP (spec R402): At power-on the boot ROM verifies firmware, links and HBM train, state is zeroed and owner election opens. -/
  | bringUp (fw : Firmware)
  /-- ATTESTATION_REQUEST (spec R401): An attestation request is signed with the next never-reused XMSSMT index, or refused when the indices are spent. -/
  | attestationRequest (nonce : List Byte)
  /-- CORE_POWER_GATE (spec R345): A service core power-gates a core, clearing its holder bits. -/
  | corePowerGate (core : Nat)
  /-- THERMAL_LIMIT (spec R398): At the thermal limit element issue is withheld in a fraction of cycles, seen as delay only. -/
  | thermalLimit (on : Bool)
  /-- CORRECTABLE_ERROR (spec R398): A correctable error is corrected in place and counted in ERR_CE. -/
  | correctableError (part wher : Nat)
  /-- UNCORRECTABLE_ERROR (spec R10): An uncorrectable ECC error poisons its line, is counted and is reported with the line's address. -/
  | uncorrectableError (addr : Nat)
  /-- ELEMENT_STATE_ERROR (spec R398): An error in element configuration state freezes and aborts the region for the loader to rewrite. -/
  | elementStateError (elem frame : Nat)
  /-- CORE_STATE_ERROR (spec R398): An error in core state resets the core, aborts its regions and discards its tasks. -/
  | coreStateError (core : Nat)
  /-- CLUSTER_CONTROL_ERROR (spec R398): An error in cluster control state resets the cluster's partition and re-announces other partitions' keys. -/
  | clusterControlError (cl : Nat)
  /-- HBM_STACK_FAILURE (spec R398): A failed HBM stack is taken offline, its lines poisoned and the partitions using it reset. -/
  | hbmStackFailure (stack : Nat)
  /-- UCIE_LINK_ERROR (spec R398): A UCIe link error retrains the link or routes through the third die. -/
  | ucieLinkError (d1 d2 : Nat) (exhausted : Bool)
  /-- SERVICE_CORE_FAILURE (spec R398): A failed service core is reset, its clusters pass on and a pending SVC is refused. -/
  | serviceCoreFailure (die sc : Nat)
  /-- PACKAGE_ERROR (spec R398): A package-class error stops the package for takeover by a spare. -/
  | packageError
  /-- FLIT_RECEIVE (spec R408): A fabric flit arrives and is taken, or refused on a CRC failure so the sender replays. -/
  | flitReceive (link : Nat) (crcOk : Bool) (items : FlitIn)
  /-- LINK_RETRAIN (spec R408): A link retrains after 16 consecutive replays of one flit or a forced RETRAIN. -/
  | linkRetrain (link : Nat) (ok : Bool)
  /-- LINK_DOWN (spec R409): A link goes down, entries using it swap to an alternate or drain, and replay entries are resent. -/
  | linkDown (link : Nat)
  /-- LINK_UP (spec R409): A link finishes training and comes up, changing no ensign entry. -/
  | linkUp (link : Nat) (lanes : BitVec 8)
  /-- LNK_CTL_WRITE (spec R408): A write of LNK_CTL enables or disables a link, or forces a retrain. -/
  | lnkCtlWrite (by_ : Writer) (link : Nat) (v : Word)
  /-- ENS_SELF_WRITE (spec R405): A write of ENS_SELF sets the logical chip number, taking effect only while no ingress port is enabled. -/
  | ensSelfWrite (by_ : Writer) (v : Word)
  /-- REMOTE_ITEM_ARRIVAL (spec R410): A remote item reaches its package and is delivered in stream order, held or dropped as a duplicate. -/
  | remoteItemArrival (n : Nat)
  /-- ACKNOWLEDGEMENT (spec R411): A cumulative acknowledgement frees replay entries, subject to the cut rule. -/
  | acknowledgement (lc cls num cut : Nat)
  /-- E2E_TIMEOUT (spec R411): An unacknowledged item times out and is resent; after LIMIT resends its destination drains and REPLAY_EXHAUSTED is reported. -/
  | e2eTimeout (n : Nat)
  /-- MARKER_ARRIVAL (spec R415): A cut marker arrives in a stream, holding later items and reporting the cut to firmware. -/
  | markerArrival (n : Nat)
  /-- ROLLBACK (spec R421): A package rolls back to a cut by resetting partitions, writing back images and restoring with CHKPT. -/
  | rollback (cut : Nat)
  /-- POWER_GATING_RETURN (spec R189): A power-gated core returns from power-gating and its cycle counter restarts at 0. -/
  | powerGatingReturn (core : Nat)
  /-- OBJECT_UNLOAD (spec R392): An object version is unloaded, freeing its handle entries so that references to it go stale and fetches through it fail with reason 6. -/
  | objectUnload (href : BitVec 32)
  /-- CORE_ASSIGNMENT (spec R197): A service core assigns a core to an ASID, writing its memory tiles' owner and zeroing the core's state before the new owner's first token. -/
  | coreAssignment (core asid : Nat)
  /-- ROUTED_RECORD_ARRIVAL (spec R277): A task record routed in transit reaches its home cluster, or the next cluster after a reroute, and is held there or made Ready if its keys are already granted. -/
  | routedRecordArrival (n : Nat)
  /-- FIRMWARE_UPDATE (spec R391): A service-core firmware update may discard cached native blocks and rebuild them from the object's graph section, keeping the handle. -/
  | firmwareUpdate (href : Update)
  deriving DecidableEq, Repr

end Sys2Proof
end

