-- ==== Sys2Proof/Machine/Bits.lean ====
section
/-! DEFINITION. Bit fields, extension, byte order, and the bit layout of a token (spec 02 Tables 2.1 to 2.3). -/
namespace Sys2Proof.Machine

/-- `len` bits of `n` from bit `lo`. -/
def bits (n lo len : Nat) : Nat := n / 2 ^ lo % 2 ^ len

/-- One bit of `n`. -/
def bit (n i : Nat) : Bool := n / 2 ^ i % 2 == 1

/-- 1 for true. -/
def b2n (b : Bool) : Nat := if b then 1 else 0

/-- The low `w` bits of `v`, sign-extended to 64 (00 Table 0.4). -/
def sx (w : Nat) (v : Word) : Word := (v.setWidth w).signExtend 64

/-- The low `w` bits of `v`, zero-extended to 64 (00 Table 0.4). -/
def zx (w : Nat) (v : Word) : Word := (v.setWidth w).setWidth 64

/-- The low `w` bits of a natural number as a signed integer. -/
def toSigned (w : Nat) (n : Nat) : Int :=
  let m := n % 2 ^ w
  if m < 2 ^ (w - 1) then m else (m : Int) - 2 ^ w

/-- An integer's two's-complement pattern of `w` bits. -/
def ofSigned (w : Nat) (i : Int) : Nat := (i % (2 ^ w : Int)).toNat

/-- Ceiling division. -/
def ceilDiv (a b : Nat) : Nat := (a + b - 1) / b

/-- Byte `i` of a number, little-endian (01 R16). -/
def byteOf (n i : Nat) : Byte := BitVec.ofNat 8 (n / 2 ^ (8 * i))

/-- The `w` bytes of a number, little-endian (01 R16). -/
def bytesOf (w n : Nat) : List Byte := (List.range w).map (byteOf n)

/-- The number that little-endian bytes hold (01 R16). -/
def ofBytes : List Byte → Nat
  | [] => 0
  | b :: r => b.toNat + 256 * ofBytes r

/-- A list cut into pieces of `n`; the last may be shorter. -/
def chunks {α : Type} (n : Nat) : Nat → List α → List (List α)
  | 0, _ => []
  | _, [] => []
  | k + 1, l => l.take n :: chunks n k (l.drop n)

/-- KIND of a token (02 Table 2.3, R39). -/
def Kind.code : Kind → BitVec 4
  | .data => 0 | .null => 1 | .order => 2 | .fault => 3 | .endm => 4 | .credit => 5
  | .config => 6 | .service => 7 | .header => 8 | .paddr => 9
  | .reserved n => BitVec.ofNat 4 (10 + n.val)

/-- The kind that a KIND field names (02 Table 2.3, R39). -/
def kindOf (k : BitVec 4) : Kind :=
  match k.toNat with
  | 0 => .data | 1 => .null | 2 => .order | 3 => .fault | 4 => .endm | 5 => .credit
  | 6 => .config | 7 => .service | 8 => .header | 9 => .paddr
  | 10 => .reserved 0 | 11 => .reserved 1 | 12 => .reserved 2
  | 13 => .reserved 3 | 14 => .reserved 4 | _ => .reserved 5

/-- The 128 bits of a token (02 Table 2.1). -/
def tokenBits (t : Token) : BitVec 128 :=
  t.cont ++ t.tag ++ Kind.code t.kind ++ t.rank ++ BitVec.ofBool t.psn ++ t.aux ++ t.value

/-- The token of 128 bits (02 Table 2.1). -/
def tokenOf (b : BitVec 128) : Token :=
  { cont := b.extractLsb' 98 30, tag := b.extractLsb' 78 20, kind := kindOf (b.extractLsb' 74 4)
    rank := b.extractLsb' 72 2, psn := b.getLsbD 71, aux := b.extractLsb' 64 7
    value := b.extractLsb' 0 64 }

/-! The fields of a continuation (02 Table 2.2), as numbers. -/

/-- Logical chip. -/
def contLC (c : BitVec 30) : Nat := bits c.toNat 20 10
/-- Global core number: die x 64 + cluster x 8 + core. -/
def contCore (c : BitVec 30) : Nat := bits c.toNat 12 8
/-- Element within the core. -/
def contE (c : BitVec 30) : Nat := bits c.toNat 7 5
/-- Global element number. -/
def contElem (c : BitVec 30) : Nat := bits c.toNat 7 13
/-- Frame. -/
def contFrame (c : BitVec 30) : Nat := bits c.toNat 4 3
/-- Slot within the frame. -/
def contS (c : BitVec 30) : Nat := bits c.toNat 2 2
/-- Slot index on the element: frame x 4 + slot. -/
def contSlot (c : BitVec 30) : Nat := bits c.toNat 2 5
/-- Port: 0 a, 1 b, 2 c, 3 p. -/
def contPort (c : BitVec 30) : Nat := bits c.toNat 0 2

/-- A continuation from its parts (02 Table 2.2). -/
def mkCont (lc elem slot port : Nat) : BitVec 30 :=
  BitVec.ofNat 30 (lc * 2 ^ 20 + elem % 8192 * 2 ^ 7 + slot % 32 * 4 + port % 4)

/-- A token of a kind with a value, no poison. -/
def mkTok (cont : BitVec 30) (tag : BitVec 20) (kind : Kind) (v : Word := 0) (aux : BitVec 7 := 0)
    (psn : Bool := false) (rank : BitVec 2 := 0) : Token :=
  { cont := cont, tag := tag, kind := kind, rank := rank, psn := psn, aux := aux, value := v }

/-- Whether poison counts on a token: DATA and PADDR only (02 R41, 03 R97). -/
def tokPsn (t : Token) : Bool := t.psn && (t.kind == .data || t.kind == .paddr)

/-- The space of a tag (02 R36). -/
def tagSpace (t : BitVec 20) : Nat := bits t.toNat 8 12
/-- The index of a tag (02 R36). -/
def tagIndex (t : BitVec 20) : Nat := bits t.toNat 0 8
/-- A tag from space and index. -/
def mkTag (space idx : Nat) : BitVec 20 := BitVec.ofNat 20 (space % 4096 * 256 + idx % 256)

end Sys2Proof.Machine
end

