-- ==== Sys2Proof/Machine/Formats.lean ====
section
/-! DEFINITION. Number formats and exact arithmetic (spec 01): format codes, floating values as exact dyadic
numbers, the one rounding, overflow, and the conversions of R23. -/
namespace Sys2Proof.Machine

/-- Parameters of a floating format (01 Table 1.2, Table 1.3): width, fraction bits, bias, emin, the
encoding of the largest finite value, of infinity if there is one, and of the canonical NaN. -/
structure FFmt where
  width : Nat
  frac  : Nat
  bias  : Int
  emin  : Int
  maxF  : Nat
  inf   : Option Nat
  nan   : Nat
  deriving DecidableEq, Repr

/-- F32. -/
def f32 : FFmt := { width := 32, frac := 23, bias := 127, emin := -126, maxF := 0x7F7FFFFF, inf := some 0x7F800000, nan := 0x7FC00000 }
/-- F16. -/
def f16 : FFmt := { width := 16, frac := 10, bias := 15, emin := -14, maxF := 0x7BFF, inf := some 0x7C00, nan := 0x7E00 }
/-- BF16. -/
def bf16 : FFmt := { width := 16, frac := 7, bias := 127, emin := -126, maxF := 0x7F7F, inf := some 0x7F80, nan := 0x7FC0 }
/-- E5M2. -/
def e5m2 : FFmt := { width := 8, frac := 2, bias := 15, emin := -14, maxF := 0x7B, inf := some 0x7C, nan := 0x7E }
/-- E4M3. -/
def e4m3 : FFmt := { width := 8, frac := 3, bias := 7, emin := -6, maxF := 0x7E, inf := none, nan := 0x7F }
/-- E2M1. -/
def e2m1 : FFmt := { width := 4, frac := 1, bias := 1, emin := 0, maxF := 0x7, inf := none, nan := 0x8 }

/-- A number format by its code (01 Table 1.1): integer of a width and signedness, floating, block-aligned. -/
inductive Fmt where
  | int (w : Nat) (signed : Bool)
  | flt (f : FFmt)
  | block
  deriving DecidableEq, Repr

/-- The format of a code (01 Table 1.1). -/
def fmtOf (c : Nat) : Fmt :=
  match c with
  | 0 => .int 8 true | 1 => .int 8 false | 2 => .int 16 true | 3 => .int 16 false
  | 4 => .int 32 true | 5 => .int 32 false | 6 => .int 64 true | 7 => .int 64 false
  | 8 => .flt f32 | 9 => .flt f16 | 10 => .flt bf16 | 11 => .flt e5m2 | 12 => .flt e4m3 | 13 => .flt e2m1
  | _ => .block

/-- Width in bits of a format's values. -/
def Fmt.width : Fmt → Nat
  | .int w _ => w
  | .flt f => f.width
  | .block => 0

/-- A floating value: NaN, an infinity, or a number (-1)^neg x m x 2^e, a zero keeping its sign. -/
inductive FVal where
  | nan
  | inf (neg : Bool)
  | num (neg : Bool) (m : Nat) (e : Int)
  deriving DecidableEq, Repr

/-- 2^n as an integer power for a signed n, negative exponents giving 1 (callers align first). -/
def pow2 (n : Int) : Nat := 2 ^ n.toNat

/-- The value that the low bits of a pattern encode (01 R17, R18). -/
def fdec (f : FFmt) (b : Nat) : FVal :=
  let b := b % 2 ^ f.width
  let neg := bit b (f.width - 1)
  let mag := b % 2 ^ (f.width - 1)
  if f.inf = none then
    if (f.width = 4 ∧ b = f.nan) ∨ (f.width ≠ 4 ∧ mag = f.nan) then .nan
    else
      let ex := mag / 2 ^ f.frac
      let fr := mag % 2 ^ f.frac
      if ex = 0 then .num neg fr (f.emin - f.frac) else .num neg (2 ^ f.frac + fr) (ex - f.bias - f.frac)
  else
    let ex := mag / 2 ^ f.frac
    let fr := mag % 2 ^ f.frac
    if some mag = f.inf then .inf neg
    else if mag > f.maxF then .nan
    else if ex = 0 then .num neg fr (f.emin - f.frac)
    else .num neg (2 ^ f.frac + fr) (ex - f.bias - f.frac)

/-- Number of significant bits. -/
def bitLen (n : Nat) : Nat := if n = 0 then 0 else Nat.log2 n + 1

/-- Whether a kept integer is raised by one: the discarded part compared with half (`ordering`), whether
anything is discarded, in a rounding mode, for a sign (01 Table 1.4). -/
def roundUp (mode : Nat) (neg odd inexact : Bool) (half : Ordering) : Bool :=
  match mode with
  | 0 => match half with
    | .gt => true
    | .eq => odd
    | .lt => false
  | 1 => false
  | 2 => neg && inexact
  | _ => !neg && inexact

/-- m x 2^(-d) rounded to an integer; `sticky` says that the exact value lies strictly between m and m + 1
(01 R21). -/
def roundShift (mode : Nat) (neg : Bool) (m : Nat) (d : Nat) (sticky : Bool) : Nat :=
  let kept := m / 2 ^ d
  let rem := m % 2 ^ d
  if d = 0 then
    -- everything below is the sticky part, less than half only if callers keep guard bits
    if roundUp mode neg (kept % 2 == 1) sticky .lt then kept + 1 else kept
  else
    let h := 2 ^ (d - 1)
    let o : Ordering := if rem < h then .lt else if rem > h then .gt else if sticky then .gt else .eq
    if roundUp mode neg (kept % 2 == 1) (rem != 0 || sticky) o then kept + 1 else kept

/-- The sign bit of a format over a magnitude; E2M1 has no negative zero (01 Table 1.3). -/
def withSign (f : FFmt) (neg : Bool) (mag : Nat) : Nat :=
  if neg && !(f.width == 4 && mag == 0) then mag + 2 ^ (f.width - 1) else mag

/-- The encoding of an infinite exact result (01 R23.2: formats without infinities). -/
def encInf (f : FFmt) (sat neg : Bool) : Nat :=
  match f.inf with
  | some i => withSign f neg i
  | none => if sat then withSign f neg f.maxF else f.nan

/-- The result of an overflow (01 Table 1.5). -/
def overflow (f : FFmt) (mode : Nat) (sat neg : Bool) : Nat :=
  let away := mode == 0 || (mode == 2 && neg) || (mode == 3 && !neg)
  if sat || !away then withSign f neg f.maxF
  else match f.inf with
    | some i => withSign f neg i
    | none => f.nan

/-- The exact value (-1)^neg x m x 2^e rounded once to a format (01 R21, R22); `sticky`: the value lies strictly
between m and m + 1 units (then m has at least 64 bits, or is 0 with a tiny unit). -/
def fround (f : FFmt) (mode : Nat) (sat neg : Bool) (m : Nat) (e : Int) (sticky : Bool := false) : Nat :=
  let qmin := f.emin - f.frac
  if m = 0 && !sticky then withSign f neg 0
  else
    let len : Int := bitLen m
    -- far below the smallest subnormal every such value rounds alike
    let (m, e, sticky) := if len + e < qmin - 2 then (1, qmin - 3, true) else (m, e, sticky)
    let len : Int := bitLen m
    let q := if len + e - (f.frac + 1) < qmin then qmin else len + e - (f.frac + 1)
    let kept :=
      if q ≤ e then (if roundUp mode neg false sticky .lt then m * pow2 (e - q) + 1 else m * pow2 (e - q))
      else roundShift mode neg m (q - e).toNat sticky
    let b := (q - qmin).toNat * 2 ^ f.frac + kept
    if b > f.maxF then overflow f mode sat neg else withSign f neg b

/-- A floating value in a format, rounded (01 R21 to R23). -/
def fenc (f : FFmt) (mode : Nat) (sat : Bool) : FVal → Nat
  | .nan => f.nan
  | .inf neg => encInf f sat neg
  | .num neg m e => fround f mode sat neg m e

/-- The signed integer mantissa of a number. -/
def smant (neg : Bool) (m : Nat) : Int := if neg then -(m : Int) else m

/-- A value rounded to an integer, its magnitude (01 R21); the sign is the operand's. -/
def roundInt (mode : Nat) (neg : Bool) (m : Nat) (e : Int) : Nat :=
  if 0 ≤ e then m * pow2 e
  else if (bitLen m : Int) + e < -2 then roundShift mode neg 1 3 true * (if m = 0 then 0 else 1)
  else roundShift mode neg m (-e).toNat false

/-! ## Sums, products, quotients, roots -/

/-- The sum of two numbers as an exact value; an exact zero has the sign of R20 in a mode. -/
def addNum (mode : Nat) (n1 : Bool) (m1 : Nat) (e1 : Int) (n2 : Bool) (m2 : Nat) (e2 : Int) : FVal :=
  if m1 = 0 ∧ m2 = 0 then .num (if n1 = n2 then n1 else mode == 2) 0 0
  else
    let e := if e1 ≤ e2 then e1 else e2
    let s := smant n1 (m1 * pow2 (e1 - e)) + smant n2 (m2 * pow2 (e2 - e))
    if s = 0 then .num (mode == 2) 0 0 else .num (decide (s < 0)) s.natAbs e

/-- fx + fy exactly (01 R20, R21). -/
def addV (mode : Nat) : FVal → FVal → FVal
  | .nan, _ => .nan
  | _, .nan => .nan
  | .inf a, .inf b => if a = b then .inf a else .nan
  | .inf a, _ => .inf a
  | _, .inf b => .inf b
  | .num n1 m1 e1, .num n2 m2 e2 => addNum mode n1 m1 e1 n2 m2 e2

/-- -fx. -/
def negV : FVal → FVal
  | .nan => .nan
  | .inf a => .inf (!a)
  | .num n m e => .num (!n) m e

/-- fx x fy exactly; 0 x infinity is NaN (01 R20). -/
def mulV : FVal → FVal → FVal
  | .nan, _ => .nan
  | _, .nan => .nan
  | .inf a, .inf b => .inf (a != b)
  | .inf a, .num n m _ => if m = 0 then .nan else .inf (a != n)
  | .num n m _, .inf a => if m = 0 then .nan else .inf (a != n)
  | .num n1 m1 e1, .num n2 m2 e2 => .num (n1 != n2) (m1 * m2) (e1 + e2)

/-- rnd(fx + fy). -/
def fadd (f : FFmt) (mode : Nat) (sat : Bool) (x y : FVal) : Nat := fenc f mode sat (addV mode x y)
/-- rnd(fx x fy). -/
def fmul (f : FFmt) (mode : Nat) (sat : Bool) (x y : FVal) : Nat := fenc f mode sat (mulV x y)
/-- rnd(fx x fy + fz), one rounding. -/
def ffma (f : FFmt) (mode : Nat) (sat : Bool) (x y z : FVal) : Nat := fenc f mode sat (addV mode (mulV x y) z)

/-- rnd(fx / fy) (01 R20, 05 R146). -/
def fdivV (f : FFmt) (mode : Nat) (sat : Bool) : FVal → FVal → Nat
  | .nan, _ => f.nan
  | _, .nan => f.nan
  | .inf _, .inf _ => f.nan
  | .inf a, .num n _ _ => encInf f false (a != n)
  | .num n _ _, .inf a => withSign f (n != a) 0
  | .num n1 m1 e1, .num n2 m2 e2 =>
    if m2 = 0 then (if m1 = 0 then f.nan else encInf f false (n1 != n2))
    else
      let n := m1 * 2 ^ 192
      fround f mode sat (n1 != n2) (n / m2) (e1 - e2 - 192) (n % m2 != 0)

/-- The integer square root, by bits from the top: `k` bits still to try. -/
def isqrtFrom (n : Nat) : Nat → Nat → Nat
  | 0, r => r
  | k + 1, r => let t := r + 2 ^ k; if t * t ≤ n then isqrtFrom n k t else isqrtFrom n k r

/-- The integer square root of `n`. -/
def isqrt (n : Nat) : Nat := isqrtFrom n (bitLen n / 2 + 1) 0

/-- rnd(sqrt fx) (05 Table 5.2). -/
def fsqrtV (f : FFmt) (mode : Nat) (sat : Bool) : FVal → Nat
  | .nan => f.nan
  | .inf neg => if neg then f.nan else encInf f false false
  | .num neg m e =>
    if m = 0 then withSign f neg 0
    else if neg then f.nan
    else
      let (m, e) := if e % 2 = 0 then (m, e) else (m * 2, e - 1)
      let n := m * 2 ^ 256
      let r := isqrt n
      fround f mode sat false r (e / 2 - 128) (r * r != n)

/-- rnd(1 / sqrt fx) (05 Table 5.2). -/
def frsqV (f : FFmt) (mode : Nat) (sat : Bool) : FVal → Nat
  | .nan => f.nan
  | .inf neg => if neg then f.nan else withSign f false 0
  | .num neg m e =>
    if m = 0 then encInf f false neg
    else if neg then f.nan
    else
      let (m, e) := if e % 2 = 0 then (m, e) else (m * 2, e - 1)
      let n := 2 ^ 384
      let r := isqrt (n / m)
      fround f mode sat false r (-(e / 2) - 192) (r * r * m != n)

/-- rnd(1 / fx) (05 Table 5.2). -/
def frcpV (f : FFmt) (mode : Nat) (sat : Bool) (x : FVal) : Nat := fdivV f mode sat (.num false 1 0) x

/-! ## Comparison -/

/-- fx < fy, fx = fy or fx > fy; none if either is NaN. Zeros are equal (05 R144). -/
def fcmp : FVal → FVal → Option Ordering
  | .nan, _ => none
  | _, .nan => none
  | .inf a, .inf b => some (if a = b then .eq else if a then .lt else .gt)
  | .inf a, .num _ _ _ => some (if a then .lt else .gt)
  | .num _ _ _, .inf b => some (if b then .gt else .lt)
  | .num n1 m1 e1, .num n2 m2 e2 =>
    let e := if e1 ≤ e2 then e1 else e2
    let a := smant n1 (m1 * pow2 (e1 - e))
    let b := smant n2 (m2 * pow2 (e2 - e))
    some (if a < b then .lt else if a = b then .eq else .gt)

/-- Whether a value carries the negative sign. -/
def FVal.neg : FVal → Bool
  | .nan => false
  | .inf n => n
  | .num n _ _ => n

/-- Whether a value is NaN. -/
def FVal.isNan : FVal → Bool
  | .nan => true
  | _ => false

/-- fx orders below fy with -0 below +0 (05 R145). -/
def fless (x y : FVal) : Bool :=
  match fcmp x y with
  | some .lt => true
  | some .eq => x.neg && !y.neg
  | _ => false

/-- FMIN or FMAX of two patterns (05 R145). -/
def fminmax (f : FFmt) (isMax : Bool) (x y : Nat) : Nat :=
  let x := x % 2 ^ f.width
  let y := y % 2 ^ f.width
  let vx := fdec f x
  let vy := fdec f y
  if vx.isNan && vy.isNan then f.nan
  else if vx.isNan then y
  else if vy.isNan then x
  else if isMax then (if fless vx vy then y else x)
  else (if fless vy vx then y else x)

/-! ## Conversions (01 R23) -/

/-- The range of an integer format. -/
def intLo (w : Nat) (signed : Bool) : Int := if signed then -(2 ^ (w - 1) : Int) else 0
/-- The range of an integer format. -/
def intHi (w : Nat) (signed : Bool) : Int := if signed then 2 ^ (w - 1) - 1 else 2 ^ w - 1

/-- The integer that the low bits of a pattern hold in an integer format. -/
def intDec (w : Nat) (signed : Bool) (b : Nat) : Int := if signed then toSigned w b else ((b % 2 ^ w : Nat) : Int)

/-- An integer clamped to a range. -/
def clampI (lo hi x : Int) : Int := if x < lo then lo else if hi < x then hi else x

/-- A value converted to an integer format: rounded in a mode, saturated; NaN gives 0 (01 R23.3). -/
def toIntV (w : Nat) (signed : Bool) (mode : Nat) : FVal → Int
  | .nan => 0
  | .inf neg => if neg then intLo w signed else intHi w signed
  | .num neg m e =>
    if m ≠ 0 ∧ 200 < (bitLen m : Int) + e then (if neg then intLo w signed else intHi w signed)
    else clampI (intLo w signed) (intHi w signed) (smant neg (roundInt mode neg m e))

/-- A pattern of one format converted to another, as the target's pattern of its own width (01 R23). -/
def convert (src dst : Fmt) (mode : Nat) (sat : Bool) (b : Nat) : Nat :=
  match src, dst with
  | .flt f, .flt g => fenc g mode sat (fdec f b)
  | .flt f, .int w s => ofSigned w (toIntV w s mode (fdec f b))
  | .int w s, .flt g =>
    let i := intDec w s b
    fround g mode sat (decide (i < 0)) i.natAbs 0
  | .int w s, .int w' s' =>
    let i := intDec w s b
    ofSigned w' (if sat then clampI (intLo w' s') (intHi w' s') i else i)
  | _, _ => 0

/-- A pattern of a format as a 64-bit value: signed integers sign-extended, everything else zero-extended
(01 R15). -/
def extFmt (f : Fmt) (b : Nat) : Word :=
  match f with
  | .int w true => BitVec.ofInt 64 (toSigned w b)
  | .int w false => BitVec.ofNat 64 (b % 2 ^ w)
  | .flt g => BitVec.ofNat 64 (b % 2 ^ g.width)
  | .block => BitVec.ofNat 64 b

/-! ## Order-preserving keys (01 R33) -/

/-- Every NaN made canonical. -/
def canonNan (f : FFmt) (x : Nat) : Nat :=
  let x := x % 2 ^ f.width
  if (fdec f x).isNan then f.nan else x

/-- OBT of one pattern. -/
def obtKey (f : FFmt) (x : Nat) : Nat :=
  let x := canonNan f x
  if bit x (f.width - 1) then x ^^^ (2 ^ f.width - 1) else x ^^^ 2 ^ (f.width - 1)

/-- OBTI of one key. -/
def obtVal (f : FFmt) (k : Nat) : Nat :=
  let k := k % 2 ^ f.width
  canonNan f (if bit k (f.width - 1) then k ^^^ 2 ^ (f.width - 1) else k ^^^ (2 ^ f.width - 1))

end Sys2Proof.Machine
end

