-- ==== Sys2Proof/Machine/State.lean ====
section
/-! DEFINITION. The state of one Z8 package as plain data, and the state after reset. Cores are numbered
0 to 255 (die x 64 + cluster x 8 + core), clusters 0 to 31 (die x 8 + cluster), elements 0 to 8,191
(core x 32 + E). A table not listed at a key reads there as the `default` its owner names. -/
namespace Sys2Proof.Machine

/-- Why the machine stops where the spec gives no step. -/
inductive Fault where
  /-- Raised by a meaning that is asked to act on a firing or an event whose own precondition does not hold
  (no complete operand set at the focus, no such waiting item, an event not due). `step` never takes such
  an event, so no run meets it. Safe: the machine stops where the hardware takes no such step. -/
  | notEnabled
  /-- Raised by every step after a package-class error or a failed bring-up: the package has stopped
  (15 R398 class 10, R400). Safe: nothing is claimed of a stopped package. -/
  | packageStopped
  deriving DecidableEq, Repr

/-- Why the model gives no meaning. -/
inductive Refusal where
  /-- Raised by an arm of `exec` whose meaning is not written yet. Safe: nothing is claimed of it. -/
  | notModelled (mnemonic : String)
  deriving DecidableEq, Repr

/-- What a step, an event or a firing answers. -/
abbrev Res (σ : Type) := Host.Outcome σ Fault Refusal

/-! ## Places -/

/-- The sideband of a token: core, frame and open sequence of the activation that emitted it (13 R366). -/
structure ActRef where
  core  : Nat
  frame : Nat
  seq   : Nat
  deriving DecidableEq, Repr

/-- Who emitted a token; tokens of one source to one continuation under one tag stay in order (03 R76). `replay` is the entry log
of a core, whose records a restore delivers again in their order of arrival (13 R370). -/
inductive Src where
  | replay (core : Nat)
  | slot (elem frame slot : Nat)
  | unit (core n : Nat)
  | port (p : Nat)
  | ctl (cl : Nat)
  | fabric (lc : Nat)
  deriving DecidableEq, Repr

/-- A token on its way (03 R76) with its sideband, the generation of its sender's partition (15 R396), the issue number
of the firing that sent it (03 R77), and whether it has reached its element's input and is held there (03 R83). -/
structure Flight where
  tok  : Token
  src  : Src
  side : Option ActRef := none
  gen  : BitVec 6 := 0
  iss  : Nat := 0
  atInput : Bool := false
  deriving DecidableEq, Repr

/-- The firing that an outstanding operation answers to: where it fired, under which tag, in which
activation (its occurrence and open sequence number), ASID, its word's OP and targets, and its issue number, which rises
from firing to firing of an element (03 R77). -/
structure Site where
  elem  : Nat
  frame : Nat
  slot  : Nat
  tag   : BitVec 20
  occ   : Nat
  seq   : Option Nat
  asid  : BitVec 10
  op    : BitVec 9
  t0    : BitVec 22
  t1    : BitVec 22
  iss   : Nat := 0
  deriving DecidableEq, Repr

/-! ## Elements (03 Table 3.1) -/

/-- Where an operand waits: a shared or a kept matching-store entry, the overflow store, or no entry, as it
completed an operand set (03 R78, R80, R81). -/
inductive Place where
  | shared | kept | spilled | direct
  deriving DecidableEq, Repr

/-- A waiting operand of an element: slot index (frame x 4 + slot), token (its continuation names the port),
place, arrival stamp. List order is arrival order, so each queue of R75 is a sublist. -/
structure Operand where
  slot  : Nat
  tok   : Token
  place : Place
  stamp : Nat
  side  : Option ActRef
  deriving DecidableEq, Repr

/-- The element fault register (03 Table 3.4); `elem` gives DIE, CLUSTER, CORE and ELEM, `arose` orders the
reports of one controller (03 R102). -/
structure FaultReg where
  valid  : Bool := false
  multi  : Bool := false
  op     : BitVec 9 := 0
  psn    : Bool := false
  kind   : BitVec 4 := 0
  tag    : BitVec 20 := 0
  elem   : Nat := 0
  port   : BitVec 2 := 0
  slot   : BitVec 2 := 0
  frame  : BitVec 3 := 0
  code   : BitVec 8 := 0
  detail : Word := 0
  arose  : Nat := 0
  deriving DecidableEq, Repr

/-! ## Cores (06 Table 6.1) -/

/-- Frame states (06 Table 6.2). -/
inductive FrameState where
  | free | loading | transient | cached | resident
  deriving DecidableEq, Repr

/-- A frame (06 R161, R162). `loadTask` says that a task's dispatch or fetch is loading it. -/
structure Frame where
  state    : FrameState := .free
  header   : BitVec 128 := 0
  lo       : Option Word := none
  asid     : BitVec 10 := 0
  handle   : BitVec 32 := 0
  block    : BitVec 20 := 0
  chain    : BitVec 32 := 0
  routes   : Tab (BitVec 32) := []
  held     : List CfgMsg := []
  firmware : Bool := false
  loadTask : Bool := false
  cachedAt : Nat := 0
  deriving DecidableEq, Repr

/-- A write of an activation to a hold register: a staged value with its PSN, or a null-write (06 R170). -/
inductive Staged where
  | null
  | value (v : Word) (psn : Bool)
  deriving DecidableEq, Repr

/-- An activation record (06 R161, R165, R166, R168). `task` names the task that its context held as it opened (06 R179);
`exposed` serves hard pre-emption (13 R365). -/
structure Act where
  frame   : Nat
  tag     : BitVec 20
  occ     : Nat
  seq     : Nat
  ctx     : Option Nat := none
  task    : Nat := 0
  lsids   : BitVec 32 := 0
  writes  : Tab Staged := []
  exit    : Option (BitVec 20 × BitVec 4) := none
  poison  : Bool := false
  exposed : Bool := false
  deriving DecidableEq, Repr

/-- A task-context or release fault record (06 Table 6.5, 13 R346). `noctx` is bit 15 of the latter. -/
structure FetchRec where
  srcblk  : BitVec 20 := 0
  srchnd  : BitVec 32 := 0
  tva     : BitVec 48 := 0
  valid   : Bool := false
  code    : BitVec 8 := 0
  reason  : BitVec 4 := 0
  exitidx : BitVec 4 := 0
  tblk    : BitVec 20 := 0
  ctx     : BitVec 4 := 0
  noctx   : Bool := false
  asid    : BitVec 10 := 0
  deriving DecidableEq, Repr

/-- States of a task context (06 Table 6.1; `retiring` from 10 Table 10.4). -/
inductive CtxState where
  | free | running | parked | saved | retiring
  deriving DecidableEq, Repr

/-- The successor that a fired EXIT named (06 R175 to R178): its block, the exit index, the exiting block and
handle, the exiting activation, and the fault the fetch has met (reason, TVA). -/
structure Succ where
  block  : BitVec 20
  exit   : BitVec 4
  srcblk : BitVec 20
  srchnd : BitVec 32
  srcSeq : Nat
  failed : Option (BitVec 4 × Nat) := none
  deriving DecidableEq, Repr

/-- A task context (06 R161, R173). `hold` gives H0 to H63 with their PSN bits, default (0, false). -/
structure Ctx where
  state  : CtxState := .free
  hold   : Tab (Word × Bool) := []
  asid   : BitVec 10 := 0
  handle : BitVec 32 := 0
  poison : Bool := false
  task   : Nat := 0
  next   : Option Succ := none
  resume : Option (BitVec 20) := none
  record : FetchRec := {}
  deriving DecidableEq, Repr

/-- A translation as a holder or the directory keeps it (13 R338, R339): ASID, VA page base, size code,
physical page base, permissions, D, PX mark, and the frame and task that set the mark. -/
structure Xlat where
  asid  : BitVec 10
  va    : Nat
  size  : Nat
  pa    : Nat
  r     : Bool
  w     : Bool
  d     : Bool
  px    : Bool := false
  pxFrame : Nat := 0
  pxTask  : Option Nat := none
  deriving DecidableEq, Repr

/-- A buffered store (06 R180, 11 R304). `inTable` says its line holds a forwarding-table entry; a store
without one has its line in the line filter. `stale` says that its translation was removed (13 R346).
`strel` is the scope of a release store. -/
structure Buffered where
  seq     : Nat
  lsid    : BitVec 5
  va      : Nat
  isPa    : Bool
  pa      : Nat
  width   : Nat
  data    : Word
  psn     : Bool
  inTable : Bool
  stale   : Bool := false
  strel   : Option Nat := none
  site    : Site
  srcblk  : BitVec 20
  srchnd  : BitVec 32
  ctx     : Option Nat
  deriving DecidableEq, Repr

/-- The LSIDs that an activation of a chain-mode block has issued, null-stored or null-loaded, kept past its commit while
one of the frame's chain mask is missing (06 R182). -/
structure LsDone where
  frame : Nat
  tag   : BitVec 20
  occ   : Nat
  bits  : BitVec 32
  deriving DecidableEq, Repr

/-- A chain-mode memory firing in the LSID queue waiting for its turn (06 R182): its operand set, place and issue
number, and its slot's word as it was when the firing began (02 R44). -/
structure LsEntry where
  frame : Nat
  slot  : Nat
  elem  : Nat
  tag   : BitVec 20
  occ   : Nat
  lsid  : BitVec 5
  toks  : List Operand
  word  : BitVec 128 := 0
  iss   : Nat := 0
  deriving DecidableEq, Repr

/-- A generator fault record (07 Table 7.8). -/
structure GenRec where
  valid  : Bool := false
  reason : BitVec 4 := 0
  code   : BitVec 8 := 0
  qocc   : BitVec 7 := 0
  pos    : BitVec 40 := 0
  fva    : BitVec 48 := 0
  deriving DecidableEq, Repr

/-- A position in a generator's queue: empty, its read on its way (the access of that id), or read. -/
inductive GenPos where
  | empty
  | pending (acc : Nat)
  | value (v : Word) (psn : Bool)
  deriving DecidableEq, Repr

/-- Generator states as STRMK QUERY reports them (07 R219). -/
inductive GenState where
  | idle | running | stopped | cancelling
  deriving DecidableEq, Repr

/-- An address generator (07 R214 to R219): the eight descriptor words, the STREAM's site, positions issued
and emitted, the queue between them, the run of empty positions not sent yet, whether the END of the last
emitted position is due, the rank of the last END sent, the fault met at a position (code, DETAIL, position) behind which
earlier positions are still to be emitted, STRMK waiters. -/
structure Gen where
  state   : GenState := .idle
  desc    : List Word := []
  site    : Option Site := none
  issued  : Nat := 0
  emitted : Nat := 0
  queue   : List GenPos := []
  run     : Nat := 0
  endDue  : Bool := false
  ended3  : Bool := false
  cancel  : Bool := false
  fail    : Option (Nat × Nat × Nat) := none
  record  : GenRec := {}
  waiters : List Site := []
  deriving DecidableEq, Repr

/-- The range of a session or of a matrix load (07 R220, R222, R223, 08 R243): rows of `len` bytes, `stride` apart; the base as
the firing gave it, and as a local physical address in one tile; `tail` counts the bytes of an exponent table that follows the
rows at their stride (08 R243); `stale` says that a translation which may serve it has been removed since (13 R337). -/
structure TileRange where
  tok    : Token
  base   : Nat
  rows   : Nat
  len    : Nat
  stride : Nat
  tail   : Nat := 0
  stale  : Bool := false
  deriving DecidableEq, Repr

/-- A session of a spread unit (07 R220 to R222, R426). `wring` reads, `spread` writes; `dead` marks a
poisoned SPREAD, which writes nothing, `marked` the lines that it has poisoned; `made` names the residency entry that a WRING
fills (10 R269). -/
inductive SpreadUnit where
  | wring (site : Site) (range : TileRange) (w cols : Nat) (sx : Bool) (row col run : Nat) (made : Option (Nat × Nat))
  | spread (site : Site) (range : TileRange) (w cols row col : Nat) (dead : Bool) (marked : List Nat)
  deriving DecidableEq, Repr

/-- A reduction-port session (07 R223). -/
structure RSession where
  site : Site
  range : TileRange
  n    : Nat
  w    : Nat
  op   : Nat
  fmt  : BitVec 4
  pos  : Nat := 0
  dead : Bool := false
  deriving DecidableEq, Repr

/-- A channel stall record (07 Table 7.9). -/
structure StallRec where
  valid   : Bool := false
  pep     : BitVec 22 := 0
  cep     : BitVec 22 := 0
  depth   : BitVec 11 := 0
  pcred   : BitVec 11 := 0
  cfree   : BitVec 11 := 0
  debt    : BitVec 11 := 0
  pslot   : BitVec 10 := 0
  cslot   : BitVec 10 := 0
  lasttag : BitVec 20 := 0
  cyc     : Word := 0
  deriving DecidableEq, Repr

/-- Endpoint states as cause 12 reports them (04 Table 4.1); a closing endpoint keeps its side. -/
inductive EpState where
  | closed | producer | consumer
  | closing (consumer : Bool)
  deriving DecidableEq, Repr

/-- A channel endpoint (07 R225 to R227). Peers are (core, endpoint). `buf` keeps tokens with their sideband (13 R366), `held`
credits that reached it while closed, with their sender. `since` is when both stall conditions began to hold. -/
structure Endpoint where
  state   : EpState := .closed
  depth   : Nat := 0
  peer    : Nat × Nat := (0, 0)
  pcred   : Nat := 0
  granted : Nat := 0
  buf     : List (Token × Option ActRef) := []
  debt    : Nat := 0
  held    : List (Nat × Nat × Nat) := []
  frame   : Nat := 0
  opener  : Nat := 0
  recv    : Option (Nat × Nat) := none
  lastTag : BitVec 20 := 0
  waiting : List (Nat × Nat × Nat) := []
  closer  : Option Site := none
  since   : Option Nat := none
  stall   : StallRec := {}
  deriving DecidableEq, Repr

/-- A weight array of a macro (08 Table 8.1). Words are keyed row x 512 + column and held as stored bits;
exponents block x 512 + column. -/
structure Arr where
  words  : Tab (BitVec 16) := []
  exps   : Tab (BitVec 8) := []
  wfmt   : BitVec 4 := 0
  wcols  : Nat := 256
  rowPsn : BitVec 256 := 0
  bad    : Bool := false
  ckRow  : Tab (BitVec 16) := []
  ckCol  : Tab (BitVec 16) := []
  deriving DecidableEq, Repr

/-- A matrix command in a macro's queue (08 R234), with its place in the core's issue order (08 R236). -/
inductive MCmdBody where
  | mcfg (fa fw : BitVec 4) (nbase : Nat) (psn : Bool)
  | mldb (range : TileRange) (par : Word) (psn : Bool)
  | mswap
  | mbc (rb seg rows : Nat) (spec : Word) (psn isNull isW : Bool)
  | mchk (shadow : Bool)
  deriving DecidableEq, Repr

/-- A queued matrix command with its issue stamp and site. -/
structure MCmd where
  body  : MCmdBody
  stamp : Nat
  site  : Site
  deriving DecidableEq, Repr

/-- A partial P x 2^q, with the marks of an invalid block and of poison (01 R28). -/
structure Partial where
  p   : Int
  q   : Int
  nan : Bool := false
  psn : Bool := false
  deriving DecidableEq, Repr

/-- A broadcast at a macro's output: the partials of each node's contribution not delivered yet, how many have
been, the poison of those, and whether T1 of MBCW has been sent (08 R233, R237, R245). -/
structure MOut where
  stamp  : Nat
  site   : Site
  isW    : Bool
  isNull : Bool
  total  : Nat
  psn    : Bool
  told   : Bool := false
  parts  : List (Nat × List Partial)
  deriving DecidableEq, Repr

/-- A compute-in-memory macro (08 R229). -/
structure Macro where
  active : Arr := {}
  shadow : Arr := {}
  afmt   : BitVec 4 := 0
  lfmt   : BitVec 4 := 0
  nbase  : Nat := 0
  cpsn   : Bool := false
  queue  : List MCmd := []
  out    : Option MOut := none
  deriving DecidableEq, Repr

/-- What froze a node (08 R252): an addition, with the macro whose output holds the rest of the contribution, or
a release. -/
inductive NodeStop where
  | partial_ (macr : Nat)
  | release
  deriving DecidableEq, Repr

/-- An accumulator node (01 Table 1.8, 08 R229, R237). -/
structure Node where
  s      : Int := 0
  b0     : Int := 0
  h      : Nat := 0
  trunc  : Bool := false
  l      : Int := 0
  range  : Bool := false
  lost   : Bool := false
  nan    : Bool := false
  psn    : Bool := false
  parts  : Nat := 0
  count  : Nat := 0
  group  : Option Nat := none
  stop   : Option NodeStop := none
  deriving DecidableEq, Repr

/-- An armed group (08 R237, R238). -/
structure Group where
  id   : Nat
  n0   : Nat
  cnt  : Nat
  c    : Nat
  r    : Nat
  fmt  : BitVec 4
  sat  : Bool
  clr  : Bool
  rel  : Nat := 0
  site : Site
  deriving DecidableEq, Repr

/-- A node instruction posted behind earlier broadcasts (08 R236). -/
inductive NCmdBody where
  | set (b0 : Int) (h : Nat) (trunc psn : Bool)
  | cnt (c r : Nat) (fmt : BitVec 4) (sat clr psn : Bool)
  | rd (fmt : BitVec 4) (sat clr : Bool)
  | clr
  deriving DecidableEq, Repr

/-- A posted node instruction with its range, stamp and site. -/
structure NCmd where
  body  : NCmdBody
  n0    : Nat
  cnt   : Nat
  stamp : Nat
  site  : Site
  deriving DecidableEq, Repr

/-- The matrix fault record of a core (08 Table 8.5). -/
structure MatRec where
  valid  : Bool := false
  multi  : Bool := false
  source : BitVec 4 := 0
  node   : BitVec 11 := 0
  macr   : BitVec 3 := 0
  q      : BitVec 12 := 0
  p      : BitVec 36 := 0
  deriving DecidableEq, Repr

/-- A record of the entry log (13 R366). -/
structure LogRec where
  frame : Nat
  seq   : Nat
  tok   : Token
  side  : Option ActRef
  deriving DecidableEq, Repr

/-- A core (06 Table 6.1 and the core chapters). Counts are keyed as Machine/Ops.lean says. `past` keeps the records of
activations that have committed, whose firings and outstanding operations may still emit, read or ask (06 R174, R179, R181,
R191), until their frame's header is loaded again. `moved` gives when a frame last saw a firing, an arrival or a resume
(11 R315). -/
structure Core where
  frames   : Tab Frame := []
  acts     : List Act := []
  past     : List Act := []
  arrived  : Tab Nat := []
  firedN   : Tab Nat := []
  opened   : Tab Nat := []
  committed : Tab Nat := []
  nextSeq  : Nat := 0
  ctxs     : Tab Ctx := []
  stores   : List Buffered := []
  releaseQ : List Buffered := []
  relHeld  : Bool := false
  relRec   : FetchRec := {}
  lsq      : List LsEntry := []
  lsDone   : List LsDone := []
  cycleAt0 : Nat := 0
  gens     : Tab Gen := []
  spread   : Tab SpreadUnit := []
  rport    : Tab RSession := []
  rowbuf   : Tab Byte := []
  rowPsn   : Tab Bool := []
  eps      : Tab Endpoint := []
  macros   : Tab Macro := []
  nodes    : Tab Node := []
  groups   : List Group := []
  ncmds    : List NCmd := []
  mstamp   : Nat := 0
  matRec   : MatRec := {}
  tlb      : List Xlat := []
  log      : List LogRec := []
  logLost  : Tab Bool := []
  gated    : Bool := false
  moved    : Tab Nat := []
  deriving DecidableEq, Repr

/-! ## Clusters -/

/-- A tag space (03 R86, 04 R123 to R129): its size, current index, parent tag, whether it is freeing, the
core whose indices it counts against, its owning context (core, context), a TFREE waiting on it, the TNEXTs that wait on it
(element, slot index, tag), and the activations (core, sequence number) that allocated it and made it freeing (13 R367). -/
structure Space where
  size    : Nat
  cur     : Nat
  parent  : BitVec 20
  freeing : Bool
  core    : Nat
  owner   : Option (Nat × Nat)
  tfree   : Option (Site × Token)
  nexts   : List (Nat × Nat × BitVec 20) := []
  maker   : Option (Nat × Nat) := none
  freer   : Option (Nat × Nat) := none
  deriving DecidableEq, Repr

/-- A TALLOC or TCALL that waits (04 R123): core, element, slot index and tag, in order of arrival, the size asked for, and
when its event arrived, which orders it among the queues of several pools. -/
structure AllocWait where
  core : Nat
  elem : Nat
  slot : Nat
  tag  : BitVec 20
  size : Nat
  came : Nat := 0
  deriving DecidableEq, Repr

/-- A QUIET request (06 R191): the firing's place, the set once taken as (core, seq) pairs. -/
structure QuietReq where
  elem : Nat
  slot : Nat
  tag  : BitVec 20
  own  : List (Nat × Nat)
  taken : Option (List (Nat × Nat))
  deriving DecidableEq, Repr

/-- A region controller (06 Table 6.4, R190; 03 R85). -/
structure Region where
  gen    : BitVec 6 := 0
  asid   : BitVec 10 := 0
  valid  : Bool := false
  frames : BitVec 8 := 0
  cur    : BitVec 3 := 0
  row0   : BitVec 3 := 0
  col0   : BitVec 3 := 0
  hm1    : BitVec 3 := 0
  wm1    : BitVec 3 := 0
  period : BitVec 32 := 0
  swq    : List (BitVec 3 × Token × Site) := []
  quiet  : Bool := false
  spaces : Tab Space := []
  allocq : List AllocWait := []
  quiets : List QuietReq := []
  hoist  : BitVec 32 := 0
  deriving DecidableEq, Repr

/-- A controller's copy of a fault register (03 R99, R102), held until acknowledged. -/
structure FaultCopy where
  reg  : FaultReg := {}
  held : Bool := false
  deriving DecidableEq, Repr

/-- A quiescence stall record (11 Table 11.5). -/
structure QStall where
  valid  : Bool := false
  kind   : Bool := false
  cl     : Nat := 0
  unit   : BitVec 3 := 0
  frames : BitVec 8 := 0
  period : BitVec 32 := 0
  oldtag : BitVec 20 := 0
  elem   : BitVec 5 := 0
  frame  : BitVec 3 := 0
  slot   : BitVec 2 := 0
  port   : BitVec 2 := 0
  pend   : BitVec 15 := 0
  deriving DecidableEq, Repr

/-- A key request: task, home cluster, mode, reserved mark (10 R277 to R279). -/
structure KeyReq where
  task : Nat
  home : Nat
  asid : BitVec 10
  key  : BitVec 31
  excl : Bool
  resv : Bool
  deriving DecidableEq, Repr

/-- A key-table entry (10 R276): its holders and queue. -/
structure KeyEntry where
  asid    : BitVec 10
  key     : BitVec 31
  holders : List (Nat × Bool)
  queue   : List KeyReq
  deriving DecidableEq, Repr

/-- Residency entry states (10 Table 10.5); a free entry is not listed. -/
inductive ResState where
  | filling | valid | stale
  deriving DecidableEq, Repr

/-- A residency entry (10 R268). `made` orders evictions (10 R272); `notice` marks a filling entry that a
stale notice has reached (10 R270). -/
structure ResEntry where
  state  : ResState
  pin    : Bool
  asid   : BitVec 10
  tref   : BitVec 32
  loc    : Nat
  bytes  : Nat
  offset : Nat
  made   : Nat
  notice : Bool := false
  deriving DecidableEq, Repr

/-- A completion counter (11 R309). -/
structure Counter where
  v     : BitVec 32 := 0
  fault : Bool := false
  uflow : Bool := false
  deriving DecidableEq, Repr

/-- A CNTWAIT posted at a counter, or returned for a full pool (11 R310). -/
structure CntWait where
  idx      : Nat
  site     : Site
  returned : Bool
  due      : Nat
  deriving DecidableEq, Repr

/-- A monitor entry (11 R312); `remote` gives the logical chip, unit and generation of a WAITA from another
package. -/
structure MonEntry where
  addr  : Nat
  width : Nat
  cond  : BitVec 2
  y     : Word
  sx    : Bool
  due   : Option Nat
  site  : Site
  remote : Option (Nat × Nat × BitVec 6) := none
  deriving DecidableEq, Repr

/-- What ended a halyard request (13 R352, R353): code, PROTECTION reason, side (0 source, 1 destination, 2 index,
3 none), faulting VA. -/
structure HalFail where
  code   : Nat
  reason : Nat
  side   : Nat
  va     : Nat
  deriving DecidableEq, Repr

/-- A halyard request (13 R347 to R354): operation 0 to 4, descriptor words, site, scope, generation, the item
and byte the next unit begins at, bytes and items written; for another package (16 R410 to R413) the words asked
for (unit, physical address, side, VA) and received (address, value), whether the present unit or the record has
been sent, its bytes and destination VA, and the items not acknowledged; a failure met; whether the units are done; the stamp of the
residency entry that a copy fills (10 R269); the lines that it has poisoned (07 R200). -/
structure HalReq where
  id      : Nat
  op      : Nat
  desc    : List Word
  site    : Site
  scope   : Nat
  gen     : BitVec 6
  item    : Nat := 0
  off     : Nat := 0
  bytes   : Nat := 0
  items   : Nat := 0
  asked   : List (Nat × Nat × Nat × Nat) := []
  got     : List (Nat × Word) := []
  sent    : Bool := false
  unit    : Nat := 0
  dva     : Nat := 0
  pending : List Nat := []
  failed  : Option HalFail := none
  ended   : Bool := false
  entry   : Option Nat := none
  marked  : List Nat := []
  deriving DecidableEq, Repr

/-- A cluster. -/
structure Cluster where
  rcs     : Tab Region := []
  spaces  : Tab Space := []
  allocq  : List AllocWait := []
  copies  : Tab FaultCopy := []
  qstall  : Tab QStall := []
  qsince  : Tab Nat := []
  asidw   : Tab (BitVec 4) := []
  tarea   : Tab (BitVec 6) := []
  rotor   : BitVec 3 := 0
  starts  : Word := 0
  levels  : Tab (Nat × Nat) := []
  tcache  : List Nat := []
  keys    : List KeyEntry := []
  keyWait : List KeyReq := []
  res     : List ResEntry := []
  resLost : BitVec 32 := 0
  ctrs    : Tab Counter := []
  waits   : List CntWait := []
  mons    : List MonEntry := []
  monOver : BitVec 32 := 0
  hal     : List HalReq := []
  halTlb  : List Xlat := []
  halFails : BitVec 16 := 0
  halDone : BitVec 16 := 0
  deriving DecidableEq, Repr

/-! ## Dies -/

/-- A translation in the directory with its holders, 0 to 75 (13 R339). -/
structure DirEntry where
  x       : Xlat
  holders : List Nat
  deriving DecidableEq, Repr

/-- Who asks for a translation: the firing at the focus, and the unit, 0 but for a generator (13 R337). -/
structure XlAsker where
  elem : Nat
  slot : Nat
  tag  : BitVec 20
  unit : Nat
  deriving DecidableEq, Repr

/-- A translation-cache miss on its way (13 R338): the holder, who asks, what it asks, whether a walker has it. -/
structure XlReq where
  holder  : Nat
  asid    : BitVec 10
  va      : Nat
  write   : Bool
  walking : Bool
  who     : Option XlAsker := none
  deriving DecidableEq, Repr

/-- Why a translation failed (13 R335): code, PROTECTION reason, poisoned page-table line. -/
structure XlFail where
  code   : BitVec 8
  reason : BitVec 4
  psn    : Bool
  deriving DecidableEq, Repr

/-- A failed translation returned to its holder, to be met by the access that asked (13 R337). -/
structure XlReply where
  holder : Nat
  asid   : BitVec 10
  va     : Nat
  write  : Bool
  who    : Option XlAsker := none
  fail   : XlFail
  deriving DecidableEq, Repr

/-- A shoot-down in progress (13 R344): the ASID, the page or all of them. -/
structure Shoot where
  asid : BitVec 10
  all  : Bool
  va   : Nat
  size : Nat
  deriving DecidableEq, Repr

/-- A SERVICE token, on its way or in an inbox (13 R356): its die and service core, the firing it answers
to (TRAP or SVC), whether a reply is due, the caller's ASID and task, and the controller copy it reports. -/
structure SvcMsg where
  die   : Nat
  sc    : Nat
  tok   : Token
  site  : Option Site
  reply : Bool
  asid  : BitVec 10
  task  : Option Nat := none
  copy  : Option (Nat × Nat) := none
  deriving DecidableEq, Repr

/-- A service core (13 R356): whether it is held in reset, its inbox. -/
structure ServiceCore where
  reset : Bool := false
  inbox : List SvcMsg := []
  deriving DecidableEq, Repr

/-- An acknowledgement that a flit carries: of every item of a stream from a logical chip below a number, with the cut that this
package has recorded last (16 R411, R417). -/
structure FabAck where
  lc  : Nat
  cls : Nat
  num : Nat
  cut : Nat
  deriving DecidableEq, Repr

/-- A flit as its link keeps it for replay (16 R408): its link sequence number, its items and acknowledgements. -/
structure Flit where
  seq   : Nat
  items : List FabItem
  acks  : List FabAck
  deriving DecidableEq, Repr

/-- A fabric link (16 Table 16.2, R408). STATE 0 down, 1 training, 2 up, 3 disabled. `kept` holds the flits that the far end has
not taken, oldest first, `seqOut` the link sequence number of the next, `streak` the consecutive replays of the oldest. -/
structure Link where
  state    : BitVec 2 := 0
  lanes    : BitVec 8 := 0
  crcerr   : BitVec 32 := 0
  en       : Bool := true
  replays  : BitVec 32 := 0
  retrains : BitVec 32 := 0
  streak   : Nat := 0
  kept     : List Flit := []
  seqOut   : Nat := 0
  deriving DecidableEq, Repr

/-- A die. -/
structure Die where
  xlAsid  : Tab Word := []
  shoot   : Option Shoot := none
  shootQ  : List Word := []
  shootDone : BitVec 32 := 0
  walks   : BitVec 32 := 0
  dhits   : BitVec 32 := 0
  dir     : List DirEntry := []
  reqs    : List XlReq := []
  fails   : List XlReply := []
  scs     : Tab ServiceCore := []
  ens     : Tab (BitVec 32) := []
  ensSelf : Word := 0
  e2eTmo  : BitVec 24 := 1709
  e2eLim  : BitVec 4 := 8
  links   : Tab Link := []
  pdrain  : BitVec 24 := 65536
  psave   : Word := 0
  pstat   : Nat := 0
  deriving DecidableEq, Repr

/-! ## Tasks -/

/-- Task states (10 Table 10.4). -/
inductive TaskState where
  | counterWait | routing | acquiring | ready | running | parked | saved | retiring
  deriving DecidableEq, Repr

/-- A task (10 R265): its record, poison, counter cluster, the cluster that holds it, state, keys held, tries
not answered, keys refused, the key it has requested, grant time, age, clusters visited, core and context,
resume block, whether its record is still in transit, the cluster that sent it and when (10 R282), and the saved context, slice of its task
area and PX entries. -/
structure Task where
  id       : Nat
  words    : List Word
  psn      : Bool
  asid     : BitVec 10
  cc       : Nat
  cl       : Nat
  state    : TaskState
  held     : List (BitVec 31 × Bool) := []
  tries    : Nat := 0
  refused  : List (BitVec 31) := []
  want     : Option (BitVec 31) := none
  grantAt  : Nat := 0
  aged     : Bool := false
  visited  : List Nat := []
  transit  : Bool := false
  sender   : Nat := 0
  sentAt   : Nat := 0
  readyAt  : Nat := 0
  core     : Nat := 0
  ctx      : Nat := 0
  resume   : Option (BitVec 20) := none
  saved    : Option Ctx := none
  area     : List (Nat × Byte) := []
  areaPsn  : List Nat := []
  px       : List Xlat := []
  deriving DecidableEq, Repr

/-- A record on its way to its counter cluster's dispatcher (10 R259, R282): from a SPAWN firing or a port. -/
structure RecMsg where
  words : List Word
  psn  : Bool
  asid : BitVec 10
  cc   : Nat
  site : Option Site
  port : Option Nat
  word : Nat := 0
  deriving DecidableEq, Repr

/-- Key messages between home clusters and slices (10 R277). -/
inductive KeyMsg where
  | try_ (r : KeyReq)
  | request (r : KeyReq)
  | reply (r : KeyReq) (granted wasTry : Bool)
  | release (task : Nat) (asid : BitVec 10) (key : BitVec 31)
  deriving DecidableEq, Repr

/-! ## Accesses, counters, services, channels on their way -/

/-- What an access does at its home (11 R298). -/
inductive AccKind where
  | load (sx : Bool) (acq : Bool)
  | store
  | atomic (op : Nat) (y z : Word) (ypsn zpsn : Bool) (sx : Bool)
  | monitor (cond : BitVec 2) (y : Word) (lim : Nat) (sx : Bool)
  | genRead (g pos : Nat)
  | rowLine (rb line : Nat)
  | fetchWord
  deriving DecidableEq, Repr

/-- An access that has left its core and has not performed (07 R201): the port it passed, its physical
address, forwarded bytes (index, byte, PSN) (06 R181), what it answers to. `strel` holds a release store's
scope, activation and LSID; `refused` counts grants of its bank to others (07 R202). -/
structure Access where
  id      : Nat
  core    : Nat
  port    : Nat
  kind    : AccKind
  va      : Nat
  isPa    : Bool
  pa      : Nat
  width   : Nat
  data    : Word
  psn     : Bool
  fwd     : List (Nat × Byte × Bool)
  site    : Site
  seq     : Nat
  lsid    : BitVec 5
  strel   : Option Nat
  gen     : BitVec 6
  refused : Nat := 0
  sent    : Bool := false
  deriving DecidableEq, Repr

/-- An operation on its way to a counter (11 R310). -/
inductive CntOpBody where
  | init (n : BitVec 32) (fault : Bool) (site : Option Site)
  | dec (d : BitVec 32) (fault : Bool) (site : Option Site)
  | wait (site : Site)
  deriving DecidableEq, Repr

/-- A counter operation: cluster, counter, what. -/
structure CntOp where
  cl   : Nat
  idx  : Nat
  body : CntOpBody
  src  : Src
  deriving DecidableEq, Repr

/-- A reply of a service core on its way back (13 R358): DATA, or a FAULT code. -/
structure SvcReply where
  site  : Site
  fault : Option (BitVec 8)
  value : Word
  deriving DecidableEq, Repr

/-- A token, with its sideband (13 R366), or credit of a channel on its way (07 R225): from and to (core, endpoint). -/
structure ChanMsg where
  src  : Nat × Nat
  dst  : Nat × Nat
  body : Token ⊕ Nat
  side : Option ActRef := none
  deriving DecidableEq, Repr

/-- An invalidation at a holder that has not acknowledged it (13 R344, R345); `home` is the die where its shoot-down was
started, `removed` says that the translation is gone and accesses that used it are awaited. -/
structure InvMsg where
  die    : Nat
  holder : Nat
  x      : Xlat
  home   : Nat
  removed : Bool := false
  deriving DecidableEq, Repr

/-! ## Elements with their faults (03 Table 3.1) -/

/-- An operation that had issued when it faulted, to be done again on REISSUE (03 R101, 13 Table 13.9). -/
inductive Redo where
  | macro_ (macr : Nat) (c : MCmd)
  | node (c : NCmd)
  | record (r : RecMsg)
  | service (m : SvcMsg)
  | access (a : Access)
  deriving DecidableEq, Repr

/-- What raised a frozen element's fault (03 R101): a token or a KSET at its input, a firing at its queues'
heads, a breakpoint (13 R358), a session token at port c (07 R223), a firing in the LSID queue (06 R182), or an operation that had already issued. -/
inductive FaultFrom where
  | none
  | offered (fl : Flight)
  | config (m : CfgMsg)
  | firing (slot : Nat) (tag : BitVec 20)
  | brk (slot : Nat) (tag : BitVec 20)
  | session (slot : Nat) (tag : BitVec 20)
  | queued (slot : Nat) (tag : BitVec 20) (occ : Nat)
  | issued (slot : Nat) (tag : BitVec 20) (redo : Option Redo)
  deriving DecidableEq, Repr

/-- An element (03 R74). `lo` holds IWORD_LO halves waiting for their IWORD_HI (02 R44). `drop` names the operand set
(slot, tag, occurrence if in the LSID queue) that NULLIFY has ordered to be consumed without firing (13 Table 13.9). -/
structure Elem where
  words : Tab (BitVec 128) := []
  lo    : Tab Word := []
  ops   : List Operand := []
  fault : FaultReg := {}
  why   : FaultFrom := .none
  drop  : Option (Nat × BitVec 20 × Option Nat) := none
  fired : Bool := false
  deriving DecidableEq, Repr

/-! ## Package -/

/-- A partition (15 Table 15.3). -/
structure Part where
  valid    : Bool := false
  func     : BitVec 5 := 0
  gen      : BitVec 6 := 0
  clusters : BitVec 32 := 0
  fdom     : BitVec 16 := 0
  deriving DecidableEq, Repr

/-- A record of an ingress error window (15 Table 15.4). -/
structure EwinRec where
  offset : BitVec 16 := 0
  code   : BitVec 8 := 0
  cause  : BitVec 4 := 0
  seq    : BitVec 32 := 0
  deriving DecidableEq, Repr

/-- What an ingress port waits for before it takes its next token (15 R384, R386). -/
inductive PortHold where
  | none | record | hoist | install
  deriving DecidableEq, Repr

/-- An ingress port (15 R383 to R386): registers, the tokens of accepted writes not yet taken with the
aperture offset of each, the words of a record being assembled, the entry of a HOIST in progress. -/
structure Port where
  en     : Bool := false
  part   : BitVec 4 := 0
  err    : Bool := false
  next   : BitVec 16 := 0
  seq    : BitVec 32 := 0
  hoist  : BitVec 32 := 0
  ewin   : Tab EwinRec := []
  nrec   : Nat := 0
  queue  : List (BitVec 16 × BitVec 128) := []
  words  : List Word := []
  hold   : PortHold := .none
  cur    : Word := 0
  curOff : BitVec 16 := 0
  deriving DecidableEq, Repr

/-- A block image (02 R58): header, words by slot index, route entries (continuation bits in relocatable form:
the placed block's number, frame and core, as Machine/Image.lean says). -/
structure Block where
  header : BitVec 128
  words  : List (BitVec 128)
  routes : List (BitVec 32)
  length : Nat
  offset : Nat
  deriving DecidableEq, Repr

/-- A placement of a region (15 Table 15.6b, type 7). -/
structure Placement where
  block  : Nat
  core   : Nat
  frame  : Nat
  config : Nat
  deriving DecidableEq, Repr

/-- A region record of an object (15 R388). -/
structure RegionRec where
  h      : Nat
  w      : Nat
  places : List Placement
  deriving DecidableEq, Repr

/-- A task-type entry (10 Table 10.3) as the object carries it. -/
structure TypeRec where
  idx     : Nat
  holds   : Nat
  scratch : Nat
  tags    : Nat
  block   : Nat
  deriving DecidableEq, Repr

/-- A tile-table entry (10 R264). -/
structure TileRec where
  base  : Nat := 0
  rows  : Nat := 0
  cols  : Nat := 0
  bytes : Nat := 0
  valid : Bool := false
  deriving DecidableEq, Repr

/-- A loaded object (15 R387 to R390). -/
structure Obj where
  flevel  : Nat
  blocks  : List Block
  types   : List TypeRec
  tiles   : List (Nat × TileRec)
  regions : List RegionRec
  hoists  : List (List Nat)
  consts  : List (Nat × List Byte × Bool)
  graph   : List Byte
  base    : Nat
  len     : Nat
  deriving DecidableEq, Repr

/-- A handle-table entry (15 R390): an object version, or hoist `n` of the object at another entry. -/
inductive HandleBody where
  | object (o : Obj)
  | hoist (objRef : BitVec 32) (n : Nat)
  deriving DecidableEq, Repr

/-- A handle-table entry with its sequence number and owner; `placed` lists a resident hoist's regions as
(region number, (cluster, controller)); `newer` names the version whose installation replaced this one (15 R392). -/
structure Handle where
  seq    : BitVec 20
  asid   : BitVec 10
  body   : HandleBody
  placed : List (Nat × (Nat × Nat)) := []
  newer  : Option (BitVec 32) := none
  deriving DecidableEq, Repr

/-- An installed task type (10 Table 10.3). -/
structure TType where
  handle  : BitVec 32 := 0
  block   : BitVec 20 := 0
  holds   : Nat := 0
  scratch : Nat := 0
  tags    : Nat := 0
  valid   : Bool := false
  deriving DecidableEq, Repr

/-- Phases of a pre-emption (13 R364, R367). -/
inductive PrePhase where
  | idle | soft | drain | ready
  deriving DecidableEq, Repr

/-- The stores of a core's release queue that a save keeps, and its hold with the fault record (13 R346). -/
structure ReleaseQ where
  queue : List Buffered := []
  held  : Bool := false
  rec_  : FetchRec := {}
  deriving DecidableEq, Repr

/-- What a save wrote of an ASID (13 Table 13.11), held as structured data, since the layout is firmware's: regions
with their cluster and controller, what their cores and elements held, their tiles' bytes and poisoned lines, tokens
to deliver again, residency entries, monitor entries, posted waits with their cluster, PX entries and unreleased stores with
their core. -/
structure SavedWork where
  regions : List (Nat × Nat × Region) := []
  cores   : List (Nat × Core) := []
  elems   : List (Nat × Elem) := []
  tiles   : List (Nat × Byte) := []
  poison  : List Nat := []
  toks    : List Flight := []
  res     : List (Nat × ResEntry) := []
  mons    : List (Nat × MonEntry) := []
  waits   : List (Nat × CntWait) := []
  px      : List (Nat × Xlat) := []
  rels    : List (Nat × ReleaseQ) := []
  deriving DecidableEq, Repr, Inhabited

/-- The pre-emption of a partition (13 R363), with what it has saved of each ASID. -/
structure Preempt where
  phase  : PrePhase := .idle
  hard   : Bool := false
  asid   : BitVec 10 := 0
  since  : Nat := 0
  xlost  : Nat := 0
  llost  : Nat := 0
  works  : List (BitVec 10 × SavedWork) := []
  deriving DecidableEq, Repr

/-- A replay-buffer entry (16 R411): the die whose router keeps it, the item, the link it last left on, resends, when it was
last sent, whether it waits for a path or for room on its link, and whether an acknowledgement of a later cut holds it (16 R417). -/
structure RplEntry where
  die    : Nat := 0
  item   : FabItem
  link   : Nat
  tries  : Nat
  sentAt : Nat
  due    : Bool
  kept   : Option Nat
  deriving DecidableEq, Repr

/-- One fabric stream's numbers (16 R410): key is logical chip x 3 + class. `held` is the cut whose marker holds the stream
(16 R415). -/
structure FabNums where
  nextOut : Nat := 0
  nextIn  : Nat := 0
  held    : Option Nat := none
  deriving DecidableEq, Repr

/-- An item that waits at its unit for a path or a replay entry (16 R407, R411): the issuing die, where it goes, its class. -/
structure FabWait where
  die  : Nat
  lc   : Nat
  cls  : Nat
  body : FabBody
  deriving DecidableEq, Repr

/-- What a cut recorded (16 R416 step 3) and its image (R418): where it goes, the bytes of the ranges `pages`, the save area
as structured data with the ASIDs saved before, the saved tasks. -/
structure CutRec where
  num     : Nat := 0
  before  : Nat := 0
  dest    : Nat := 0
  replay  : List RplEntry := []
  nums    : Tab FabNums := []
  ens     : List (Nat × Tab (BitVec 32)) := []
  image   : List Host.Cell := []
  pages   : List (Nat × Nat) := []
  poison  : List Nat := []
  full    : Bool := true
  works   : List (BitVec 10 × SavedWork) := []
  pre     : Tab Preempt := []
  tasks   : List Task := []
  deriving DecidableEq, Repr, Inhabited

/-- The checkpoint state of the package (16 Table 16.3, R416): STATE 0 to 3, the cut being taken with its firing and
descriptor, whether CHKPT ABANDON has ended it, the time its drain began, whether its image is written, the ASIDs saved for
it, the cuts recorded, newest first, and the granules of HBM that service cores have written by physical address (16 R418). -/
structure Cut where
  state     : BitVec 2 := 0
  abandoned : Bool := false
  num       : BitVec 32 := 0
  taking    : Option (Site × List Word) := none
  stopping  : Bool := false
  since     : Nat := 0
  written   : Bool := false
  works     : List (BitVec 10 × SavedWork) := []
  recs      : List CutRec := []
  phys      : List Nat := []
  deriving DecidableEq, Repr

/-- The package (15 Table 15.3, R390, R401; 16 R410). `asids` gives the partition of a live ASID, `asidOff` the PART of
one that is not live. `granules` gives (KIND, OWN) of a 2 MiB granule,
`tileOwner` the owner ASID of tile core x 2 + tile (07 R197), `refDir` the references that the residency directory of every die
holds, that updated last first (10 R273), `pasids` the PASID that system software has set for an ASID (15 R381), `flevel` the
feature level that the running firmware supports (15 R391), `readVal` the last answer to a read of a register from outside (15
R382), `fabWait` what waits at its unit for the fabric, `late` the units of reset partitions that other packages may still reply
to (15 R396), `acked` the stores to other packages that acknowledgements have completed (16 R412), `loadCode` and `attCode` the last answers to a load and to an attestation
request (15 R389, R401). -/
structure Pkg where
  owner     : BitVec 2 := 0
  epoch     : BitVec 32 := 0
  ce        : Word := 0
  ue        : Word := 0
  stale     : Word := 0
  last      : Word := 0
  granules  : Tab (BitVec 2 × BitVec 10) := []
  assigning : Option (Nat × BitVec 2 × BitVec 10) := none
  parts     : Tab Part := []
  asids     : Tab (BitVec 4) := []
  asidOff   : Tab (BitVec 4) := []
  cut       : Cut := {}
  ports     : Tab Port := []
  handles   : Tab Handle := []
  hseq      : BitVec 20 := 1
  ttypes    : Tab TType := []
  tiles     : Tab TileRec := []
  tileOwner : Tab (BitVec 10) := []
  refDir    : List (BitVec 10 × BitVec 32) := []
  pasids    : Tab (BitVec 20) := []
  logs      : Tab (List Word) := []
  events    : Tab Nat := []
  attIdx    : Nat := 0
  attested  : List (Nat × List Byte × List Word) := []
  fwVersion : Nat := 0
  fwImage   : List Byte := []
  flevel    : Nat := 3
  readVal   : Word := 0
  loadCode  : BitVec 8 := 0
  attCode   : BitVec 8 := 0
  thermal   : Bool := false
  stopped   : Bool := false
  offline   : List Nat := []
  detour    : List (Nat × Nat) := []
  pre       : Tab Preempt := []
  nums      : Tab FabNums := []
  replay    : List RplEntry := []
  fabWait   : List FabWait := []
  late      : List Nat := []
  acked     : List Access := []
  recvBuf   : List FabItem := []
  deriving DecidableEq, Repr

/-! ## The whole state -/

/-- The firing that `exec` runs for an instruction word: element, slot index (frame x 4 + slot), tag; from the
LSID queue when `queued` (06 R182). -/
structure Focus where
  elem   : Nat
  slot   : Nat
  tag    : BitVec 20
  queued : Bool := false
  deriving DecidableEq, Repr

/-- What a firing that reads several words or translates several pages has so far (07 R204, 16 R412): of the
firing at `elem`, `slot`, `tag`, for a page or the word at an address, the answer. -/
structure Scratch where
  elem : Nat
  slot : Nat
  tag  : BitVec 20
  page : Bool
  key  : Nat
  got  : Option (Word × Bool)
  deriving DecidableEq, Repr

/-- Everything but the bytes of memory. The last six fields are the model's own (log 3 to 6). -/
structure Hw where
  elems    : Tab Elem := []
  cores    : Tab Core := []
  cls      : Tab Cluster := []
  dies     : Tab Die := []
  pkg      : Pkg := {}
  net      : List Flight := []
  acc      : List Access := []
  cntOps   : List CntOp := []
  svc      : List SvcMsg := []
  replies  : List SvcReply := []
  chan     : List ChanMsg := []
  keyMsgs  : List KeyMsg := []
  recs     : List RecMsg := []
  tasks    : List Task := []
  notices  : List (Nat × BitVec 10 × BitVec 32) := []
  invs     : List InvMsg := []
  scratch  : List Scratch := []
  focus    : Option Focus := none
  waited   : Bool := false
  inputs   : List Instr := []
  free     : Nat := 0
  now      : Nat := 0
  ids      : Nat := 1
  deriving DecidableEq, Repr

/-- Memory (07 R196, 15 R379): bytes by global physical address within the package's local map, and the
64-byte lines that are poisoned (07 R200), by line address, rising; `dead` lists the HBM stacks all of whose lines are
poisoned (15 R398 class 6). -/
structure Mem where
  bytes  : List Host.Cell := []
  poison : List Nat := []
  dead   : List Nat := []
  deriving DecidableEq, Repr

/-- The state of the package. -/
structure State where
  mem : Mem
  hw  : Hw
  deriving DecidableEq, Repr

/-- The state after reset: every array and memory zeroed (15 R402), every register at the reset value its table
gives, nothing on its way, nothing waiting to arrive. -/
def State.reset : State := { mem := {}, hw := {} }

end Sys2Proof.Machine
end

