-- ==== Sys2Proof/Config.lean ====
section
/-! DEFINITION. Free values: what the spec leaves open. Each is an opaque constant, so that no proof can
see what it is; applied to the counter `free` of the state it gives a fresh value each time. -/
namespace Sys2Proof.Config

/-- Which of several events that may come next does come next (spec 03 R76, 11 R301; log 4). -/
opaque choice : Nat → Nat

/-- How many tokens of one lane the links towards an element hold (00 R9 gives no count; log 72). -/
opaque linkRoom : Nat → Nat

/-- How many tokens of a channel the links between its cores hold, of a producer endpoint, numbered core x 16 + endpoint (07
R225 gives no count; log 72). -/
opaque chanRoom : Nat → Nat

/-- How many cycles pass at a step (timing is not modelled; log 2). -/
opaque elapsed : Nat → Nat

/-- Bits of an XMSS or XMSSMT signature, whose keys the spec does not give (spec 15 R400, R401; log 8). -/
opaque signature : Nat → BitVec 64

/-- Whether a signature verifies (spec 15 R389, R400; log 8). -/
opaque signatureOk : List Byte → Bool

/-- Which fault code of 00 Table 0.6 the loader rejects an object with whose DIGEST (0) or signature (1) is wrong (15 R389; log 80). -/
opaque rejectCode : Nat → Nat

/-- The PASID that system software sets for an ASID as it makes it live (15 R381 names no register for it; log 83). -/
opaque pasid : Nat → BitVec 20

/-- A byte of another package's memory, by its global physical address and the reads made so far, as a block fetch reads it
(06 R178, 13 R335; log 79). -/
opaque remoteByte : Nat → Nat → Byte

/-- The instruction words that a rebuild from an object's graph section gives a native block
(spec 15 R391: the layout of the section is not stated; log 9). -/
opaque rebuiltWord : Nat → Nat → Nat → BitVec 128

/-- The token with which a page of the image of a failed package is written back has no layout in the
spec; a byte of such an image is free (spec 16 R418, R421; log 10). -/
opaque imageByte : Nat → Nat → Byte

/-- Whether the host of a partition requires a signature on objects (spec 15 R389; log 8). -/
opaque signatureRequired : Nat → Bool

/-- VALUE of the FAULT token that answers a refused SVC: Table 2.3 calls it a detail and R357 states none
(log 16). -/
opaque refusalDetail : Nat → BitVec 64

/-- Code of the SERVICE token of a contained error whose class 15 R398 gives none (log 18). -/
opaque errorCode : Nat → BitVec 6

/-- VALUE of that token, and ERR_LAST.WHERE, of a class and the unit concerned: 15 Table 15.3 gives no packing
(log 18). -/
opaque errorWhere : Nat → Nat → BitVec 44

/-- Code and VALUE of the router's report of the first marker of a cut (16 R415 gives none; log 28). -/
opaque markerCode : Nat → BitVec 6
/-- VALUE of that report. -/
opaque markerValue : Nat → BitVec 64

/-- The record and image of a cut that another package took, whose layout is firmware's own (16 R418, R421, R422; log 10). -/
opaque cutImage : Nat → Machine.CutRec

end Sys2Proof.Config
end

