-- ==== Sys2Proof/WellFormed.lean ====
section
/-! DEFINITION. Well-formed instructions: the checks the loader makes of a word (spec 02 R52, R60), that a
constructor agrees with the fields it stands for, and that an event names units the package has. -/
namespace Sys2Proof

/-- A target whose unused payload bits are 0 (spec 02 R52, Table 2.8). -/
def targetOk (t : BitVec 22) : Bool :=
  match (t.extractLsb' 20 2).toNat with
  | 0 => t.extractLsb' 0 20 = 0#20
  | 1 => t.extractLsb' 9 11 = 0#11
  | 2 => t.extractLsb' 6 14 = 0#14
  | _ => t.extractLsb' 8 12 = 0#12

/-- What the loader checks of a word at a used slot, but for the route index, which needs the header
(spec 02 R60). -/
def wordOk (f : Fields) : Bool := f.pr ≠ 3#2 && targetOk f.t0 && targetOk f.t1

/-- The kind of a record that a STALLCLEAR names exists (spec 13 Table 13.9). -/
def stallOk : StallRef → Bool
  | .channel core ep => decide (core < 256 ∧ ep < 16)
  | .quiesce cl i => decide (cl < 32 ∧ i < 12)

/-- The code that a CONFIG token must carry for the message of this row (spec 02 Table 2.4). -/
def cfgCode (m : CfgMsg) (c : BitVec 7) : Bool := m.tok.kind = .config && m.tok.aux = c

/-- Well-formed. -/
def wellFormed (i : Instr) : Bool :=
  match i with
  | .mov f => wordOk f
  | .const f => wordOk f
  | .fan f => wordOk f
  | .steer f => wordOk f
  | .merge f => wordOk f
  | .gate f => wordOk f
  | .sink f => wordOk f
  | .nullgen f => wordOk f
  | .isnull f => wordOk f
  | .coalesce f => wordOk f
  | .endm f => wordOk f
  | .endrank f => wordOk f
  | .skip f => wordOk f
  | .chsend f => wordOk f
  | .chrecv f => wordOk f
  | .credit f => wordOk f
  | .chopen f => wordOk f
  | .chclose f => wordOk f
  | .packt f => wordOk f
  | .talloc f => wordOk f
  | .tfree f => wordOk f
  | .tnext f => wordOk f
  | .tidx f => wordOk f
  | .tset f => wordOk f
  | .tget f => wordOk f
  | .tcall f => wordOk f
  | .tret f => wordOk f
  | .read f => wordOk f && f.om ≠ 1#3
  | .readHoldAtOpen f => wordOk f && f.om = 1#3
  | .write f => wordOk f
  | .exit f => wordOk f
  | .exitx f => wordOk f
  | .spawn f => wordOk f
  | .spawni f => wordOk f
  | .cntinit f => wordOk f
  | .cntdec f => wordOk f
  | .cntwait f => wordOk f
  | .waita f => wordOk f
  | .switch f => wordOk f
  | .quiet f => wordOk f
  | .getid f => wordOk f
  | .cycle f => wordOk f
  | .trap f => wordOk f
  | .svc f => wordOk f
  | .brk f => wordOk f
  | .pin f => wordOk f
  | .unpin f => wordOk f
  | .resq f => wordOk f
  | .keyq f => wordOk f
  | .add f => wordOk f
  | .sub f => wordOk f
  | .rsub f => wordOk f
  | .neg f => wordOk f
  | .abs f => wordOk f
  | .adds f => wordOk f
  | .subs f => wordOk f
  | .mul f => wordOk f
  | .mulh f => wordOk f
  | .mulhz f => wordOk f
  | .div f => wordOk f
  | .divz f => wordOk f
  | .rem f => wordOk f
  | .remz f => wordOk f
  | .min f => wordOk f
  | .max f => wordOk f
  | .minz f => wordOk f
  | .maxz f => wordOk f
  | .and f => wordOk f
  | .or f => wordOk f
  | .xor f => wordOk f
  | .andn f => wordOk f
  | .orn f => wordOk f
  | .not f => wordOk f
  | .shl f => wordOk f
  | .shr f => wordOk f
  | .sar f => wordOk f
  | .rol f => wordOk f
  | .ror f => wordOk f
  | .clz f => wordOk f
  | .ctz f => wordOk f
  | .popc f => wordOk f
  | .brev f => wordOk f
  | .bswap f => wordOk f
  | .ext f => wordOk f
  | .extz f => wordOk f
  | .ins f => wordOk f
  | .sext f => wordOk f
  | .zext f => wordOk f
  | .lea f => wordOk f
  | .packw f => wordOk f
  | .cmpeq f => wordOk f
  | .cmpne f => wordOk f
  | .cmplt f => wordOk f
  | .cmple f => wordOk f
  | .cmpltz f => wordOk f
  | .cmplez f => wordOk f
  | .testz f => wordOk f
  | .testnz f => wordOk f
  | .sel f => wordOk f
  | .bound f => wordOk f
  | .clamp f => wordOk f
  | .pand f => wordOk f
  | .por f => wordOk f
  | .pnot f => wordOk f
  | .fadd f => wordOk f
  | .fsub f => wordOk f
  | .fmul f => wordOk f
  | .ffma f => wordOk f
  | .ffms f => wordOk f
  | .fmin f => wordOk f
  | .fmax f => wordOk f
  | .fabs f => wordOk f
  | .fneg f => wordOk f
  | .fcpys f => wordOk f
  | .fcmpeq f => wordOk f
  | .fcmplt f => wordOk f
  | .fcmple f => wordOk f
  | .fcmpun f => wordOk f
  | .frcp f => wordOk f
  | .frsq f => wordOk f
  | .fsqrt f => wordOk f
  | .fdiv f => wordOk f
  | .fexp2 f => wordOk f
  | .flog2 f => wordOk f
  | .ftanh f => wordOk f
  | .fsin f => wordOk f
  | .fcos f => wordOk f
  | .frnd f => wordOk f
  | .fscale f => wordOk f
  | .fgete f => wordOk f
  | .cvtf f => wordOk f
  | .cvtfi f => wordOk f
  | .cvtif f => wordOk f
  | .fclass f => wordOk f
  | .vadd f => wordOk f
  | .vsub f => wordOk f
  | .vmul f => wordOk f
  | .vmulh f => wordOk f
  | .vadds f => wordOk f
  | .vsubs f => wordOk f
  | .vmin f => wordOk f
  | .vmax f => wordOk f
  | .vavg f => wordOk f
  | .vshl f => wordOk f
  | .vshr f => wordOk f
  | .vsar f => wordOk f
  | .vcmpeq f => wordOk f
  | .vcmplt f => wordOk f
  | .vsel f => wordOk f
  | .vsplat f => wordOk f
  | .vshuf f => wordOk f
  | .vpack f => wordOk f
  | .vunpkl f => wordOk f
  | .vunpkh f => wordOk f
  | .vredadd f => wordOk f
  | .vredmax f => wordOk f
  | .vredmin f => wordOk f
  | .vdot f => wordOk f
  | .vfma f => wordOk f
  | .vfadd f => wordOk f
  | .vfmul f => wordOk f
  | .vfmax f => wordOk f
  | .vcvt f => wordOk f
  | .pfxc f => wordOk f
  | .isect f => wordOk f
  | .obt f => wordOk f
  | .obti f => wordOk f
  | .digit f => wordOk f
  | .ld f => wordOk f
  | .st f => wordOk f
  | .ldacq f => wordOk f
  | .strel f => wordOk f
  | .fence f => wordOk f
  | .pref f => wordOk f
  | .xlate f => wordOk f
  | .leap f => wordOk f
  | .aadd f => wordOk f
  | .asub f => wordOk f
  | .amin f => wordOk f
  | .amax f => wordOk f
  | .aminz f => wordOk f
  | .amaxz f => wordOk f
  | .aand f => wordOk f
  | .aor f => wordOk f
  | .axor f => wordOk f
  | .axchg f => wordOk f
  | .acas f => wordOk f
  | .afadd f => wordOk f
  | .aincw f => wordOk f
  | .stream f => wordOk f
  | .strmkQuery f => wordOk f && f.k ≠ 1#48 && f.k ≠ 2#48
  | .strmkCancel f => wordOk f && f.k = 1#48
  | .strmkDrain f => wordOk f && f.k = 2#48
  | .wring f => wordOk f
  | .spread f => wordOk f
  | .rport f => wordOk f
  | .ldrb f => wordOk f
  | .mcfg f => wordOk f
  | .mldb f => wordOk f
  | .mswap f => wordOk f
  | .mbc f => wordOk f
  | .mbcw f => wordOk f
  | .accset f => wordOk f
  | .acccnt f => wordOk f
  | .accrd f => wordOk f
  | .accclr f => wordOk f
  | .mchk f => wordOk f
  | .hcopy f => wordOk f
  | .hgath f => wordOk f
  | .hscat f => wordOk f
  | .hred f => wordOk f
  | .hfill f => wordOk f
  | .chkptBegin f => wordOk f && f.k.extractLsb' 0 2 = 0#2
  | .chkptRestore f => wordOk f && f.k.extractLsb' 0 2 = 1#2
  | .chkptAbandon f => wordOk f && f.k.extractLsb' 0 2 = 2#2
  | .chkptQuery f => wordOk f && f.k.extractLsb' 0 2 = 3#2
  | .sysrd f => wordOk f
  | .syswr f => wordOk f
  | .tokenArrival _ => true
  | .overflowRefill elem => decide (elem < 8192)
  | .iwordLo m => cfgCode m 1#7
  | .iwordHi m => cfgCode m 2#7
  | .bhdrLo m => cfgCode m 3#7
  | .bhdrHi m => cfgCode m 4#7
  | .route m => cfgCode m 5#7
  | .kset m => cfgCode m 6#7
  | .hoist port => decide (port < 64)
  | .install port => decide (port < 64)
  | .installComplete port => decide (port < 64)
  | .hoistPlacement port => decide (port < 64)
  | .objectLoad asid base image => decide (asid < 1024) && decide (base < 2 ^ 48) && image.pages.all fun g => g % 4096 == 0
  | .faultReport cl i => decide (cl < 32 ∧ i < 12)
  | .serviceInboxEntry _ => true
  | .errEfaultAck cl i => decide (cl < 32 ∧ i < 12)
  | .reissue elem => decide (elem < 8192)
  | .nullify elem => decide (elem < 8192)
  | .step elem => decide (elem < 8192)
  | .genresume core g => decide (core < 256 ∧ g < 2)
  | .genabort core g => decide (core < 256 ∧ g < 2)
  | .nodeclear core => decide (core < 256)
  | .taskresume core ctx => decide (core < 256 ∧ ctx < 17)
  | .taskdiscard _ => true
  | .stallclear r => stallOk r
  | .regionabort cl rc => decide (cl < 32 ∧ rc < 4)
  | .frameUnload core frame => decide (core < 256 ∧ frame < 8)
  | .commit core _ => decide (core < 256)
  | .successorOpen core ctx => decide (core < 256 ∧ ctx < 16)
  | .fetch core ctx => decide (core < 256 ∧ ctx < 16)
  | .retirement core ctx => decide (core < 256 ∧ ctx < 16)
  | .quiescenceProbe cl rc => decide (cl < 32 ∧ rc < 4)
  | .regionSwitch cl rc => decide (cl < 32 ∧ rc < 4)
  | .quietRequestTaken cl rc => decide (cl < 32 ∧ rc < 4)
  | .quiescenceStall cl i => decide (cl < 32 ∧ i < 12)
  | .bankStarvationGrant _ => true
  | .accessAtHome _ => true
  | .atomicAtHome _ => true
  | .strelRelease _ => true
  | .generatorStep core g => decide (core < 256 ∧ g < 2)
  | .wringEmit core u => decide (core < 256 ∧ u < 2)
  | .spreadSessionToken core u => decide (core < 256 ∧ u < 2)
  | .reductionSessionToken core tile => decide (core < 256 ∧ tile < 2)
  | .channelTokenArrival _ => true
  | .creditArrival _ => true
  | .channelStall core ep => decide (core < 256 ∧ ep < 16)
  | .broadcast core macr => decide (core < 256 ∧ macr < 8)
  | .nullBroadcast core macr => decide (core < 256 ∧ macr < 8)
  | .mcfgEffect core macr => decide (core < 256 ∧ macr < 8)
  | .mldbEffect core macr => decide (core < 256 ∧ macr < 8)
  | .mswapEffect core macr => decide (core < 256 ∧ macr < 8)
  | .mchkEffect core macr => decide (core < 256 ∧ macr < 8)
  | .contribution core macr => decide (core < 256 ∧ macr < 8)
  | .taskRecordAccept _ => true
  | .taskRouting _ => true
  | .keyTry _ => true
  | .keyRequest _ => true
  | .keyReply _ => true
  | .keyRelease _ => true
  | .keyAging _ => true
  | .keyEntryRetry cl => decide (cl < 32)
  | .taskStart cl => decide (cl < 32)
  | .taskReroute _ => true
  | .residencyStaleNotice _ => true
  | .counterApply _ => true
  | .cntwaitRetry _ => true
  | .cntValWrite _ cl idx _ => decide (cl < 32 ∧ idx < 1024)
  | .monitorPost _ => true
  | .monitorDeadline cl _ => decide (cl < 32)
  | .directoryLookup die _ => decide (die < 4)
  | .pageWalk die _ => decide (die < 4)
  | .shootDown _ die _ => decide (die < 4)
  | .shootDownAll _ die _ => decide (die < 4)
  | .invalidation _ => true
  | .halyardUnit cl _ => decide (cl < 32)
  | .echo die sc => decide (die < 4 ∧ sc < 4)
  | .mapreq die sc _ => decide (die < 4 ∧ sc < 4)
  | .log die sc => decide (die < 4 ∧ sc < 4)
  | .abortself die sc => decide (die < 4 ∧ sc < 4)
  | .hostService die sc _ => decide (die < 4 ∧ sc < 4)
  | .serviceRefused die sc => decide (die < 4 ∧ sc < 4)
  | .svcReply _ => true
  | .softPreemption _ _ => true
  | .hardPreemption _ _ => true
  | .drainLimit part => decide (part < 16)
  | .save part => decide (part < 16)
  | .preemptResume _ _ => true
  | .ingressWrite port _ _ => decide (port.number < 64)
  | .ingCfgWrite _ port _ => decide (port < 64)
  | .ingErrClear _ port _ => decide (port < 64)
  | .granuleAssign _ _ => true
  | .granuleZeroed => true
  | .partCfgWrite _ _ _ => true
  | .partReset _ _ => true
  | .ownClaim _ => true
  | .ownSucc _ _ => true
  | .registerWrite _ _ _ => true
  | .registerReadClear _ => true
  | .packageReset => true
  | .bringUp _ => true
  | .attestationRequest _ => true
  | .corePowerGate core => decide (core < 256)
  | .thermalLimit _ => true
  | .correctableError part _ => decide (part < 16)
  | .uncorrectableError _ => true
  | .elementStateError elem frame => decide (elem < 8192 ∧ frame < 8)
  | .coreStateError core => decide (core < 256)
  | .clusterControlError cl => decide (cl < 32)
  | .hbmStackFailure stack => decide (stack < 8)
  | .ucieLinkError d1 d2 _ => decide (d1 < 4 ∧ d2 < 4)
  | .serviceCoreFailure die sc => decide (die < 4 ∧ sc < 4)
  | .packageError => true
  | .flitReceive link _ _ => decide (link < 16)
  | .linkRetrain link _ => decide (link < 16)
  | .linkDown link => decide (link < 16)
  | .linkUp link _ => decide (link < 16)
  | .lnkCtlWrite _ link _ => decide (link < 16)
  | .ensSelfWrite _ _ => true
  | .remoteItemArrival _ => true
  | .acknowledgement lc cls _ _ => decide (lc < 1024 ∧ cls < 3)
  | .e2eTimeout _ => true
  | .markerArrival _ => true
  | .rollback _ => true
  | .powerGatingReturn core => decide (core < 256)
  | .objectUnload _ => true
  | .coreAssignment core asid => decide (core < 256 ∧ asid < 1024)
  | .routedRecordArrival _ => true
  | .firmwareUpdate _ => true

end Sys2Proof
end

