-- ==== Sys2Proof/Decode.lean ====
section
/-! DEFINITION. Decoding of 128-bit instruction words (spec 02 R46, R70), and after it the encoder, written
from the same tables. A word whose OP is EMPTY or reserved is rejected by name; so is a short byte list. -/
namespace Sys2Proof

/-- Why a word is no instruction (spec 02 R71, R72). -/
inductive DecodeReject where
  | short
  | empty
  | reservedOp (op : BitVec 9)
  deriving DecidableEq, Repr

/-- The OP field (spec 02 Table 2.5). -/
def wordOp (w : BitVec 128) : BitVec 9 := w.extractLsb' 119 9

/-- The fields beside OP (spec 02 Table 2.5). -/
def wordFields (w : BitVec 128) : Fields :=
  { fn := w.extractLsb' 114 5, pr := w.extractLsb' 112 2, ls := w.extractLsb' 107 5
    om := w.extractLsb' 104 3, t0 := w.extractLsb' 82 22, t1 := w.extractLsb' 60 22
    xf := w.extractLsb' 48 12, k := w.extractLsb' 0 48 }

/-- READ has a form that fires at each opening of an activation, its register in K: OM 1 (spec 06 R187). -/
def readForm (f : Fields) : Instr := if f.om = 1#3 then .readHoldAtOpen f else .read f

/-- STRMK's op is its constant K (spec 07 R219); an op above 2 faults in STRMK_QUERY's meaning. -/
def strmkForm (f : Fields) : Instr :=
  if f.k = 1#48 then .strmkCancel f else if f.k = 2#48 then .strmkDrain f else .strmkQuery f

/-- CHKPT's op is K[1:0] (spec 16 R419). -/
def chkptForm (f : Fields) : Instr :=
  match (f.k.extractLsb' 0 2).toNat with
  | 0 => .chkptBegin f | 1 => .chkptRestore f | 2 => .chkptAbandon f | _ => .chkptQuery f

/-- Class 0 of the opcode map in index order, from index 1 (spec 02 Table 2.15). -/
def opClass0 : List (Fields → Instr) :=
  [.mov, .const, .fan, .steer, .merge, .gate, .sink, .nullgen] ++
  [.isnull, .coalesce, .endm, .endrank, .skip, .chsend, .chrecv, .credit] ++
  [.chopen, .chclose, .packt]

/-- Class 1 of the opcode map in index order (spec 02 Table 2.15). -/
def opClass1 : List (Fields → Instr) :=
  [.talloc, .tfree, .tnext, .tidx, .tset, .tget, .tcall, .tret] ++
  [readForm, .write, .exit, .exitx, .spawn, .spawni, .cntinit, .cntdec] ++
  [.cntwait, .waita, .switch, .quiet, .getid, .cycle, .trap, .svc] ++
  [.brk, .pin, .unpin, .resq, .keyq]

/-- Class 2 of the opcode map in index order (spec 02 Table 2.15). -/
def opClass2 : List (Fields → Instr) :=
  [.add, .sub, .rsub, .neg, .abs, .adds, .subs, .mul] ++
  [.mulh, .mulhz, .div, .divz, .rem, .remz, .min, .max] ++
  [.minz, .maxz, .and, .or, .xor, .andn, .orn, .not] ++
  [.shl, .shr, .sar, .rol, .ror, .clz, .ctz, .popc] ++
  [.brev, .bswap, .ext, .extz, .ins, .sext, .zext, .lea] ++
  [.packw]

/-- Class 3 of the opcode map in index order (spec 02 Table 2.15). -/
def opClass3 : List (Fields → Instr) :=
  [.cmpeq, .cmpne, .cmplt, .cmple, .cmpltz, .cmplez, .testz, .testnz] ++
  [.sel, .bound, .clamp, .pand, .por, .pnot]

/-- Class 4 of the opcode map in index order (spec 02 Table 2.15). -/
def opClass4 : List (Fields → Instr) :=
  [.fadd, .fsub, .fmul, .ffma, .ffms, .fmin, .fmax, .fabs] ++
  [.fneg, .fcpys, .fcmpeq, .fcmplt, .fcmple, .fcmpun, .frcp, .frsq] ++
  [.fsqrt, .fdiv, .fexp2, .flog2, .ftanh, .fsin, .fcos, .frnd] ++
  [.fscale, .fgete, .cvtf, .cvtfi, .cvtif, .fclass]

/-- Class 5 of the opcode map in index order (spec 02 Table 2.15). -/
def opClass5 : List (Fields → Instr) :=
  [.vadd, .vsub, .vmul, .vmulh, .vadds, .vsubs, .vmin, .vmax] ++
  [.vavg, .vshl, .vshr, .vsar, .vcmpeq, .vcmplt, .vsel, .vsplat] ++
  [.vshuf, .vpack, .vunpkl, .vunpkh, .vredadd, .vredmax, .vredmin, .vdot] ++
  [.vfma, .vfadd, .vfmul, .vfmax, .vcvt, .pfxc, .isect, .obt] ++
  [.obti, .digit]

/-- Class 6 of the opcode map in index order (spec 02 Table 2.15). -/
def opClass6 : List (Fields → Instr) :=
  [.ld, .st, .ldacq, .strel, .fence, .pref, .xlate, .leap] ++
  [.aadd, .asub, .amin, .amax, .aminz, .amaxz, .aand, .aor] ++
  [.axor, .axchg, .acas, .afadd, .aincw, .stream, strmkForm, .wring] ++
  [.spread, .rport, .ldrb]

/-- Class 7 of the opcode map in index order (spec 02 Table 2.15). -/
def opClass7 : List (Fields → Instr) :=
  [.mcfg, .mldb, .mswap, .mbc, .mbcw, .accset, .acccnt, .accrd] ++
  [.accclr, .mchk, .hcopy, .hgath, .hscat, .hred, .hfill, chkptForm] ++
  [.sysrd, .syswr]

/-- The instruction of an OP value (spec 02 R70, Table 2.15); `none` for EMPTY and the reserved values. -/
def opInstr (op : BitVec 9) : Option (Fields → Instr) :=
  let i := op.toNat % 64
  match op.toNat / 64 with
  | 0 => if i = 0 then none else opClass0[i - 1]?
  | 1 => opClass1[i]?
  | 2 => opClass2[i]?
  | 3 => opClass3[i]?
  | 4 => opClass4[i]?
  | 5 => opClass5[i]?
  | 6 => opClass6[i]?
  | _ => opClass7[i]?

/-- The instruction of a 128-bit word. -/
def decode (w : BitVec 128) : Except DecodeReject Instr :=
  match opInstr (wordOp w) with
  | some c => .ok (c (wordFields w))
  | none => if wordOp w = 0#9 then .error .empty else .error (.reservedOp (wordOp w))

/-- The instruction at the head of a byte list, 16 bytes little-endian (spec 02 R42, R58), and the rest. -/
def decodeBytes (bs : List Byte) : Except DecodeReject (Instr × List Byte) :=
  if bs.length < 16 then .error .short
  else match decode (BitVec.ofNat 128 (Machine.ofBytes (bs.take 16))) with
    | .ok i => .ok (i, bs.drop 16)
    | .error e => .error e

/-- The host's question: the instruction of a word given as a number. -/
def decodeTableWord (_nbits w : Nat) : Option Instr :=
  match decode (BitVec.ofNat 128 w) with
  | .ok i => some i
  | .error _ => none

/-- The OP of an instruction word's constructor (spec 02 Table 2.15) with its fields; `none` for an event. -/
def opFields (i : Instr) : Option (BitVec 9 × Fields) :=
  match i with
  | .mov f => some (0x001#9, f)
  | .const f => some (0x002#9, f)
  | .fan f => some (0x003#9, f)
  | .steer f => some (0x004#9, f)
  | .merge f => some (0x005#9, f)
  | .gate f => some (0x006#9, f)
  | .sink f => some (0x007#9, f)
  | .nullgen f => some (0x008#9, f)
  | .isnull f => some (0x009#9, f)
  | .coalesce f => some (0x00A#9, f)
  | .endm f => some (0x00B#9, f)
  | .endrank f => some (0x00C#9, f)
  | .skip f => some (0x00D#9, f)
  | .chsend f => some (0x00E#9, f)
  | .chrecv f => some (0x00F#9, f)
  | .credit f => some (0x010#9, f)
  | .chopen f => some (0x011#9, f)
  | .chclose f => some (0x012#9, f)
  | .packt f => some (0x013#9, f)
  | .talloc f => some (0x040#9, f)
  | .tfree f => some (0x041#9, f)
  | .tnext f => some (0x042#9, f)
  | .tidx f => some (0x043#9, f)
  | .tset f => some (0x044#9, f)
  | .tget f => some (0x045#9, f)
  | .tcall f => some (0x046#9, f)
  | .tret f => some (0x047#9, f)
  | .read f => some (0x048#9, f)
  | .readHoldAtOpen f => some (0x048#9, f)
  | .write f => some (0x049#9, f)
  | .exit f => some (0x04A#9, f)
  | .exitx f => some (0x04B#9, f)
  | .spawn f => some (0x04C#9, f)
  | .spawni f => some (0x04D#9, f)
  | .cntinit f => some (0x04E#9, f)
  | .cntdec f => some (0x04F#9, f)
  | .cntwait f => some (0x050#9, f)
  | .waita f => some (0x051#9, f)
  | .switch f => some (0x052#9, f)
  | .quiet f => some (0x053#9, f)
  | .getid f => some (0x054#9, f)
  | .cycle f => some (0x055#9, f)
  | .trap f => some (0x056#9, f)
  | .svc f => some (0x057#9, f)
  | .brk f => some (0x058#9, f)
  | .pin f => some (0x059#9, f)
  | .unpin f => some (0x05A#9, f)
  | .resq f => some (0x05B#9, f)
  | .keyq f => some (0x05C#9, f)
  | .add f => some (0x080#9, f)
  | .sub f => some (0x081#9, f)
  | .rsub f => some (0x082#9, f)
  | .neg f => some (0x083#9, f)
  | .abs f => some (0x084#9, f)
  | .adds f => some (0x085#9, f)
  | .subs f => some (0x086#9, f)
  | .mul f => some (0x087#9, f)
  | .mulh f => some (0x088#9, f)
  | .mulhz f => some (0x089#9, f)
  | .div f => some (0x08A#9, f)
  | .divz f => some (0x08B#9, f)
  | .rem f => some (0x08C#9, f)
  | .remz f => some (0x08D#9, f)
  | .min f => some (0x08E#9, f)
  | .max f => some (0x08F#9, f)
  | .minz f => some (0x090#9, f)
  | .maxz f => some (0x091#9, f)
  | .and f => some (0x092#9, f)
  | .or f => some (0x093#9, f)
  | .xor f => some (0x094#9, f)
  | .andn f => some (0x095#9, f)
  | .orn f => some (0x096#9, f)
  | .not f => some (0x097#9, f)
  | .shl f => some (0x098#9, f)
  | .shr f => some (0x099#9, f)
  | .sar f => some (0x09A#9, f)
  | .rol f => some (0x09B#9, f)
  | .ror f => some (0x09C#9, f)
  | .clz f => some (0x09D#9, f)
  | .ctz f => some (0x09E#9, f)
  | .popc f => some (0x09F#9, f)
  | .brev f => some (0x0A0#9, f)
  | .bswap f => some (0x0A1#9, f)
  | .ext f => some (0x0A2#9, f)
  | .extz f => some (0x0A3#9, f)
  | .ins f => some (0x0A4#9, f)
  | .sext f => some (0x0A5#9, f)
  | .zext f => some (0x0A6#9, f)
  | .lea f => some (0x0A7#9, f)
  | .packw f => some (0x0A8#9, f)
  | .cmpeq f => some (0x0C0#9, f)
  | .cmpne f => some (0x0C1#9, f)
  | .cmplt f => some (0x0C2#9, f)
  | .cmple f => some (0x0C3#9, f)
  | .cmpltz f => some (0x0C4#9, f)
  | .cmplez f => some (0x0C5#9, f)
  | .testz f => some (0x0C6#9, f)
  | .testnz f => some (0x0C7#9, f)
  | .sel f => some (0x0C8#9, f)
  | .bound f => some (0x0C9#9, f)
  | .clamp f => some (0x0CA#9, f)
  | .pand f => some (0x0CB#9, f)
  | .por f => some (0x0CC#9, f)
  | .pnot f => some (0x0CD#9, f)
  | .fadd f => some (0x100#9, f)
  | .fsub f => some (0x101#9, f)
  | .fmul f => some (0x102#9, f)
  | .ffma f => some (0x103#9, f)
  | .ffms f => some (0x104#9, f)
  | .fmin f => some (0x105#9, f)
  | .fmax f => some (0x106#9, f)
  | .fabs f => some (0x107#9, f)
  | .fneg f => some (0x108#9, f)
  | .fcpys f => some (0x109#9, f)
  | .fcmpeq f => some (0x10A#9, f)
  | .fcmplt f => some (0x10B#9, f)
  | .fcmple f => some (0x10C#9, f)
  | .fcmpun f => some (0x10D#9, f)
  | .frcp f => some (0x10E#9, f)
  | .frsq f => some (0x10F#9, f)
  | .fsqrt f => some (0x110#9, f)
  | .fdiv f => some (0x111#9, f)
  | .fexp2 f => some (0x112#9, f)
  | .flog2 f => some (0x113#9, f)
  | .ftanh f => some (0x114#9, f)
  | .fsin f => some (0x115#9, f)
  | .fcos f => some (0x116#9, f)
  | .frnd f => some (0x117#9, f)
  | .fscale f => some (0x118#9, f)
  | .fgete f => some (0x119#9, f)
  | .cvtf f => some (0x11A#9, f)
  | .cvtfi f => some (0x11B#9, f)
  | .cvtif f => some (0x11C#9, f)
  | .fclass f => some (0x11D#9, f)
  | .vadd f => some (0x140#9, f)
  | .vsub f => some (0x141#9, f)
  | .vmul f => some (0x142#9, f)
  | .vmulh f => some (0x143#9, f)
  | .vadds f => some (0x144#9, f)
  | .vsubs f => some (0x145#9, f)
  | .vmin f => some (0x146#9, f)
  | .vmax f => some (0x147#9, f)
  | .vavg f => some (0x148#9, f)
  | .vshl f => some (0x149#9, f)
  | .vshr f => some (0x14A#9, f)
  | .vsar f => some (0x14B#9, f)
  | .vcmpeq f => some (0x14C#9, f)
  | .vcmplt f => some (0x14D#9, f)
  | .vsel f => some (0x14E#9, f)
  | .vsplat f => some (0x14F#9, f)
  | .vshuf f => some (0x150#9, f)
  | .vpack f => some (0x151#9, f)
  | .vunpkl f => some (0x152#9, f)
  | .vunpkh f => some (0x153#9, f)
  | .vredadd f => some (0x154#9, f)
  | .vredmax f => some (0x155#9, f)
  | .vredmin f => some (0x156#9, f)
  | .vdot f => some (0x157#9, f)
  | .vfma f => some (0x158#9, f)
  | .vfadd f => some (0x159#9, f)
  | .vfmul f => some (0x15A#9, f)
  | .vfmax f => some (0x15B#9, f)
  | .vcvt f => some (0x15C#9, f)
  | .pfxc f => some (0x15D#9, f)
  | .isect f => some (0x15E#9, f)
  | .obt f => some (0x15F#9, f)
  | .obti f => some (0x160#9, f)
  | .digit f => some (0x161#9, f)
  | .ld f => some (0x180#9, f)
  | .st f => some (0x181#9, f)
  | .ldacq f => some (0x182#9, f)
  | .strel f => some (0x183#9, f)
  | .fence f => some (0x184#9, f)
  | .pref f => some (0x185#9, f)
  | .xlate f => some (0x186#9, f)
  | .leap f => some (0x187#9, f)
  | .aadd f => some (0x188#9, f)
  | .asub f => some (0x189#9, f)
  | .amin f => some (0x18A#9, f)
  | .amax f => some (0x18B#9, f)
  | .aminz f => some (0x18C#9, f)
  | .amaxz f => some (0x18D#9, f)
  | .aand f => some (0x18E#9, f)
  | .aor f => some (0x18F#9, f)
  | .axor f => some (0x190#9, f)
  | .axchg f => some (0x191#9, f)
  | .acas f => some (0x192#9, f)
  | .afadd f => some (0x193#9, f)
  | .aincw f => some (0x194#9, f)
  | .stream f => some (0x195#9, f)
  | .strmkQuery f => some (0x196#9, f)
  | .strmkCancel f => some (0x196#9, f)
  | .strmkDrain f => some (0x196#9, f)
  | .wring f => some (0x197#9, f)
  | .spread f => some (0x198#9, f)
  | .rport f => some (0x199#9, f)
  | .ldrb f => some (0x19A#9, f)
  | .mcfg f => some (0x1C0#9, f)
  | .mldb f => some (0x1C1#9, f)
  | .mswap f => some (0x1C2#9, f)
  | .mbc f => some (0x1C3#9, f)
  | .mbcw f => some (0x1C4#9, f)
  | .accset f => some (0x1C5#9, f)
  | .acccnt f => some (0x1C6#9, f)
  | .accrd f => some (0x1C7#9, f)
  | .accclr f => some (0x1C8#9, f)
  | .mchk f => some (0x1C9#9, f)
  | .hcopy f => some (0x1CA#9, f)
  | .hgath f => some (0x1CB#9, f)
  | .hscat f => some (0x1CC#9, f)
  | .hred f => some (0x1CD#9, f)
  | .hfill f => some (0x1CE#9, f)
  | .chkptBegin f => some (0x1CF#9, f)
  | .chkptRestore f => some (0x1CF#9, f)
  | .chkptAbandon f => some (0x1CF#9, f)
  | .chkptQuery f => some (0x1CF#9, f)
  | .sysrd f => some (0x1D0#9, f)
  | .syswr f => some (0x1D1#9, f)
  | .tokenArrival _ => none
  | .overflowRefill _ => none
  | .iwordLo _ => none
  | .iwordHi _ => none
  | .bhdrLo _ => none
  | .bhdrHi _ => none
  | .route _ => none
  | .kset _ => none
  | .hoist _ => none
  | .install _ => none
  | .installComplete _ => none
  | .hoistPlacement _ => none
  | .objectLoad _ _ _ => none
  | .faultReport _ _ => none
  | .serviceInboxEntry _ => none
  | .errEfaultAck _ _ => none
  | .reissue _ => none
  | .nullify _ => none
  | .step _ => none
  | .genresume _ _ => none
  | .genabort _ _ => none
  | .nodeclear _ => none
  | .taskresume _ _ => none
  | .taskdiscard _ => none
  | .stallclear _ => none
  | .regionabort _ _ => none
  | .frameUnload _ _ => none
  | .commit _ _ => none
  | .successorOpen _ _ => none
  | .fetch _ _ => none
  | .retirement _ _ => none
  | .quiescenceProbe _ _ => none
  | .regionSwitch _ _ => none
  | .quietRequestTaken _ _ => none
  | .quiescenceStall _ _ => none
  | .bankStarvationGrant _ => none
  | .accessAtHome _ => none
  | .atomicAtHome _ => none
  | .strelRelease _ => none
  | .generatorStep _ _ => none
  | .wringEmit _ _ => none
  | .spreadSessionToken _ _ => none
  | .reductionSessionToken _ _ => none
  | .channelTokenArrival _ => none
  | .creditArrival _ => none
  | .channelStall _ _ => none
  | .broadcast _ _ => none
  | .nullBroadcast _ _ => none
  | .mcfgEffect _ _ => none
  | .mldbEffect _ _ => none
  | .mswapEffect _ _ => none
  | .mchkEffect _ _ => none
  | .contribution _ _ => none
  | .taskRecordAccept _ => none
  | .taskRouting _ => none
  | .keyTry _ => none
  | .keyRequest _ => none
  | .keyReply _ => none
  | .keyRelease _ => none
  | .keyAging _ => none
  | .keyEntryRetry _ => none
  | .taskStart _ => none
  | .taskReroute _ => none
  | .residencyStaleNotice _ => none
  | .counterApply _ => none
  | .cntwaitRetry _ => none
  | .cntValWrite _ _ _ _ => none
  | .monitorPost _ => none
  | .monitorDeadline _ _ => none
  | .directoryLookup _ _ => none
  | .pageWalk _ _ => none
  | .shootDown _ _ _ => none
  | .shootDownAll _ _ _ => none
  | .invalidation _ => none
  | .halyardUnit _ _ => none
  | .echo _ _ => none
  | .mapreq _ _ _ => none
  | .log _ _ => none
  | .abortself _ _ => none
  | .hostService _ _ _ => none
  | .serviceRefused _ _ => none
  | .svcReply _ => none
  | .softPreemption _ _ => none
  | .hardPreemption _ _ => none
  | .drainLimit _ => none
  | .save _ => none
  | .preemptResume _ _ => none
  | .ingressWrite _ _ _ => none
  | .ingCfgWrite _ _ _ => none
  | .ingErrClear _ _ _ => none
  | .granuleAssign _ _ => none
  | .granuleZeroed => none
  | .partCfgWrite _ _ _ => none
  | .partReset _ _ => none
  | .ownClaim _ => none
  | .ownSucc _ _ => none
  | .registerWrite _ _ _ => none
  | .registerReadClear _ => none
  | .packageReset => none
  | .bringUp _ => none
  | .attestationRequest _ => none
  | .corePowerGate _ => none
  | .thermalLimit _ => none
  | .correctableError _ _ => none
  | .uncorrectableError _ => none
  | .elementStateError _ _ => none
  | .coreStateError _ => none
  | .clusterControlError _ => none
  | .hbmStackFailure _ => none
  | .ucieLinkError _ _ _ => none
  | .serviceCoreFailure _ _ => none
  | .packageError => none
  | .flitReceive _ _ _ => none
  | .linkRetrain _ _ => none
  | .linkDown _ => none
  | .linkUp _ _ => none
  | .lnkCtlWrite _ _ _ => none
  | .ensSelfWrite _ _ => none
  | .remoteItemArrival _ => none
  | .acknowledgement _ _ _ _ => none
  | .e2eTimeout _ => none
  | .markerArrival _ => none
  | .rollback _ => none
  | .powerGatingReturn _ => none
  | .objectUnload _ => none
  | .coreAssignment _ _ => none
  | .routedRecordArrival _ => none
  | .firmwareUpdate _ => none

/-- The word of an OP and fields (spec 02 Table 2.5). -/
def packWord (op : BitVec 9) (f : Fields) : BitVec 128 :=
  op ++ f.fn ++ f.pr ++ f.ls ++ f.om ++ f.t0 ++ f.t1 ++ f.xf ++ f.k

/-- The word of an instruction; `none` for an event, which no word encodes. -/
def encode (i : Instr) : Option (BitVec 128) :=
  match opFields i with
  | some (op, f) => some (packWord op f)
  | none => none

end Sys2Proof
end

