-- ==== Sys2Proof/Machine/Ops.lean ====
section
/-! DEFINITION. Named operations over the state: units by number, counts of activations, opening and
poison-marking an activation, hold-register writes, LSID accounting, emission of tokens, service reports, and
the taking of an element fault (03 R98 to R100), the Z8's form of an exception, with the resume beside it. -/
namespace Sys2Proof.Machine

/-- Why a meaning stops short of its effect: a fault of its element (code, DETAIL), or a wait (03 R107) in a
state that may have posted a request. -/
inductive Stop where
  | fault (code : Nat) (detail : Nat)
  | wait (hw : Hw)
  deriving DecidableEq, Repr

/-! ## Fault codes (00 Table 0.6) -/

/-- ILLEGAL_OPCODE. -/
def cILLOP : Nat := 0x01
/-- ILLEGAL_FIELD. -/
def cILLFIELD : Nat := 0x02
/-- MISALIGNED. -/
def cMISALIGNED : Nat := 0x03
/-- PAGE_NOT_PRESENT. -/
def cPAGE : Nat := 0x04
/-- PROTECTION. -/
def cPROT : Nat := 0x05
/-- HANDLE_BOUNDS. -/
def cHANDLE : Nat := 0x06
/-- POISON_AT_BOUNDARY. -/
def cPOISON : Nat := 0x07
/-- CREDIT_OVERFLOW. -/
def cCREDIT : Nat := 0x08
/-- CHANNEL_STALL, also the code of a quiescence report (11 R315). -/
def cSTALL : Nat := 0x09
/-- TAG_BUDGET. -/
def cTAGBUDGET : Nat := 0x0A
/-- EMPTY_SLOT. -/
def cEMPTY : Nat := 0x0B
/-- VERSION_AHEAD. -/
def cVERSION : Nat := 0x0C
/-- MONITOR_OVERFLOW (status). -/
def cMONOVER : Nat := 0x0D
/-- STALE_GENERATION. -/
def cSTALE : Nat := 0x0E
/-- FETCH_FAULT. -/
def cFETCH : Nat := 0x0F
/-- INGRESS_MALFORMED. -/
def cINGRESS : Nat := 0x10
/-- KEY_LIMIT (status). -/
def cKEYLIMIT : Nat := 0x11
/-- RANGE. -/
def cRANGE : Nat := 0x12
/-- LINK_DOWN. -/
def cLINK : Nat := 0x13
/-- REPLAY_EXHAUSTED. -/
def cREPLAY : Nat := 0x14
/-- SERVICE_REFUSED. -/
def cREFUSED : Nat := 0x15
/-- CHECKSUM. -/
def cCHECKSUM : Nat := 0x16

/-- The codes that a report may carry: none is reserved, a status or the loader's (00 R8). -/
def reportCodes : List Nat := (List.range 0x17).filter fun c => c != cTAGBUDGET && c != cMONOVER && c != cKEYLIMIT

/-- One of some codes that a free value picks. -/
def oneCode (l : List Nat) (n : Nat) : Nat := l.getD (n % l.length) 0

/-- A fault with ILLEGAL_FIELD and a cause (03 Table 3.5). -/
def illegal (cause : Nat) : Stop := .fault cILLFIELD cause

/-- Cause 10, operand out of range (04 Table 4.1): port, value. -/
def outOfRange (port : Nat) (v : Word) : Stop :=
  .fault cILLFIELD (10 + port * 2 ^ 5 + v.toNat % 2 ^ 48 * 2 ^ 16)

/-- Cause 13, commit accounting (06 R193): subcause, LSID or register, tag. -/
def accounting (sub what : Nat) (tag : BitVec 20) : Stop :=
  .fault cILLFIELD (13 + sub * 2 ^ 5 + what * 2 ^ 8 + tag.toNat * 2 ^ 14)

/-- Cause 14, region (06 R193): subcause, frame. -/
def regionCause (sub frame : Nat) : Stop := .fault cILLFIELD (14 + sub * 2 ^ 5 + frame * 2 ^ 8)

/-- Cause 15, descriptor or parameter field (07 Table 7.4): word number, word. -/
def badField (word : Nat) (v : Word) : Stop :=
  .fault cILLFIELD (15 + word * 2 ^ 5 + v.toNat % 2 ^ 48 * 2 ^ 16)

/-! ## Units by number -/

/-- Element `e` (global number). -/
def elemAt (hw : Hw) (e : Nat) : Elem := tget hw.elems {} e
/-- Writes element `e`. -/
def setElem (hw : Hw) (e : Nat) (x : Elem) : Hw := { hw with elems := tput hw.elems {} e x }
/-- Core `c` (global number). -/
def coreAt (hw : Hw) (c : Nat) : Core := tget hw.cores {} c
/-- Writes core `c`. -/
def setCore (hw : Hw) (c : Nat) (x : Core) : Hw := { hw with cores := tput hw.cores {} c x }
/-- Changes core `c`. -/
def modCore (hw : Hw) (c : Nat) (f : Core → Core) : Hw := setCore hw c (f (coreAt hw c))
/-- Cluster `k` (global number). -/
def clAt (hw : Hw) (k : Nat) : Cluster := tget hw.cls {} k
/-- Writes cluster `k`. -/
def setCl (hw : Hw) (k : Nat) (x : Cluster) : Hw := { hw with cls := tput hw.cls {} k x }
/-- Changes cluster `k`. -/
def modCl (hw : Hw) (k : Nat) (f : Cluster → Cluster) : Hw := setCl hw k (f (clAt hw k))
/-- Die `d`. -/
def dieAt (hw : Hw) (d : Nat) : Die := tget hw.dies {} d
/-- Writes die `d`. -/
def setDie (hw : Hw) (d : Nat) (x : Die) : Hw := { hw with dies := tput hw.dies {} d x }
/-- Changes die `d`. -/
def modDie (hw : Hw) (d : Nat) (f : Die → Die) : Hw := setDie hw d (f (dieAt hw d))
/-- Changes the package. -/
def modPkg (hw : Hw) (f : Pkg → Pkg) : Hw := { hw with pkg := f hw.pkg }

/-- Core of a global element. -/
def coreOf (e : Nat) : Nat := e / 32
/-- Cluster of a global core. -/
def clOf (c : Nat) : Nat := c / 8
/-- Die of a global core. -/
def dieOf (c : Nat) : Nat := c / 64

/-- A frame of a core. -/
def frameAt (c : Core) (f : Nat) : Frame := tget c.frames {} f
/-- Writes a frame of a core. -/
def setFrame (c : Core) (f : Nat) (x : Frame) : Core := { c with frames := tput c.frames {} f x }
/-- A task context of a core. -/
def ctxAt (c : Core) (n : Nat) : Ctx := tget c.ctxs {} n
/-- Writes a task context of a core. -/
def setCtx (c : Core) (n : Nat) (x : Ctx) : Core := { c with ctxs := tput c.ctxs {} n x }

/-- The package's logical chip number (16 R405). -/
def ownLC (hw : Hw) : Nat := bits (dieAt hw 0).ensSelf.toNat 0 10

/-- A fresh identifier or stamp. -/
def stamp (hw : Hw) : Nat × Hw := (hw.ids, { hw with ids := hw.ids + 1 })

/-- The next free-value index (a fresh argument for the constants of Config). -/
def nextFree (hw : Hw) : Nat × Hw := (hw.free, { hw with free := hw.free + 1 })

/-! ## Header fields (02 Table 2.11) -/

/-- SMASK bit. -/
def smaskBit (h : BitVec 128) (i : Nat) : Bool := h.getLsbD (96 + i)
/-- WMASK bit. -/
def wmaskBit (h : BitVec 128) (j : Nat) : Bool := h.getLsbD (32 + j)
/-- WMASK. -/
def wmask (h : BitVec 128) : BitVec 64 := h.extractLsb' 32 64
/-- TAGD. -/
def hdrTagd (h : BitVec 128) : Nat := (h.extractLsb' 24 8).toNat
/-- ROUTES. -/
def hdrRoutes (h : BitVec 128) : Nat := (h.extractLsb' 16 8).toNat
/-- ICOUNT. -/
def hdrIcount (h : BitVec 128) : Nat := (h.extractLsb' 9 7).toNat
/-- MMODE = chain. -/
def hdrChain (h : BitVec 128) : Bool := h.getLsbD 8

/-! ## Regions, partitions, tag spaces -/

/-- Whether a region's rectangle on its die holds a core of that die, given by row (cluster) and column. -/
def regionHolds (r : Region) (row col : Nat) : Bool :=
  r.valid && decide (r.row0.toNat ≤ row ∧ row ≤ r.row0.toNat + r.hm1.toNat ∧
    r.col0.toNat ≤ col ∧ col ≤ r.col0.toNat + r.wm1.toNat)

/-- The controllers of a die as (global cluster, controller, entry). -/
def dieRegions (hw : Hw) (d : Nat) : List (Nat × Nat × Region) :=
  (List.range 8).flatMap fun k => (clAt hw (d * 8 + k)).rcs.map fun x => (d * 8 + k, x.1, x.2)

/-- The region that holds frame `f` of core `c` as a configuration frame (06 R183, R184). -/
def regionOf (hw : Hw) (c f : Nat) : Option (Nat × Nat × Region) :=
  (dieRegions hw (dieOf c)).find? fun x =>
    regionHolds x.2.2 (clOf c % 8) (c % 8) && x.2.2.frames.getLsbD f

/-- The cores of a region of die `d`, by region-relative number (06 R183). -/
def regionCores (d : Nat) (r : Region) : List Nat :=
  (List.range (r.hm1.toNat + 1)).flatMap fun i => (List.range (r.wm1.toNat + 1)).map fun j =>
    d * 64 + (r.row0.toNat + i) * 8 + (r.col0.toNat + j)

/-- The partition that a cluster belongs to (15 R393). -/
def partOfCl (hw : Hw) (k : Nat) : Option Nat :=
  (hw.pkg.parts.find? fun x => x.2.valid && x.2.clusters.getLsbD k).map (·.1)

/-- The partition of an ASID (15 Table 15.3, PART_ASID), if it is live. -/
def partOfAsid (hw : Hw) (a : BitVec 10) : Option Nat := (tfind hw.pkg.asids a.toNat).map (·.toNat)

/-- The generation of a cluster's partition (15 R396). -/
def genOfCl (hw : Hw) (k : Nat) : BitVec 6 :=
  match partOfCl hw k with
  | some p => (tget hw.pkg.parts {} p).gen
  | none => 0

/-- The tag spaces of the pool that serves a frame (03 R85, R102). -/
def poolSpaces (hw : Hw) (c f : Nat) : Tab Space :=
  match regionOf hw c f with
  | some (k, i, _) => (tget (clAt hw k).rcs {} i).spaces
  | none => (clAt hw (clOf c)).spaces

/-- Changes the pool that serves a frame: its spaces and its waiting allocations. -/
def modPool (hw : Hw) (c f : Nat) (g : Tab Space × List AllocWait → Tab Space × List AllocWait) : Hw :=
  match regionOf hw c f with
  | some (k, i, _) => modCl hw k fun cl =>
      let r := tget cl.rcs {} i
      let x := g (r.spaces, r.allocq)
      { cl with rcs := tput cl.rcs {} i { r with spaces := x.1, allocq := x.2 } }
  | none => modCl hw (clOf c) fun cl =>
      let x := g (cl.spaces, cl.allocq)
      { cl with spaces := x.1, allocq := x.2 }

/-- Whether a space identifier is a task space (03 Table 3.3). -/
def isTaskSpace (s : Nat) : Bool := decide (0xFF0 ≤ s)

/-- The owning context of a tag used on a core, as (core, context), if it has one (06 R167). -/
def spaceOwner (hw : Hw) (c f : Nat) (tag : BitVec 20) : Option (Nat × Nat) :=
  let s := tagSpace tag
  if s = 0 then none
  else if isTaskSpace s then some (c, s - 0xFF0)
  else (tfind (poolSpaces hw c f) s).bind (·.owner)

/-- The owning context of a tag on a core, if it is a context of that core (06 R167). -/
def ownerOf (hw : Hw) (c f : Nat) (tag : BitVec 20) : Option Nat :=
  match spaceOwner hw c f tag with
  | some (c', n) => if c' = c then some n else none
  | none => none

/-! ## Activations (06 R165 to R169) -/

/-- Key of the counts of openings and commits: frame and tag. -/
def keyAct (f : Nat) (tag : BitVec 20) : Nat := f * 2 ^ 20 + tag.toNat
/-- Key of the counts of firings: element within the core, slot index, tag. -/
def keySlot (e5 slot : Nat) (tag : BitVec 20) : Nat := (e5 * 32 + slot) * 2 ^ 20 + tag.toNat
/-- Key of the counts of arrivals: as `keySlot`, and the port. -/
def keyPort (e5 slot port : Nat) (tag : BitVec 20) : Nat := keySlot e5 slot tag * 4 + port

/-- The open, uncommitted activation that is occurrence `k` of a frame and tag. -/
def findAct (c : Core) (f : Nat) (tag : BitVec 20) (k : Nat) : Option Act :=
  c.acts.find? fun a => a.frame = f && a.tag = tag && a.occ = k

/-- The activation that is occurrence `k` of a frame and tag, committed or not (06 R165). -/
def occAct (c : Core) (f : Nat) (tag : BitVec 20) (k : Nat) : Option Act :=
  match findAct c f tag k with
  | some a => some a
  | none => c.past.find? fun a => a.frame = f && a.tag = tag && a.occ = k

/-- The uncommitted activations of a frame. -/
def actsOf (c : Core) (f : Nat) : List Act := c.acts.filter fun a => a.frame = f

/-- Changes the activation with a sequence number. -/
def modAct (c : Core) (seq : Nat) (g : Act → Act) : Core :=
  { c with acts := mapFirst (fun a => a.seq = seq) g c.acts }

/-- OP of READ (02 Table 2.15). -/
def opREAD : BitVec 9 := 0x048#9
/-- OP of CHRECV (02 Table 2.15). -/
def opCHRECV : BitVec 9 := 0x00F#9

/-- Whether a word is `READ Hj`, which fires once at each opening (06 R187). -/
def isReadAtOpen (w : BitVec 128) : Bool := wordOp w = opREAD && (wordFields w).om = 1#3

/-- Gives every `READ Hj` slot of a frame its firing for an activation that opens (06 R187): a trigger that
takes no matching-store entry. -/
def triggerReads (hw : Hw) (c f : Nat) (tag : BitVec 20) (ref : ActRef) : Hw :=
  (List.range 32).foldl (fun hw e5 =>
    let e := c * 32 + e5
    let slots := ((List.range 4).map (f * 4 + ·)).filter fun s => isReadAtOpen (tget (elemAt hw e).words 0 s)
    slots.foldl (fun hw s =>
      let x := elemAt hw e
      let o : Operand := { slot := s, tok := mkTok (mkCont 0 e s 0) tag .order, place := .direct
                           stamp := hw.ids, side := some ref }
      { setElem hw e { x with ops := x.ops ++ [o] } with ids := hw.ids + 1 }) hw) hw

/-- Opens the next activation of a frame under a tag (06 R166). -/
def openAct (hw : Hw) (c f : Nat) (tag : BitVec 20) : Hw :=
  let x := coreAt hw c
  let k := tget x.opened 0 (keyAct f tag)
  let n := ownerOf hw c f tag
  let a : Act := { frame := f, tag := tag, occ := k, seq := x.nextSeq, ctx := n, task := (n.map fun i => (ctxAt x i).task).getD 0 }
  let x := { x with acts := x.acts ++ [a], nextSeq := x.nextSeq + 1
                    opened := tput x.opened 0 (keyAct f tag) (k + 1) }
  triggerReads (setCore hw c x) c f tag { core := c, frame := f, seq := a.seq }

/-- Whether tokens under a tag open activations on arrival: every tag but a task tag (06 R166). -/
def opensOnArrival (tag : BitVec 20) : Bool := !isTaskSpace (tagSpace tag)

/-- Poison-marks occurrence `k` of a frame and tag, committed or not, and under a task tag its task context, while that still
holds the task (06 R179); one that has not opened yet is its context's. -/
def poisonMark (hw : Hw) (c f : Nat) (tag : BitVec 20) (k : Nat) : Hw :=
  let x := coreAt hw c
  let mark := mapFirst (fun (a : Act) => a.frame = f && a.tag = tag && a.occ = k) fun a => { a with poison := true }
  let n := tagSpace tag - 0xFF0
  let held := match occAct x f tag k with
    | some a => decide (a.task = (ctxAt x n).task)
    | none => true
  let y := { x with acts := mark x.acts, past := mark x.past }
  setCore hw c (if isTaskSpace (tagSpace tag) && held then setCtx y n { ctxAt y n with poison := true } else y)

/-- Marks an activation exposed (13 R365). -/
def expose (hw : Hw) (c : Nat) (seq : Option Nat) : Hw :=
  match seq with
  | none => hw
  | some q => modCore hw c fun x => modAct x q fun a => { a with exposed := true }

/-- Whether an activation's effects carry its poison mark, its own or its task's (06 R179), until that task has retired. -/
def actMarked (c : Core) (a : Act) : Bool :=
  a.poison || (match a.ctx with
    | some n => (ctxAt c n).poison && decide ((ctxAt c n).task = a.task)
    | none => false)

/-- Whether the tokens of a firing site carry a poison mark, its activation's, be it committed, or its task's (06 R179). -/
def siteMarked (hw : Hw) (s : Site) : Bool :=
  let c := coreAt hw (coreOf s.elem)
  match occAct c s.frame s.tag s.occ with
  | some a => actMarked c a
  | none => match ownerOf hw (coreOf s.elem) s.frame s.tag with
    | some n => (ctxAt c n).poison
    | none => false

/-! ## Hold registers and LSIDs (06 R168, R170, R172) -/

/-- Records a write of a hold register by the activation of a site; a write is a null-write if `v` is none. DESIGN CHOICE
(log 92): an effect of an activation under a task tag that has not opened yet faults as one of a committed activation does. -/
def stageWrite (hw : Hw) (s : Site) (j : Nat) (v : Option (Word × Bool)) : Except Stop Hw :=
  let c := coreOf s.elem
  let x := coreAt hw c
  if (ownerOf hw c s.frame s.tag).isNone then .error (accounting 2 j s.tag)
  else if !wmaskBit (frameAt x s.frame).header j then .error (accounting 1 j s.tag)
  else match findAct x s.frame s.tag s.occ with
    | none => .error (accounting 4 j s.tag)
    | some a =>
      if (tfind a.writes j).isSome then .error (accounting 4 j s.tag)
      else
        let w : Staged := match v with
          | none => .null
          | some (v, p) => .value v p
        .ok (setCore hw c (modAct x a.seq fun a => { a with writes := tins a.writes j w }))

/-- A token sent to a hold-register target (06 R170, R172): a NULL is a null-write. -/
def holdTarget (hw : Hw) (s : Site) (j : Nat) (t : Token) : Except Stop Hw :=
  match t.kind with
  | .data | .paddr => stageWrite hw s j (some (t.value, t.psn))
  | .null => stageWrite hw s j none
  | _ => .error (accounting 3 j s.tag)

/-- Counts a store or null-store of an LSID for the activation of a site (06 R168, R172); of one not open, as for a write
(log 92). -/
def countStore (hw : Hw) (s : Site) (lsid : Nat) : Except Stop Hw :=
  let c := coreOf s.elem
  let x := coreAt hw c
  if !smaskBit (frameAt x s.frame).header lsid then .error (accounting 0 lsid s.tag)
  else match findAct x s.frame s.tag s.occ with
    | none => .error (accounting 4 lsid s.tag)
    | some a =>
      if a.lsids.getLsbD lsid then .error (accounting 4 lsid s.tag)
      else .ok (setCore hw c (modAct x a.seq fun a => { a with lsids := a.lsids ||| BitVec.ofNat 32 (2 ^ lsid) }))

/-- The LSIDs counted for an occurrence of a frame and tag (06 R182), if any are kept. -/
def lsDoneOf (x : Core) (f : Nat) (tag : BitVec 20) (k : Nat) : Option (BitVec 32) :=
  (x.lsDone.find? fun y => y.frame = f && y.tag = tag && y.occ = k).map (·.bits)

/-- Keeps the LSIDs counted for an occurrence, or forgets them once it has committed and the frame's chain mask is
complete. -/
def putLsDone (x : Core) (f : Nat) (tag : BitVec 20) (k : Nat) (b : BitVec 32) (committed : Bool) : Core :=
  let rest := x.lsDone.filter fun y => !(y.frame = f && y.tag = tag && y.occ = k)
  let full := (List.range 32).all fun i => !(frameAt x f).chain.getLsbD i || b.getLsbD i
  { x with lsDone := if committed && full then rest else rest ++ [{ frame := f, tag := tag, occ := k, bits := b }] }

/-- Counts an LSID as issued, null-stored or null-loaded in chain order (06 R182, 11 R303). -/
def countIssued (hw : Hw) (s : Site) (lsid : Nat) : Hw :=
  modCore hw (coreOf s.elem) fun x =>
    if !hdrChain (frameAt x s.frame).header then x
    else putLsDone x s.frame s.tag s.occ (((lsDoneOf x s.frame s.tag s.occ).getD 0) ||| BitVec.ofNat 32 (2 ^ lsid))
      (decide (s.occ < tget x.committed 0 (keyAct s.frame s.tag)))

/-- Whether an LSID's turn has come in chain mode: every lower LSID of the frame's chain mask is counted in the same
activation, be it committed (06 R182), or the LSID itself is, by another instruction of it (07 R204). Always, in arc mode. -/
def lsTurn (hw : Hw) (s : Site) (lsid : Nat) : Bool :=
  let x := coreAt hw (coreOf s.elem)
  let fr := frameAt x s.frame
  let lower := fun (b : BitVec 32) => b.getLsbD lsid || (List.range lsid).all fun i => !fr.chain.getLsbD i || b.getLsbD i
  if !hdrChain fr.header then true
  else match lsDoneOf x s.frame s.tag s.occ with
    | some b => lower b
    | none => decide (s.occ < tget x.committed 0 (keyAct s.frame s.tag)) || lower 0

/-! ## Service reports (03 R101, 13 R356) -/

/-- A SERVICE token with AUX[6] = 0 from a unit of cluster `k`, towards its service core. -/
def report (hw : Hw) (k : Nat) (code : Nat) (v : Nat) (copy : Option (Nat × Nat) := none) : Hw :=
  let m : SvcMsg := { die := k / 8, sc := k % 8 / 2, tok := mkTok 0 0 .service (BitVec.ofNat 64 v) (BitVec.ofNat 7 (code % 64))
                      site := none, reply := false, asid := 0, copy := copy }
  { hw with svc := hw.svc ++ [m] }

/-! ## The fabric's sending side (16 R407, R410 to R412) -/

/-- The ensign entry of a logical chip at a die's router (16 R406). -/
def ensEntry (hw : Hw) (d lc : Nat) : Nat := (tget (dieAt hw d).ens 0 lc).toNat
/-- STATE of an ensign entry: 0 off, 1 active, 2 draining, 3 swapped. -/
def ensState (hw : Hw) (d lc : Nat) : Nat := bits (ensEntry hw d lc) 30 2

/-- The link that a value of SEL names in an entry: PRIM, ALT1 or ALT2 (16 Table 16.1). -/
def ensPort (e sel : Nat) : Nat := if sel = 0 then bits e 4 4 else if sel = 1 then bits e 8 4 else bits e 12 4
/-- The selected link of an entry. -/
def ensLink (e : Nat) : Nat := ensPort e (bits e 16 2)

/-- Link `l` of the package. -/
def linkAt (hw : Hw) (l : Nat) : Link := tget (dieAt hw (l / 4)).links {} (l % 4)
/-- Writes link `l`. -/
def setLink (hw : Hw) (l : Nat) (x : Link) : Hw := modDie hw (l / 4) fun d => { d with links := tput d.links {} (l % 4) x }
/-- Whether a link is up. -/
def linkIsUp (hw : Hw) (l : Nat) : Bool := (linkAt hw l).state == 2

/-- The key of a fabric stream: logical chip and class (16 R410). -/
def streamKey (lc cls : Nat) : Nat := lc * 3 + cls

/-- What this package acknowledges of an inbound stream: every item before this number. A token is acknowledged once an element
has accepted it, any other item as it is delivered (16 R411). -/
def ackedTo (hw : Hw) (lc cls : Nat) : Nat :=
  let n := (tget hw.pkg.nums {} (streamKey lc cls)).nextIn
  if cls ≠ 2 then n
  else match hw.net.find? fun x => x.src == .fabric lc with
    | some x => x.iss
    | none => n

/-- The acknowledgements that a flit towards a logical chip carries, with the number of the last cut recorded (16 R411, R417). -/
def acksFor (hw : Hw) (lc : Nat) : List FabAck :=
  [0, 1, 2].map fun cls => { lc := lc, cls := cls, num := ackedTo hw lc cls, cut := hw.pkg.cut.num.toNat }

/-- Puts a flit on a link, which keeps it until the far end has taken it; none while the link is not up or keeps 512 flits
(16 R408). DESIGN CHOICE (log 64): a flit carries one item, or none. -/
def flitOut (hw : Hw) (l lc : Nat) (items : List FabItem) : Option Hw :=
  let x := linkAt hw l
  if x.state ≠ 2 || 512 ≤ x.kept.length then none
  else some (setLink hw l { x with kept := x.kept ++ [{ seq := x.seqOut, items := items, acks := acksFor hw lc }], seqOut := x.seqOut + 1 })

/-- Sends a replay entry on the link that its die's entry selects; without room there it waits (16 R407, R408). -/
def entryOut (hw : Hw) (r : RplEntry) : Hw × RplEntry :=
  let l := ensLink (ensEntry hw r.die r.item.dst)
  let r := { r with link := l, sentAt := hw.now }
  match flitOut hw l r.item.dst [r.item] with
  | some hw => (hw, { r with due := false })
  | none => (hw, { r with due := true })

/-- Acknowledges again, or at once, what has come from a logical chip (16 R410, R411): in a flit of its own, or, without room on the
link, in the next one that goes there. -/
def ackOut (hw : Hw) (lc : Nat) : Hw := (flitOut hw (ensLink (ensEntry hw 0 lc)) lc []).getD hw

/-- Whether a class's replay buffer at a die has some free entries (16 R411). -/
def replayRoom (hw : Hw) (d cls n : Nat) : Bool :=
  decide ((hw.pkg.replay.filter fun r => r.die = d && r.item.cls = cls).length + n ≤ 8192)
/-- Whether a class's replay buffer at a die has a free entry. -/
def replayFree (hw : Hw) (d cls : Nat) : Bool := replayRoom hw d cls 1

/-- Whether a package with a number has a path to a logical chip from a die (16 R405, R407). -/
def fabPath (hw : Hw) (d lc : Nat) : Bool :=
  (dieAt hw 0).ensSelf.getLsbD 63 && (ensState hw d lc = 1 || ensState hw d lc = 3)

/-- Whether an item of a stream may leave a die now: a path, a replay entry, nothing of its stream that waits (16 R407, R410, R411). -/
def fabGoes (hw : Hw) (d lc cls : Nat) : Bool :=
  fabPath hw d lc && replayFree hw d cls && !(hw.pkg.fabWait.any fun w => w.lc = lc && w.cls = cls)

/-- Sends an item into the stream towards a logical chip from a die; where it may not leave, it waits at its unit
(16 R407, R410, R411). -/
def fabSend (hw : Hw) (d lc cls : Nat) (body : FabBody) : Hw :=
  if !fabGoes hw d lc cls then modPkg hw fun p => { p with fabWait := p.fabWait ++ [{ die := d, lc := lc, cls := cls, body := body }] }
  else
    let k := streamKey lc cls
    let n := tget hw.pkg.nums {} k
    let it : FabItem := { src := ownLC hw, dst := lc, cls := cls, num := n.nextOut, body := body }
    let (hw, r) := entryOut hw { die := d, item := it, link := 0, tries := 0, sentAt := hw.now, due := true, kept := none }
    modPkg hw fun p => { p with nums := tput p.nums {} k { n with nextOut := (n.nextOut + 1) % 2 ^ 32 }, replay := p.replay ++ [r] }

/-- Sends what waited for the fabric and may leave now. -/
def fabRetry (hw : Hw) : Hw :=
  if hw.pkg.fabWait.isEmpty then hw
  else hw.pkg.fabWait.foldl (fun hw w => fabSend hw w.die w.lc w.cls w.body) (modPkg hw fun p => { p with fabWait := [] })

/-- Whether the fabric takes nothing for a logical chip from a die: its entry is off, or the package has no number (16 R405,
R407). -/
def fabOff (hw : Hw) (d lc : Nat) : Bool := !(dieAt hw 0).ensSelf.getLsbD 63 || ensState hw d lc = 0

/-- Whether a unit of a die may send to a logical chip now: a fault when the entry is off (or the package has no number),
a wait while it drains or the class has no replay entry (16 R405, R407, R411). -/
def fabCheck (hw : Hw) (d lc cls : Nat) (detail : Nat) : Except Stop Unit :=
  if fabOff hw d lc then .error (.fault cLINK detail)
  else if fabGoes hw d lc cls then .ok ()
  else .error (.wait hw)

/-! ## Emission (02 R53, 03 R76) -/

/-- The sideband of a site's tokens (13 R366). -/
def siteSide (s : Site) : Option ActRef :=
  s.seq.map fun q => { core := coreOf s.elem, frame := s.frame, seq := q }

/-- Puts a token on its way within the package, with the issue number of the firing that sends it. -/
def send (hw : Hw) (src : Src) (side : Option ActRef) (gen : BitVec 6) (t : Token) (iss : Nat := 0) : Hw :=
  { hw with net := hw.net ++ [{ tok := t, src := src, side := side, gen := gen, iss := iss }] }

/-- DETAIL of LINK_DOWN for a token (07 Table 7.4). -/
def tokenLinkDown (t : Token) : Nat := t.cont.toNat + t.tag.toNat * 2 ^ 30 + contLC t.cont * 2 ^ 52 + 2 ^ 63

/-- Sends a token to a continuation (13 R366, 16 R407, R412). A token for another logical chip stands among the
tokens on their way until the fabric takes it. -/
def sendCont (hw : Hw) (s : Site) (src : Src) (cont : BitVec 30) (t : Token) : Except Stop Hw :=
  let t := { t with cont := cont }
  let lc := contLC cont
  let c := coreOf s.elem
  let gen := genOfCl hw (clOf c)
  if lc ≠ ownLC hw then
    if fabOff hw (dieOf c) lc then .error (.fault cLINK (tokenLinkDown t))
    else if tokPsn t then .error (.fault cPOISON 0)
    else .ok (send hw src (siteSide s) gen t s.iss)
  else
    let other := (frameAt (coreAt hw (contCore cont)) (contFrame cont)).asid ≠ s.asid
    .ok (send (if other then expose hw c s.seq else hw) src (siteSide s) gen t s.iss)

/-- Whether a send from a frame of a region to another frame of it, not current, is refused (06 R184). -/
def switchViolation (hw : Hw) (s : Site) (cont : BitVec 30) : Bool :=
  match regionOf hw (coreOf s.elem) s.frame with
  | none => false
  | some (k, _, r) =>
    let dc := contCore cont
    let df := contFrame cont
    decide (dieOf dc = k / 8) && regionHolds r (clOf dc % 8) (dc % 8) && r.frames.getLsbD df &&
      decide (df ≠ r.cur.toNat) && decide (contLC cont = ownLC hw)

/-- A route entry of a frame (02 Table 2.12). -/
def routeAt (hw : Hw) (s : Site) (i : Nat) : BitVec 32 :=
  tget (frameAt (coreAt hw (coreOf s.elem)) s.frame).routes 0 i

/-- Sends a token of a site along a route entry (02 R53, R59). Only TMODE 01 changes the tag. The spec does not say what an
element does with TMODE 10 or 11, which the loader never writes and a ROUTE message of firmware can: DESIGN CHOICE
(log 65): as TMODE 00, the tag is kept. -/
def emitRoute (hw : Hw) (s : Site) (src : Src) (i : Nat) (t : Token) (atSwitch : Bool := false) : Except Stop Hw :=
  if hdrRoutes (frameAt (coreAt hw (coreOf s.elem)) s.frame).header ≤ i then .error (illegal 7)
  else
    let r := routeAt hw s i
    let cont := r.extractLsb' 0 30
    let t := if (r.extractLsb' 30 2).toNat = 1 then { t with tag := 0 } else t
    if !atSwitch && switchViolation hw s cont then .error (regionCause 2 (contFrame cont))
    else sendCont hw s src cont t

/-- The continuation of a slot target (02 Table 2.8): an element, slot and port of the site's own core and frame. -/
def slotCont (hw : Hw) (s : Site) (target : BitVec 22) : BitVec 30 :=
  let p := target.toNat
  mkCont (ownLC hw) (coreOf s.elem * 32 + bits p 4 5) (s.frame * 4 + bits p 2 2) (bits p 0 2)

/-- The place that a target's tokens go to, if they go to a slot: the continuation, and whether the tag is kept (02 R53). -/
def targetCont (hw : Hw) (s : Site) (target : BitVec 22) : Option (BitVec 30 × Bool) :=
  match (target.extractLsb' 20 2).toNat with
  | 1 => some (slotCont hw s target, true)
  | 3 =>
    let r := routeAt hw s (bits target.toNat 0 8)
    some (r.extractLsb' 0 30, decide ((r.extractLsb' 30 2).toNat ≠ 1))
  | _ => none

/-- Sends a token of a site to a target (02 R53, Table 2.8). The token's tag is the tag it is emitted under;
poison marks have been applied. -/
def emitTo (hw : Hw) (s : Site) (src : Src) (target : BitVec 22) (t : Token) (atSwitch : Bool := false) : Except Stop Hw :=
  match (target.extractLsb' 20 2).toNat with
  | 0 => .ok hw
  | 1 =>
    let cont := slotCont hw s target
    if !atSwitch && switchViolation hw s cont then .error (regionCause 2 (contFrame cont)) else sendCont hw s src cont t
  | 2 => holdTarget hw s (bits target.toNat 0 6) t
  | _ => emitRoute hw s src (bits target.toNat 0 8) t atSwitch

/-- The poison mark applied to a token (06 R179). -/
def markTok (marked : Bool) (t : Token) : Token :=
  if marked && (t.kind == .data || t.kind == .paddr) then { t with psn := true } else t

/-- Sends a list of tokens to one target, in order. -/
def emitList (hw : Hw) (s : Site) (src : Src) (target : BitVec 22) : List Token → Except Stop Hw
  | [] => .ok hw
  | t :: r => match emitTo hw s src target (markTok (siteMarked hw s) t) with
    | .ok hw => emitList hw s src target r
    | .error e => .error e

/-- The source of a site's tokens (03 R76). -/
def siteSrc (s : Site) : Src := .slot s.elem s.frame s.slot

/-- Sends tokens to both targets of a site (02 R53). -/
def emitBoth (hw : Hw) (s : Site) (ts : List Token) : Except Stop Hw := do
  let hw ← emitList hw s (siteSrc s) s.t0 ts
  emitList hw s (siteSrc s) s.t1 ts

/-- NULL tokens for `n` positions (03 R89), the earlier ones with skip count 127. -/
def nulls (tag : BitVec 20) (n : Nat) : List Token :=
  (List.replicate (n / 128) (mkTok 0 tag .null 0 127)) ++
    (if n % 128 = 0 then [] else [mkTok 0 tag .null 0 (BitVec.ofNat 7 (n % 128 - 1))])

/-! ## Taking an element fault, and resuming (03 R98 to R102) -/

/-- Freezes an element, or sets MULTI if it is frozen (03 R98): what faulted is given as a fault register whose
VALID, place fields, CODE and DETAIL this fills. -/
def freeze (hw : Hw) (e slot : Nat) (tag : BitVec 20) (op : BitVec 9) (why : FaultFrom) (code detail : Nat)
    (psn : Bool := false) (kind : BitVec 4 := 0) (port : Nat := 0) : Hw :=
  let x := elemAt hw e
  if x.fault.valid then setElem hw e { x with fault := { x.fault with multi := true } }
  else
    let (n, hw) := stamp hw
    let r : FaultReg :=
      { valid := true, multi := false, op := op, psn := psn, kind := kind, tag := tag, elem := e
        port := BitVec.ofNat 2 port, slot := BitVec.ofNat 2 (slot % 4), frame := BitVec.ofNat 3 (slot / 4)
        code := BitVec.ofNat 8 code, detail := BitVec.ofNat 64 detail, arose := n }
    setElem hw e { x with fault := r, why := why }

/-- Notes progress of a frame of a core: the stall watches count from here (11 R315). -/
def moved (hw : Hw) (c f : Nat) : Hw := modCore hw c fun x => { x with moved := tput x.moved 0 f hw.now }

/-- Clears VALID: the element issues and takes tokens again (03 R99, 13 Table 13.9). DESIGN CHOICE (log 89): MULTI and every
other field are cleared with it. -/
def unfreeze (hw : Hw) (e : Nat) : Hw :=
  let f := (elemAt hw e).fault.frame.toNat
  moved (setElem hw e { elemAt hw e with fault := {}, why := .none }) (coreOf e) f

/-- Whether an element is frozen. -/
def frozen (hw : Hw) (e : Nat) : Bool := (elemAt hw e).fault.valid

/-- The end of an effect of an operation that issued earlier: a fault it raises freezes its element, or sets MULTI
(03 R98.3). Emission never waits. -/
def settle (hw : Hw) (s : Site) (r : Except Stop Hw) : Hw :=
  match r with
  | .ok hw => hw
  | .error (.wait hw) => hw
  | .error (.fault c d) => freeze hw s.elem s.slot s.tag s.op (.issued s.slot s.tag none) c d

/-! ## Arrivals in a frame (06 R165, 13 R364 to R367) -/

/-- Whether an ASID's work has been saved and not restored. -/
def isSaved (hw : Hw) (a : BitVec 10) : Bool :=
  hw.pkg.pre.any fun x => x.2.works.any fun w => w.1 = a

/-- Whether the starts and ingress of an ASID are held (13 R364 steps 1 and 2, 16 R416 step 1). -/
def heldAsid (hw : Hw) (a : BitVec 10) : Bool :=
  hw.pkg.cut.state ≠ 0 || isSaved hw a || hw.pkg.pre.any fun x => x.2.phase != .idle && x.2.asid = a

/-- Whether no activation of an ASID opens (13 R367 step 1). -/
def closedAsid (hw : Hw) (a : BitVec 10) : Bool :=
  hw.pkg.cut.state ≠ 0 || isSaved hw a ||
    hw.pkg.pre.any fun x => (x.2.phase == .drain || x.2.phase == .ready) && x.2.hard && x.2.asid = a

/-- Whether no activation opens in a frame. In those of firmware, which takes, abandons and restores the cuts, they open
(16 R416, R420, R421). -/
def closedFrame (hw : Hw) (fr : Frame) : Bool := !fr.firmware && closedAsid hw fr.asid

/-- Whether the next token at a port of a slot under a tag would open an activation (06 R165, R166). -/
def wouldOpen (hw : Hw) (e slot port : Nat) (tag : BitVec 20) : Bool :=
  let x := coreAt hw (coreOf e)
  opensOnArrival tag && decide (tget x.opened 0 (keyAct (slot / 4) tag) ≤ tget x.arrived 0 (keyPort (e % 32) slot port tag))

/-- Whether such a token must wait, since its ASID is being pre-empted or a cut is taken (13 R367 step 1). -/
def noOpening (hw : Hw) (e slot port : Nat) (tag : BitVec 20) : Bool :=
  wouldOpen hw e slot port tag && closedFrame hw (frameAt (coreAt hw (coreOf e)) (slot / 4))

/-- Counts a token that reached a port of a slot, and opens the activation it belongs to if it is the first
(06 R165, R166); none while the frame is full. -/
def arrive (hw : Hw) (e slot port : Nat) (tag : BitVec 20) : Option Hw :=
  let c := coreOf e
  let k := keyPort (e % 32) slot port tag
  let x := coreAt hw c
  let opens := wouldOpen hw e slot port tag
  if opens && decide (64 ≤ (actsOf x (slot / 4)).length) then none
  else
    let hw := setCore hw c { x with arrived := tput x.arrived 0 k (tget x.arrived 0 k + 1) }
    some (if opens then openAct hw c (slot / 4) tag else hw)

/-- Records a token delivered to a port of a slot in the entry log of its core (13 R366). -/
def logToken (hw : Hw) (e slot port : Nat) (t : Token) (side : Option ActRef) : Hw :=
  let c := coreOf e
  let f := slot / 4
  let x := coreAt hw c
  match findAct x f t.tag (tget x.arrived 0 (keyPort (e % 32) slot port t.tag) - 1) with
  | none => hw
  | some a =>
    if 4096 ≤ x.log.length then setCore hw c { x with logLost := tput x.logLost false f true }
    else setCore hw c { x with log := x.log ++ [{ frame := f, seq := a.seq, tok := t, side := side }] }

/-- Bits [127:64] of a fault register (03 Table 3.4). -/
def faultHigh (r : FaultReg) : BitVec 64 :=
  BitVec.ofBool r.valid ++ BitVec.ofBool r.multi ++ r.op ++ BitVec.ofBool r.psn ++ r.kind ++ r.tag ++
    BitVec.ofNat 13 r.elem ++ r.port ++ r.slot ++ r.frame ++ r.code

end Sys2Proof.Machine
end

