-- ==== Sys2Proof/Machine/Access.lean ====
section
/-! DEFINITION. Memory: bytes and poison at a home (07 R196, R200, 15 R379), page-table walks, translation caches
and the directory (13 R333 to R340), and the forming and checking of an address (07 R198, R204). -/
namespace Sys2Proof.Machine

/-! ## Bytes and poison -/

/-- The byte at a local physical address; unlisted bytes are 0 (15 R402 zeroes every memory). -/
def memByte (m : Mem) (a : Nat) : Byte := tget m.bytes 0 a
/-- The number that `w` bytes from `a` hold, little-endian. -/
def memRead (m : Mem) (a w : Nat) : Nat := ofBytes ((List.range w).map fun i => memByte m (a + i))
/-- The bytes from `a`. -/
def memBytes (m : Mem) (a w : Nat) : List Byte := (List.range w).map fun i => memByte m (a + i)
/-- The one form that a memory has: bytes listed at rising addresses, none of them 0; poisoned lines and dead stacks
listed once, rising. -/
def Memory.wf (m : Mem) : Bool := tcanon 0 m.bytes && sorted m.poison && sorted m.dead
/-- The 64-byte line of an address. -/
def lineOf (a : Nat) : Nat := a / 64 * 64
/-- Whether the line of an address is poisoned (07 R200). -/
def linePsn (m : Mem) (a : Nat) : Bool := m.poison.contains (lineOf a) || (a < 2 ^ 39 && m.dead.contains (a / 2 ^ 36))
/-- The lines that `w` bytes from `a` touch. -/
def linesOf (a w : Nat) : List Nat :=
  if w = 0 then [] else (List.range ((a + w - 1) / 64 - a / 64 + 1)).map fun i => (a / 64 + i) * 64
/-- Whether any line of a range is poisoned. -/
def rangePsn (m : Mem) (a w : Nat) : Bool := (linesOf a w).any fun l => linePsn m l
/-- Writes one byte. -/
def putByte (m : Mem) (a : Nat) (b : Byte) : Mem := { m with bytes := tput m.bytes 0 a b }
/-- Writes bytes from `a` upward. -/
def putBytes (m : Mem) (a : Nat) : List Byte → Mem
  | [] => m
  | b :: r => putBytes (putByte m a b) (a + 1) r
/-- Poisons a line. -/
def poisonLine (m : Mem) (l : Nat) : Mem := { m with poison := sins m.poison l }
/-- Poisons every line of a range. -/
def poisonRange (m : Mem) (a w : Nat) : Mem := (linesOf a w).foldl poisonLine m
/-- Clears the poison of the lines that a range covers whole (07 R200). -/
def cleanRange (m : Mem) (a w : Nat) : Mem :=
  { m with poison := m.poison.filter fun l => !(decide (a ≤ l ∧ l + 64 ≤ a + w)) }
/-- A store at a home (07 R200): poisoned data poisons its line, other data leaves the line's poison. -/
def memStore (m : Mem) (a w v : Nat) (psn : Bool) : Mem :=
  let m := putBytes m a (bytesOf w v)
  if psn then poisonRange m a w else m
/-- Zeroes a range (15 R394, R395): bytes and poison. -/
def memZero (m : Mem) (a w : Nat) : Mem :=
  { m with
    bytes := tkeep (fun x => !(decide (a ≤ x ∧ x < a + w))) m.bytes
    poison := m.poison.filter fun l => !(decide (a ≤ l ∧ l < a + w)) }

/-! ## Addresses (15 R379, 07 R196, R203) -/

/-- Logical chip of a global physical address. -/
def paLC (a : Nat) : Nat := bits a 46 10
/-- Local address of a global physical address. -/
def paLocal (a : Nat) : Nat := bits a 0 46
/-- A local address in HBM. -/
def inHbm (l : Nat) : Bool := decide (l < 0x8000000000)
/-- A local address in register space. -/
def inRegs (l : Nat) : Bool := decide (0x3E0000000000 ≤ l ∧ l < 0x3E0004000000)
/-- A local address in the memory-tile aperture. -/
def inAperture (l : Nat) : Bool := decide (0x3F0000000000 ≤ l ∧ l < 0x400000000000)
/-- Base local address of a tile of a global core (07 R196). -/
def tileBase (core tile : Nat) : Nat := 0x3F0000000000 + core * 0x100000 + tile * 0x80000
/-- Core x 2 + tile of an aperture address. -/
def tileOf (l : Nat) : Nat := bits l 19 9
/-- The home cluster of a local address (07 R203): of a tile, its core's; of an HBM line, by the hash on its
stack's die. -/
def homeCluster (l : Nat) : Nat :=
  if inAperture l then tileOf l / 16
  else bits l 37 2 * 8 + (bits l 6 3 ^^^ bits l 15 3 ^^^ bits l 24 3)
/-- The local physical address as a global one of this package. -/
def ownPa (hw : Hw) (l : Nat) : Nat := ownLC hw * 2 ^ 46 + l

/-- Bytes of a page-size code (13 Table 13.1). -/
def pageBytes (size : Nat) : Nat :=
  match size with
  | 0 => 2 ^ 12 | 1 => 2 ^ 16 | 2 => 2 ^ 21 | _ => 2 ^ 30

/-! ## Page-table walks (13 R334 to R336, 15 R394) -/

/-- A level of the page tables: the VA bits that index it, the page size of a leaf there (none at L1), the
bytes of the table it points to. -/
structure PtLevel where
  lo   : Nat
  len  : Nat
  leaf : Option Nat
  next : Nat
  deriving DecidableEq, Repr

/-- L1 to L5 (13 R334). -/
def ptLevels : List PtLevel :=
  [{ lo := 39, len := 9, leaf := none, next := 4096 }, { lo := 30, len := 9, leaf := some 3, next := 4096 },
   { lo := 21, len := 9, leaf := some 2, next := 256 }, { lo := 16, len := 5, leaf := some 1, next := 128 },
   { lo := 12, len := 4, leaf := some 0, next := 0 }]

/-- ADDR of an entry as an address. -/
def pteAddr (p : Nat) : Nat := bits p 7 49 * 128

/-- Whether an entry is malformed at a level (13 R335). -/
def pteMalformed (hw : Hw) (lv : PtLevel) (p : Nat) : Bool :=
  let leaf := bit p 1
  bits p 56 8 != 0 || bit p 4 || (leaf && lv.leaf.isNone) || (!leaf && lv.next == 0) ||
    (leaf && bit p 3 && !bit p 2) ||
    (if leaf then pteAddr p % pageBytes (lv.leaf.getD 0) != 0
     else pteAddr p % (if lv.next = 0 then 1 else lv.next) != 0 ||
       paLC (pteAddr p) != ownLC hw || !inHbm (paLocal (pteAddr p)))

/-- The owner of a granule (15 Table 15.3). -/
def granuleOk (hw : Hw) (asid : BitVec 10) (g : Nat) : Bool :=
  let x := tget hw.pkg.granules (0, 0) g
  match x.1.toNat with
  | 1 => x.2 = asid
  | 2 => partOfAsid hw asid == some x.2.toNat
  | _ => false

/-- Whether every granule of an HBM page of this package may be used by an ASID (15 R394). -/
def pageOwned (hw : Hw) (asid : BitVec 10) (pa bytes : Nat) : Bool :=
  if paLC pa ≠ ownLC hw || !inHbm (paLocal pa) then true
  else
    let g := paLocal pa / 2 ^ 21
    (List.range ((paLocal pa + bytes - 1) / 2 ^ 21 - g + 1)).all fun i => granuleOk hw asid (g + i)

/-- Whether a local address lies in the granule that is being zeroed for a new owner: any access waits (15 R394). -/
def zeroing (hw : Hw) (l : Nat) : Bool := hw.pkg.assigning.any fun g => decide (l / 2 ^ 21 = g.1)

/-- Whether a walk from a table reads an entry in that granule. -/
def walkFromWaits (m : Mem) (hw : Hw) (va : Nat) : List PtLevel → Nat → Bool
  | [], _ => false
  | lv :: rest, t =>
    let a := paLocal t + 8 * bits va lv.lo lv.len
    let p := memRead m a 8
    zeroing hw a || (bit p 0 && !pteMalformed hw lv p && !bit p 1 && walkFromWaits m hw va rest (pteAddr p))

/-- Whether the walk of a VA for an ASID on a die must wait for a granule (15 R394). -/
def walkWaits (m : Mem) (hw : Hw) (die : Nat) (asid : BitVec 10) (va : Nat) : Bool :=
  hw.pkg.assigning.isSome && walkFromWaits m hw va ptLevels (bits (tget (dieAt hw die).xlAsid 0 asid.toNat).toNat 12 44 * 2 ^ 12)

/-- A walk from a table: the translation, the leaf's address and its value with A set, and D for a write,
whatever the page then permits (13 R335, R336). -/
def walkFrom (m : Mem) (hw : Hw) (asid : BitVec 10) (va : Nat) (write : Bool) :
    List PtLevel → Nat → Except XlFail (Xlat × Nat × Nat)
  | [], _ => .error { code := BitVec.ofNat 8 cPROT, reason := 9, psn := false }
  | lv :: rest, t =>
    let a := paLocal t + 8 * bits va lv.lo lv.len
    let p := memRead m a 8
    if linePsn m a then .error { code := BitVec.ofNat 8 cPAGE, reason := 0, psn := true }
    else if !bit p 0 then .error { code := BitVec.ofNat 8 cPAGE, reason := 0, psn := false }
    else if pteMalformed hw lv p then .error { code := BitVec.ofNat 8 cPROT, reason := 9, psn := false }
    else if bit p 1 then
      let sz := lv.leaf.getD 0
      let base := va / pageBytes sz * pageBytes sz
      if !pageOwned hw asid (pteAddr p) (pageBytes sz) then
        .error { code := BitVec.ofNat 8 cPROT, reason := 12, psn := false }
      else
        let p' := p ||| 0x20 ||| (if write then 0x40 else 0)
        .ok ({ asid := asid, va := base, size := sz, pa := pteAddr p, r := bit p 2, w := bit p 3, d := bit p' 6 }, a, p')
    else walkFrom m hw asid va write rest (pteAddr p)

/-- The walk of a VA for an ASID on a die (13 R335). A root outside HBM is malformed. -/
def walk (m : Mem) (hw : Hw) (die : Nat) (asid : BitVec 10) (va : Nat) (write : Bool) :
    Except XlFail (Xlat × Nat × Nat) :=
  let e := (tget (dieAt hw die).xlAsid 0 asid.toNat).toNat
  if !bit e 63 then .error { code := BitVec.ofNat 8 cPAGE, reason := 0, psn := false }
  else
    let root := bits e 12 44 * 2 ^ 12
    if paLC root ≠ ownLC hw || !inHbm (paLocal root) then .error { code := BitVec.ofNat 8 cPROT, reason := 9, psn := false }
    else walkFrom m hw asid va write ptLevels root

/-! ## Holders and the directory (13 R338, R339) -/

/-- The translations a holder of a die holds: cores 0 to 63, halyard engines 64 to 71. -/
def holderTlb (hw : Hw) (die holder : Nat) : List Xlat :=
  if holder < 64 then (coreAt hw (die * 64 + holder)).tlb
  else if holder < 72 then (clAt hw (die * 8 + (holder - 64))).halTlb
  else []

/-- Writes a holder's translations. -/
def setHolderTlb (hw : Hw) (die holder : Nat) (l : List Xlat) : Hw :=
  if holder < 64 then modCore hw (die * 64 + holder) fun c => { c with tlb := l }
  else if holder < 72 then modCl hw (die * 8 + (holder - 64)) fun c => { c with halTlb := l }
  else hw

/-- Whether a translation maps a VA of an ASID. -/
def xlCovers (x : Xlat) (asid : BitVec 10) (va : Nat) : Bool :=
  x.asid = asid && decide (x.va ≤ va ∧ va < x.va + pageBytes x.size)

/-- Whether a translation serves a use: one with D = 0 is walked again for a write (13 R336). -/
def xlServes (x : Xlat) (asid : BitVec 10) (va : Nat) (write : Bool) : Bool :=
  xlCovers x asid va && (!write || x.d)

/-- The same translation whatever its marks: ASID, VA page and size (13 R338). -/
def xlSame (x y : Xlat) : Bool := x.asid = y.asid && x.va = y.va && x.size = y.size

/-- Moves a translation to the most recent place. -/
def tlbTouch (l : List Xlat) (x : Xlat) : List Xlat := x :: eraseFirst (fun y => y = x) l

/-- Drops the least recent translation without a PX mark (13 R338, R340). -/
def tlbDrop (l : List Xlat) : List Xlat := (eraseFirst (fun y => !y.px) l.reverse).reverse

/-- Installs a translation at a holder, keeping the PX mark of the one it replaces (13 R338). -/
def tlbFill (l : List Xlat) (x : Xlat) : List Xlat :=
  let old := l.find? fun y => xlSame x y
  let l := l.filter fun y => !xlSame x y
  let l := if l.length < 128 then l else tlbDrop l
  match old with
  | some o => { x with px := o.px, pxFrame := o.pxFrame, pxTask := o.pxTask } :: l
  | none => x :: l

/-- Whether a VA lies in the region-window segment (07 Table 7.2). -/
def inWindow (va : Nat) : Bool := bits va 40 8 == 0x7F

/-- Marks the buffered stores of a core whose translation is removed, be it one that a PADDR stands for, whose PX mark may have
gone before it (13 R346); a window access keeps the tile it resolved to (07 R198). -/
def staleStores (c : Core) (x : Xlat) : Core :=
  let f := fun (b : Buffered) => if !inWindow b.va && xlCovers x b.site.asid b.va then { b with stale := true } else b
  { c with stores := c.stores.map f, releaseQ := c.releaseQ.map f }

/-- The bytes from the first to the last of `rows` rows of `len` bytes, `stride` apart, and of a table of `tail` bytes that
follows them at their stride (07 R220, 08 R243). -/
def rangeSpan (rows len stride tail : Nat) : Nat := if tail = 0 then (rows - 1) * stride + len else rows * stride + tail

/-- Whether a range of an ASID may have been translated by `x`. -/
def rangeUses (r : TileRange) (asid : BitVec 10) (x : Xlat) : Bool :=
  let n := rangeSpan r.rows r.len r.stride r.tail
  let meets := fun (lo from' : Nat) => decide (lo < from' + n ∧ from' < lo + pageBytes x.size)
  x.asid = asid && (if r.tok.kind = .paddr then x.px && meets (paLocal x.pa) r.base else meets x.va r.tok.value.toNat)

/-- Marks a range whose translation is removed, so that its next use translates it again (13 R337). -/
def staleRange (asid : BitVec 10) (x : Xlat) (r : TileRange) : TileRange :=
  if rangeUses r asid x then { r with stale := true } else r

/-- Marks the ranges of a core's sessions and queued matrix loads (13 R337). -/
def staleRanges (c : Core) (x : Xlat) : Core :=
  let unit := fun (u : SpreadUnit) => match u with
    | .wring s r w cols sx row col run made => .wring s (staleRange s.asid x r) w cols sx row col run made
    | .spread s r w cols row col dead marked => .spread s (staleRange s.asid x r) w cols row col dead marked
  let cmd := fun (m : MCmd) => match m.body with
    | .mldb r par psn => { m with body := .mldb (staleRange m.site.asid x r) par psn }
    | _ => m
  { c with spread := c.spread.map fun y => (y.1, unit y.2)
           rport := c.rport.map fun y => (y.1, { y.2 with range := staleRange y.2.site.asid x y.2.range })
           macros := c.macros.map fun y => (y.1, { y.2 with queue := y.2.queue.map cmd }) }

/-- An invalidation unit removes a translation at its holder (13 R345, R346): it goes with any PX mark, and
buffered stores translated by it are translated again at release, as are the ranges of sessions and matrix loads, and a range
not yet translated whole. -/
def holderDrop (hw : Hw) (die holder : Nat) (x : Xlat) : Hw :=
  let y := ((holderTlb hw die holder).find? fun y => xlSame x y).getD x
  let hw := setHolderTlb hw die holder ((holderTlb hw die holder).filter fun y => !xlSame x y)
  if holder < 64 then
    let hw := modCore hw (die * 64 + holder) fun c => staleRanges (staleStores c y) y
    { hw with scratch := hw.scratch.filter fun y => !(y.page && coreOf y.elem = die * 64 + holder) }
  else hw

/-- Whether an access that used a translation has left its holder and not performed (13 R345). -/
def xlOutstanding (hw : Hw) (die holder : Nat) (x : Xlat) : Bool :=
  let inPa := fun (p : Nat) => decide (x.pa ≤ p ∧ p < x.pa + pageBytes x.size)
  if holder < 64 then
    hw.acc.any fun a => a.core = die * 64 + holder && a.site.asid = x.asid && (if a.isPa then inPa a.pa else xlCovers x x.asid a.va)
  else if holder < 72 then
    (clAt hw (die * 8 + (holder - 64))).hal.any fun r => r.site.asid = x.asid && !(r.asked.isEmpty && r.pending.isEmpty)
  else false

/-- The translation that a full directory frees: the least recent whose holders can all acknowledge at once (13 R339, R345;
which of them goes is the model's choice, log 50). -/
def dirVictim (hw : Hw) (die : Nat) : Option DirEntry :=
  (dieAt hw die).dir.reverse.find? fun e => !e.holders.any fun h => xlOutstanding hw die h e.x

/-- Records a translation in the directory with a holder's bit (13 R339); a full directory first invalidates one at every
holder and drops it. None while no entry can be freed. -/
def dirFill (hw : Hw) (die holder : Nat) (x : Xlat) : Option Hw :=
  let x := { x with px := false, pxFrame := 0, pxTask := none }
  let d := dieAt hw die
  match d.dir.find? fun e => xlSame e.x x with
  | some e =>
    some (setDie hw die { d with dir := { x := x, holders := sins e.holders holder } :: d.dir.filter fun y => !xlSame y.x x })
  | none =>
    if d.dir.length < 8192 then some (setDie hw die { d with dir := { x := x, holders := [holder] } :: d.dir })
    else (dirVictim hw die).map fun o =>
      let hw := o.holders.foldl (fun hw h => holderDrop hw die h o.x) hw
      modDie hw die fun d => { d with dir := { x := x, holders := [holder] } :: eraseFirst (fun y => y = o) d.dir }

/-- Returns a translation to a holder, whose bit is set first (13 R339); none while the directory has no room. -/
def returnXlat (hw : Hw) (die holder : Nat) (x : Xlat) : Option Hw :=
  (dirFill hw die holder x).map fun hw => setHolderTlb hw die holder (tlbFill (holderTlb hw die holder) x)

/-- Who asks for a translation: the firing at the focus, and which of its core's units (13 R337). -/
def askerOf (hw : Hw) (unit : Nat) : Option XlAsker :=
  match hw.focus with
  | some fo => some { elem := fo.elem, slot := fo.slot, tag := fo.tag, unit := unit }
  | none => if unit = 0 then none else some { elem := 0, slot := 0, tag := 0, unit := unit }

/-- A use of translation by a holder (13 R338): its hit moved to the most recent place, a failure that has come back to the
one that asked (13 R337: no failure is held), or a wait for the directory with the miss posted. -/
def translate (hw : Hw) (die holder : Nat) (asid : BitVec 10) (va : Nat) (write : Bool) (unit : Nat := 0) :
    Except Stop (Hw × Except XlFail Xlat) :=
  let l := holderTlb hw die holder
  let who := askerOf hw unit
  match l.find? fun x => xlServes x asid va write with
  | some x => .ok (setHolderTlb hw die holder (tlbTouch l x), .ok x)
  | none =>
    let d := dieAt hw die
    let page := va / 4096
    match d.fails.find? fun r => r.holder = holder && r.asid = asid && r.va = page && r.write = write && r.who = who with
    | some r => .ok (setDie hw die { d with fails := eraseFirst (fun y => y = r) d.fails }, .error r.fail)
    | none =>
      if d.reqs.any fun r => r.holder = holder && r.asid = asid && r.va = page && r.write = write && r.who = who then
        .error (.wait hw)
      else .error (.wait (setDie hw die { d with reqs := d.reqs ++
        [{ holder := holder, asid := asid, va := page, write := write, walking := false, who := who }] }))

/-- Forgets failures not met yet, so that a resumed unit asks again (13 Table 13.9). -/
def forgetFails (hw : Hw) (die holder : Nat) : Hw :=
  modDie hw die fun d => { d with fails := d.fails.filter fun r => r.holder != holder }


/-- Forgets the failures that have come back to the one that asks now, once met by something that goes on. -/
def spendFail (hw : Hw) (die holder : Nat) : Hw :=
  modDie hw die fun d => { d with fails := d.fails.filter fun r => !(r.holder = holder && r.who = askerOf hw 0) }

/-! ## Forming an address (07 R198, R204, R205) -/

/-- An address that has been formed: global physical address, the address a fault names, whether the base was a
PADDR, and the VA that its translation maps there. -/
structure Loc where
  pa   : Nat
  addr : Nat
  isPa : Bool
  va   : Nat := addr
  deriving DecidableEq, Repr

/-- DETAIL of a memory fault (07 Table 7.4, 13 R335): address, access code, PADDR base, reason, poisoned table. -/
def memDetail (addr acc : Nat) (isPa : Bool) (reason : Nat) (tbl : Bool := false) : Nat :=
  addr % 2 ^ 48 + acc * 2 ^ 48 + b2n isPa * 2 ^ 51 + reason * 2 ^ 52 + b2n tbl * 2 ^ 56

/-- A PROTECTION fault of an access. -/
def protFault (addr acc : Nat) (isPa : Bool) (reason : Nat) : Stop :=
  .fault cPROT (memDetail addr acc isPa reason)

/-- A region window resolved for a frame (07 R198): the tile's local address, or the fault. -/
def windowResolve (hw : Hw) (core frame va acc : Nat) : Except Stop Nat :=
  if bits va 26 14 ≠ 0 then .error (.fault cHANDLE (memDetail va acc false 0))
  else match regionOf hw core frame with
  | none => .error (protFault va acc false 4)
  | some (_, _, r) =>
    if (r.hm1.toNat + 1) * (r.wm1.toNat + 1) ≤ bits va 20 6 then
      .error (.fault cHANDLE (memDetail va acc false 0))
    else
      let n := bits va 20 6
      let row := r.row0.toNat + n / (r.wm1.toNat + 1)
      let col := r.col0.toNat + n % (r.wm1.toNat + 1)
      .ok (tileBase (dieOf core * 64 + row * 8 + col) (bits va 19 1) + bits va 0 19)

/-- The checks of a physical address for an accessor's die and ASID (07 R196, R197, 15 R379, R394, 16 R407, R412). -/
def physCheck (hw : Hw) (d : Nat) (asid : BitVec 10) (acc : Nat) (a : Loc) : Except Stop Unit :=
  let l := paLocal a.pa
  if paLC a.pa ≠ ownLC hw then
    if inAperture l || inRegs l then .error (protFault a.addr acc a.isPa 13)
    else if !inHbm l then .error (protFault a.addr acc a.isPa 7)
    else fabCheck hw d (paLC a.pa) 0
      (a.addr % 2 ^ 48 + acc * 2 ^ 48 + b2n a.isPa * 2 ^ 51 + paLC a.pa * 2 ^ 52)
  else if inHbm l && hw.pkg.offline.contains (l / 2 ^ 36) then .error (protFault a.addr acc a.isPa 7)
  else if inHbm l then if zeroing hw l then .error (.wait hw) else .ok ()
  else if inRegs l then .ok ()
  else if !inAperture l || bits l 28 12 ≠ 0 then .error (protFault a.addr acc a.isPa 7)
  else if tget hw.pkg.tileOwner 0 (tileOf l) ≠ asid then .error (protFault a.addr acc a.isPa 3)
  else .ok ()

/-- A failed translation as the fault of an access (13 R335). -/
def xlFault (e : XlFail) (va acc : Nat) : Stop :=
  .fault e.code.toNat (memDetail va acc false e.reason.toNat e.psn)

/-- The permissions an access needs (13 R335). -/
def permCheck (x : Xlat) (needR needW : Bool) (addr acc : Nat) (isPa : Bool) : Except Stop Unit :=
  if needR && !x.r then .error (protFault addr acc isPa 1)
  else if needW && !x.w then .error (protFault addr acc isPa 2)
  else .ok ()

/-- A VA translated and checked for a frame of a core (07 R198, R204). -/
def vaLoc (hw : Hw) (core frame : Nat) (asid : BitVec 10) (va acc : Nat) (needR needW : Bool) (unit : Nat := 0) :
    Except Stop (Hw × Loc) :=
  if inWindow va then do
    let l ← windowResolve hw core frame va acc
    let a : Loc := { pa := ownPa hw l, addr := va, isPa := false }
    physCheck hw (dieOf core) asid acc a
    .ok (hw, a)
  else do
    let (hw, r) ← translate hw (dieOf core) (core % 64) asid va needW unit
    match r with
    | .error e => .error (xlFault e va acc)
    | .ok x => do
      permCheck x needR needW va acc false
      let a : Loc := { pa := x.pa + (va - x.va), addr := va, isPa := false }
      physCheck hw (dieOf core) asid acc a
      .ok (hw, a)

/-- The cache entry through which a PADDR of a physical address is used (13 R340). -/
def pxEntry (c : Core) (asid : BitVec 10) (pa : Nat) : Option Xlat :=
  c.tlb.find? fun x => x.px && x.asid = asid && decide (x.pa ≤ pa ∧ pa < x.pa + pageBytes x.size)

/-- The entry through which an access at a PADDR of a core passes, with the permissions it needs (13 R340); one with D = 0
that is used for a write is walked again first (13 R336). -/
def pxLoc (hw : Hw) (core : Nat) (asid : BitVec 10) (a acc : Nat) (needR needW : Bool) (unit : Nat := 0) :
    Except Stop (Hw × Loc) :=
  match pxEntry (coreAt hw core) asid a with
  | none => .error (protFault a acc true 10)
  | some x => do
    permCheck x needR needW a acc true
    let va := x.va + (a - x.pa)
    let l : Loc := { pa := a, addr := a, isPa := true, va := va }
    if x.d || !needW then do
      physCheck hw (dieOf core) asid acc l
      .ok (hw, l)
    else do
      let (hw, r) ← translate hw (dieOf core) (core % 64) asid va true unit
      match r with
      | .error e => .error (.fault e.code.toNat (memDetail a acc true e.reason.toNat e.psn))
      | .ok y =>
        if y.pa + (va - y.va) ≠ a then .error (protFault a acc true 10)
        else do
          permCheck y needR needW a acc true
          physCheck hw (dieOf core) asid acc l
          .ok (hw, l)

/-- A base token and a signed offset formed into an address (07 R204): range, alignment, translation,
permissions, and the checks of the physical address. -/
def formAddr (hw : Hw) (core frame : Nat) (asid : BitVec 10) (base : Token) (off : Int) (width acc : Nat)
    (needR needW : Bool) (unit : Nat := 0) : Except Stop (Hw × Loc) :=
  if base.kind = .paddr then
    let b : Nat := base.value.toNat % 2 ^ 56
    let page : Nat := pageBytes (base.aux.toNat % 4)
    let top : Nat := b / page
    let n : Int := (b : Int) + off
    let a := ofSigned 56 n
    if n < 0 ∨ n / (page : Int) ≠ (top : Int) then .error (protFault a acc true 6)
    else if needW && !base.aux.getLsbD 2 then .error (protFault a acc true 2)
    else if a % width ≠ 0 then .error (.fault cMISALIGNED (memDetail a acc true 0))
    else pxLoc hw core asid a acc needR needW unit
  else
    let n := (base.value.toNat : Int) + off
    let va := ofSigned 48 n
    if 2 ^ 48 ≤ base.value.toNat || n < 0 || 2 ^ 48 ≤ n then .error (protFault va acc false 5)
    else if va % width ≠ 0 then .error (.fault cMISALIGNED (memDetail va acc false 0))
    else vaLoc hw core frame asid va acc needR needW unit

/-- Whether an address is of another logical chip. -/
def isRemote (hw : Hw) (a : Loc) : Bool := paLC a.pa != ownLC hw

end Sys2Proof.Machine
end

