-- ==== Sys2Proof/Machine/Flags.lean ====
section
/-! DEFINITION. The flag computations that every firing shares: what a predicate token decides (03 R84, R96), and
the poison that operands give a result (03 R95, R97, 04 R106). -/
namespace Sys2Proof.Machine

/-- What a predicate decides. -/
inductive Pred where
  | fires | notFire | poisoned
  deriving DecidableEq, Repr

/-- The decision of a predicate token under PR (02 R48, 03 R84): true when bit 0 of its VALUE is 1. -/
def predOf (pr : BitVec 2) (p : Token) : Pred :=
  if pr = 0#2 then .fires
  else match p.kind with
    | .null => .notFire
    | _ =>
      if p.psn then .poisoned
      else if p.value.getLsbD 0 = (pr == 1#2) then .fires else .notFire

/-- The OR of the poison of some operands: DATA and PADDR only (03 R97, 04 R106). -/
def psnOr (ts : List Token) : Bool := ts.any tokPsn

/-- The AUX of the lowest-numbered operand that is a NULL (03 R90). -/
def nullAux (ts : List Token) : Option (BitVec 7) :=
  (ts.find? fun t => t.kind == .null).map (·.aux)

/-- Whether some operand is an END. -/
def anyEnd (ts : List Token) : Bool := ts.any fun t => t.kind == .endm

/-- Whether every operand is an END of one rank and count (03 R94). -/
def endsAgree (ts : List Token) : Bool :=
  match ts with
  | [] => false
  | t :: r => t.kind == .endm && r.all fun u => u.kind == .endm && u.rank == t.rank && u.aux == t.aux

end Sys2Proof.Machine
end

