-- ==== Sys2Proof/Machine/Operands.lean ====
section
/-! DEFINITION. Operand forms and the firing of an instruction word: what each entry accepts in its fields and
ports (02 R46 to R56, 03 R79), the operand set (03 R75), and the order in which a firing deals with END markers,
its predicate, NULLs and its own effect (03 R84, R90, R94, R96, 07 R425). -/
namespace Sys2Proof.Machine

/-- What an instruction entry accepts (00 R11). `arity` is its count of data operands; `fieldFault` gives the
DETAIL of a further ILLEGAL_FIELD that stands in the word itself; `fnBad` and `omBad` name values of FN and OM that other fields
of the word rule out (causes 0 and 3); `zxK` zero-extends K (02 R56); `pPort` makes p
a token port whatever PR says (04 R110); `stream` makes port c an internal stream port, which is no part of the
operand set (07 R222, R223); `hdrFault` is a `fieldFault` that reads the block header (04 R128). -/
structure OpSpec where
  op    : BitVec 9
  arity : Nat
  oms   : List Nat := [0]
  fnOk  : Nat → Bool := fun n => n == 0
  prOk  : Nat → Bool := fun n => decide (n < 3)
  anyLs : Bool := false
  xfOk  : Nat → Bool := fun n => n == 0
  fieldFault : Fields → Option Nat := fun _ => none
  fnBad : Fields → Bool := fun _ => false
  omBad : Fields → Bool := fun _ => false
  kinds : Nat → List Kind := fun _ => [.data, .null, .endm, .paddr]
  zxK   : Bool := false
  pPort : Bool := false
  stream : Bool := false
  hdrFault : Fields → BitVec 128 → Option Nat := fun _ _ => none

/-- Whether OM leaves a data port to a token (02 Table 2.7). -/
def omToken (om port : Nat) : Bool :=
  match om with
  | 0 => true
  | 1 => port != 0
  | 2 => port != 1
  | 3 => port != 2
  | 4 => port == 0
  | _ => false

/-- The data token ports of a word (03 R75). -/
def dataPorts (sp : OpSpec) (w : Fields) : List Nat :=
  (List.range sp.arity).filter fun p => omToken w.om.toNat p

/-- Whether port p is a token port (02 R51). -/
def usesP (sp : OpSpec) (w : Fields) : Bool := sp.pPort || w.pr != 0#2

/-- Every token port of a word (03 R75). -/
def tokenPorts (sp : OpSpec) (w : Fields) : List Nat :=
  dataPorts sp w ++ (if usesP sp w then [3] else [])

/-- DETAIL of the fault that a word's own fields raise, if they do (02 R47 to R50, R54, Table 3.5); the first that
applies, in the order of the causes. -/
def fieldFault (sp : OpSpec) (w : Fields) : Option Nat :=
  if !sp.fnOk w.fn.toNat || sp.fnBad w then some 0
  else if !sp.prOk w.pr.toNat then some 1
  else if !sp.anyLs && w.ls != 0#5 then some 2
  else if !sp.oms.contains w.om.toNat || sp.omBad w then some 3
  else if !sp.xfOk w.xf.toNat then some 4
  else sp.fieldFault w

/-- `fieldFault`, then `hdrFault`. -/
def wordFault (sp : OpSpec) (w : Fields) (h : BitVec 128) : Option Nat :=
  match fieldFault sp w with
  | some d => some d
  | none => sp.hdrFault w h

/-- DETAIL of the fault that a token raises by its kind, rank or port at a slot, if it does (02 R39, R40, R51,
03 R79, Table 3.5). DESIGN CHOICE (log 66): of an END of RANK 0 at a port that takes no END, cause 8 is reported, not cause 5;
and under cause 5 both further fields are given for a token of kind FAULT alone. -/
def offerFault (sp : OpSpec) (w : Fields) (t : Token) : Option Nat :=
  let p := contPort t.cont
  if t.kind == .endm && t.rank == 0#2 then some 8
  else if (tokenPorts sp w).contains p &&
      (if p = 3 then [Kind.data, .null] else sp.kinds p).contains t.kind then none
  else if sp.stream && p == 2 && [Kind.data, .null, .endm].contains t.kind then none
  else some (5 + (if t.kind == .fault then t.aux.toNat * 2 ^ 8 + t.value.toNat % 2 ^ 48 * 2 ^ 16 else 0))

/-- K extended (02 R56): of one constant, or of a half under OM 4. -/
def kOf (sp : OpSpec) (w : Fields) (port : Nat) : Word :=
  if w.om.toNat = 4 then
    let h : BitVec 24 := if port = 1 then w.k.extractLsb' 0 24 else w.k.extractLsb' 24 24
    if sp.zxK then h.setWidth 64 else h.signExtend 64
  else if sp.zxK then w.k.setWidth 64 else w.k.signExtend 64

/-- A DATA token holding a constant (04 R106). -/
def kTok (v : Word) : Token := mkTok 0 0 .data v

/-- A firing: its site, its word, the tokens of ports a, b, c and p (a port that K fills holds its DATA), the
operands it consumes, and whether it comes from the LSID queue. -/
structure Fire where
  site   : Site
  w      : Fields
  a      : Token
  b      : Token
  c      : Token
  p      : Token
  data   : List Token
  used   : List Operand
  queued : Bool

/-- Core of a firing. -/
def Fire.core (f : Fire) : Nat := coreOf f.site.elem
/-- Tag of a firing. -/
def Fire.tag (f : Fire) : BitVec 20 := f.site.tag
/-- Frame of a firing. -/
def Fire.frame (f : Fire) : Nat := f.site.frame
/-- ASID of a firing's frame. -/
def Fire.asid (f : Fire) : BitVec 10 := f.site.asid

/-- The head of a slot's queue at a port under a tag (03 R75); none while it lies in the overflow store (03 R82). -/
def headAt (x : Elem) (slot : Nat) (tag : BitVec 20) (port : Nat) : Option Operand :=
  match x.ops.find? fun o => o.slot = slot && o.tok.tag = tag && contPort o.tok.cont = port with
  | some o => if o.place = .spilled then none else some o
  | none => none

/-- The heads of several ports, if every one has one. -/
def headsAt (x : Elem) (slot : Nat) (tag : BitVec 20) : List Nat → Option (List Operand)
  | [] => some []
  | p :: r => match headAt x slot tag p, headsAt x slot tag r with
    | some o, some l => some (o :: l)
    | _, _ => none

/-- The token that stands at a port among consumed operands, or the constant that K puts there. -/
def portTok (sp : OpSpec) (w : Fields) (l : List Operand) (p : Nat) : Token :=
  match l.find? fun o => contPort o.tok.cont = p with
  | some o => o.tok
  | none => kTok (if p < sp.arity && !omToken w.om.toNat p then kOf sp w p else 0)

/-- The firing of consumed operands at a site. -/
def fireOf (sp : OpSpec) (w : Fields) (site : Site) (l : List Operand) (queued : Bool) : Fire :=
  { site := site, w := w, a := portTok sp w l 0, b := portTok sp w l 1, c := portTok sp w l 2
    p := portTok sp w l 3, data := (dataPorts sp w).map (portTok sp w l), used := l, queued := queued }

/-- The site of a firing of a slot under a tag, as the `occ`-th (06 R165), issued now (03 R77). -/
def siteOf (hw : Hw) (sp : OpSpec) (w : Fields) (e slot : Nat) (tag : BitVec 20) (occ : Nat) : Site :=
  let c := coreAt hw (coreOf e)
  { elem := e, frame := slot / 4, slot := slot, tag := tag, occ := occ
    seq := (findAct c (slot / 4) tag occ).map (·.seq)
    asid := (frameAt c (slot / 4)).asid, op := sp.op, t0 := w.t0, t1 := w.t1, iss := hw.ids }

/-- Whether two sites are of one firing: a firing that waits is tried again under a later issue number, and its activation may
commit meanwhile (03 R107). -/
def sameFiring (x y : Site) : Bool := x.elem = y.elem && x.slot = y.slot && x.tag = y.tag && x.occ = y.occ

/-- How many times a slot has fired under a tag since its frame's header took effect (06 R165). -/
def firedCount (hw : Hw) (e slot : Nat) (tag : BitVec 20) : Nat :=
  tget (coreAt hw (coreOf e)).firedN 0 (keySlot (e % 32) slot tag)

/-- The ports whose heads make up an operand set; `READ Hj` has its opening's trigger at port a (06 R187). -/
def setPorts (sp : OpSpec) (w : Fields) : List Nat :=
  if sp.op = opREAD && w.om = 1#3 then [0] else tokenPorts sp w

/-- The site of an entry of the LSID queue. -/
def queuedSite (hw : Hw) (x : LsEntry) : Site :=
  let c := coreAt hw (coreOf x.elem)
  let w := wordFields x.word
  { elem := x.elem, frame := x.frame, slot := x.slot, tag := x.tag, occ := x.occ
    seq := (findAct c x.frame x.tag x.occ).map (·.seq), asid := (frameAt c x.frame).asid
    op := wordOp x.word, t0 := w.t0, t1 := w.t1, iss := x.iss }

/-- The first entry of the LSID queue that a queued focus names and whose turn has come (06 R182). -/
def queuedEntry (hw : Hw) (fo : Focus) : Option LsEntry :=
  (coreAt hw (coreOf fo.elem)).lsq.find? fun x =>
    x.elem = fo.elem && x.slot = fo.slot && x.tag = fo.tag && lsTurn hw (queuedSite hw x) x.lsid.toNat

/-- The word that a focus runs: its slot's, or the word with which a firing of the LSID queue began (02 R44). -/
def focusWord (hw : Hw) (fo : Focus) : BitVec 128 :=
  match fo.queued, queuedEntry hw fo with
  | true, some x => x.word
  | _, _ => tget (elemAt hw fo.elem).words 0 fo.slot

/-- The firing at the focus, if its operand set is complete and its element is not frozen. DESIGN CHOICE (log 89): a memory
firing of a frozen element that stands in the LSID queue counts as not issued, and waits for the resume. -/
def focusFire (sp : OpSpec) (w : Fields) (hw : Hw) : Option Fire :=
  match hw.focus with
  | none => none
  | some fo =>
    if frozen hw fo.elem then none
    else if fo.queued then
      (queuedEntry hw fo).map fun x => fireOf sp w { siteOf hw sp w fo.elem fo.slot fo.tag x.occ with iss := x.iss } x.toks true
    else match headsAt (elemAt hw fo.elem) fo.slot fo.tag (setPorts sp w) with
      | none => none
      | some l =>
        some (fireOf sp w (siteOf hw sp w fo.elem fo.slot fo.tag (firedCount hw fo.elem fo.slot fo.tag)) l false)

/-- The operands of an element after a firing has taken its set: the next waiting operand under the same slot and tag, at a
port of the set, is stamped anew, since a further set was not ready before (03 R77). -/
def afterTake (n : Nat) (f : Fire) (ops : List Operand) : List Operand :=
  mapFirst (fun o => o.slot = f.site.slot && o.tok.tag = f.tag && f.used.any fun u => contPort u.tok.cont = contPort o.tok.cont)
    (fun o => { o with stamp := n }) (ops.filter fun o => !f.used.any fun u => u.stamp = o.stamp)

/-- Consumes a firing's operand set (03 R75): the operands leave their queues and the firing is counted; a firing
from the LSID queue leaves that queue. -/
def consume (f : Fire) (hw : Hw) : Hw :=
  let s := f.site
  if f.queued then
    modCore hw f.core fun x => { x with lsq := eraseFirst (fun y =>
      y.elem = s.elem && y.slot = s.slot && y.tag = s.tag && y.occ = s.occ) x.lsq }
  else
    let x := elemAt hw s.elem
    let hw := setElem { hw with ids := hw.ids + 1 } s.elem { x with ops := afterTake hw.ids f x.ops, fired := true }
    modCore hw f.core fun x =>
      let k := keySlot (s.elem % 32) s.slot s.tag
      { x with firedN := tput x.firedN 0 k (tget x.firedN 0 k + 1), moved := tput x.moved 0 s.frame hw.now }

/-- How NULLIFY names a firing at its element. -/
def dropName (f : Fire) : Nat × BitVec 20 × Option Nat := (f.site.slot, f.tag, if f.queued then some f.site.occ else none)

/-- Whether NULLIFY has ordered a firing's operand set to be consumed as if it did not fire (13 Table 13.9). -/
def dropped (hw : Hw) (f : Fire) : Bool := (elemAt hw f.site.elem).drop == some (dropName f)

/-- Ends such an order, once its operand set has been dealt with. -/
def undrop (f : Fire) (hw : Hw) : Hw :=
  if dropped hw f then setElem hw f.site.elem { elemAt hw f.site.elem with drop := none } else hw

/-- The end of a firing: its effect with its operands consumed, a wait with them kept (03 R107), or its element
frozen with them kept (03 R98); a fault with CODE NONE is a breakpoint (13 R358). -/
def finish (f : Fire) (s : State) (r : Except Stop Hw) : Res State :=
  match r with
  | .ok hw => .next { s with hw := { consume f (undrop f hw) with focus := none, waited := false } }
  | .error (.wait hw) => .next { s with hw := { hw with focus := none, waited := true } }
  | .error (.fault c d) =>
    let why : FaultFrom := if f.queued then .queued f.site.slot f.tag f.site.occ
      else if c = 0 then .brk f.site.slot f.tag else .firing f.site.slot f.tag
    .next { s with hw := { freeze (undrop f s.hw) f.site.elem f.site.slot f.tag f.site.op why c d with focus := none, waited := false } }

/-! ## Emission by a firing -/

/-- A token of a firing under its tag. -/
def tokOf (f : Fire) (kind : Kind) (v : Word := 0) (psn : Bool := false) (aux : BitVec 7 := 0) (rank : BitVec 2 := 0) : Token :=
  mkTok 0 f.tag kind v aux psn rank

/-- Sends tokens to both targets. -/
def emitAll (f : Fire) (hw : Hw) (ts : List Token) : Except Stop Hw := emitBoth hw f.site ts
/-- Sends tokens to T0. -/
def emit0 (f : Fire) (hw : Hw) (ts : List Token) : Except Stop Hw := emitList hw f.site (siteSrc f.site) f.w.t0 ts
/-- Sends tokens to T1. -/
def emit1 (f : Fire) (hw : Hw) (ts : List Token) : Except Stop Hw := emitList hw f.site (siteSrc f.site) f.w.t1 ts

/-- The poison of a firing's operands (04 R106). -/
def Fire.psn (f : Fire) : Bool := psnOr f.data

/-- out(DATA, v) (04 R106). -/
def out (f : Fire) (hw : Hw) (v : Word) : Except Stop Hw := emitAll f hw [tokOf f .data v f.psn]

/-- fwd(X, g) (04 R106): a token unchanged, under a tag. -/
def fwd (f : Fire) (hw : Hw) (t : Token) (tag : BitVec 20) : Except Stop Hw := emitAll f hw [{ t with tag := tag }]

/-- ORDER to both targets. -/
def outOrder (f : Fire) (hw : Hw) : Except Stop Hw := emitAll f hw [tokOf f .order]

/-- One NULL with AUX 0 to each target: a predicated instruction that does not fire (03 R84). -/
def passNotFire (f : Fire) (_ : Mem) (hw : Hw) : Except Stop Hw := emitAll f hw [tokOf f .null]

/-- DATA 0 with poison to each target: a poisoned firing (03 R96). -/
def passPoison (f : Fire) (_ : Mem) (hw : Hw) : Except Stop Hw := emitAll f hw [tokOf f .data 0 true]

/-- The NULL of R90 to each target: AUX of the lowest-numbered data port that holds one. -/
def passNull (f : Fire) (_ : Mem) (hw : Hw) : Except Stop Hw :=
  emitAll f hw [tokOf f .null 0 false ((nullAux f.data).getD 0)]

/-- The one END of R94 to each target. -/
def passEnd (f : Fire) (_ : Mem) (hw : Hw) : Except Stop Hw :=
  match f.data with
  | t :: _ => emitAll f hw [tokOf f .endm 0 false t.aux t.rank]
  | [] => .ok hw

/-! ## The meaning of an entry, and firing it -/

/-- How an entry uses its LSID (07 R204): not at all, as a load, as a store source (02 R68). -/
inductive LsUse where
  | none | load | store
  deriving DecidableEq, Repr

/-- How an entry meets END: by R94; forwarded from port a whatever the others hold (07 R425); by its own words, the
predicate deciding nothing (03 R84); or by its own words where the predicate lets it fire (CHSEND and CREDIT, as 09 and
12 run them; log 20). -/
inductive EndMode where
  | std | fwdA | own | pred
  deriving DecidableEq, Repr

/-- The effect of an entry, and where it departs from the common rules. -/
structure Meaning where
  body    : Fire → Mem → Hw → Except Stop Hw
  ls      : LsUse := .none
  endMode : EndMode := .std
  pre     : Fire → Hw → Except Stop Unit := fun _ _ => .ok ()
  onNull  : Fire → Mem → Hw → Except Stop Hw := passNull
  ownNull : Bool := false
  notFire : Fire → Mem → Hw → Except Stop Hw := passNotFire
  poison  : Fire → Mem → Hw → Except Stop Hw := passPoison

/-- Counts a null-load or null-store for an entry that names an LSID (06 R182, 07 R204). -/
def nullLs (u : LsUse) (f : Fire) (hw : Hw) : Except Stop Hw :=
  match u with
  | .none => .ok hw
  | .load => .ok (countIssued hw f.site f.w.ls.toNat)
  | .store => do
    let hw ← countStore hw f.site f.w.ls.toNat
    .ok (countIssued hw f.site f.w.ls.toNat)

/-- Whether the LSID queue of a frame has room for an activation (06 R182): 128 entries, 32 of them kept for the
frame's oldest uncommitted activation. -/
def lsqRoom (hw : Hw) (s : Site) : Bool :=
  let c := coreAt hw (coreOf s.elem)
  let n := (c.lsq.filter fun x => x.frame = s.frame).length
  let oldest := match actsOf c s.frame with
    | a :: _ => s.seq == some a.seq
    | [] => true
  decide (n < 96) || (oldest && decide (n < 128))

/-- Moves a firing whose LSID's turn has not come into the LSID queue (06 R182). -/
def enqueueLs (f : Fire) (hw : Hw) : Except Stop Hw :=
  if lsqRoom hw f.site then
    .ok (modCore hw f.core fun x => { x with lsq := x.lsq ++
      [{ frame := f.frame, slot := f.site.slot, elem := f.site.elem, tag := f.tag, occ := f.site.occ
         lsid := f.w.ls, toks := f.used, word := tget (elemAt hw f.site.elem).words 0 f.site.slot, iss := f.site.iss }] })
  else .error (.wait hw)

/-- The effect of a firing: END markers first (03 R84), then the predicate, then NULLs, then the entry's own
effect, in chain mode in its LSID's turn (06 R182). -/
def effect (sp : OpSpec) (mn : Meaning) (f : Fire) (m : Mem) (hw : Hw) : Except Stop Hw := do
  if dropped hw f then return ← mn.notFire f m hw
  match wordFault sp f.w (frameAt (coreAt hw f.core) f.frame).header with
  | some d => .error (.fault cILLFIELD d)
  | none => .ok ()
  mn.pre f hw
  if f.queued then mn.body f m hw
  else if mn.endMode = .std && anyEnd f.data then
    if endsAgree f.data then do
      let hw ← nullLs mn.ls f hw
      passEnd f m hw
    else .error (illegal 6)
  else if mn.endMode = .fwdA && f.a.kind = .endm then do
    let hw ← nullLs mn.ls f hw
    fwd f hw f.a f.tag
  else if mn.endMode = .own && anyEnd f.data then mn.body f m hw
  else match (if sp.pPort then Pred.fires else predOf f.w.pr f.p) with
    | .notFire => mn.notFire f m hw
    | .poisoned => mn.poison f m hw
    | .fires =>
      if !mn.ownNull && (nullAux f.data).isSome then do
        let hw ← nullLs mn.ls f hw
        mn.onNull f m hw
      else if mn.ls ≠ .none && !lsTurn hw f.site f.w.ls.toNat then enqueueLs f hw
      else mn.body f m hw

/-- The firing of an instruction word at the focus. -/
def fire (sp : OpSpec) (mn : Meaning) (w : Fields) (s : State) : Res State :=
  match focusFire sp w s.hw with
  | none => .fault .notEnabled
  | some f => finish f s (effect sp mn f s.mem s.hw)

end Sys2Proof.Machine
end

