-- ==== Sys2Proof/Machine/Integer.lean ====
section
/-! DEFINITION. Class 2: integer arithmetic, logic, shifts and fields (04 R130 to R133, R135). A result is computed
on the low w bits of the operands as numbers, wrapped to w bits, and extended. -/
namespace Sys2Proof.Machine

/-- Width of a firing of class 2 or 3: FN[0] (02 Table 2.6). -/
def wOf (f : Fire) : Nat := if f.w.fn.getLsbD 0 then 64 else 32
/-- The low w bits of an operand, unsigned. -/
def uw (w : Nat) (t : Token) : Nat := t.value.toNat % 2 ^ w
/-- The low w bits of an operand, signed. -/
def sw (w : Nat) (t : Token) : Int := toSigned w t.value.toNat
/-- A result wrapped to w bits and sign-extended (04 R135). -/
def resS (w : Nat) (r : Int) : Word := BitVec.ofInt 64 (toSigned w (ofSigned w r))
/-- A result wrapped to w bits and zero-extended (04 R135). -/
def resZ (w : Nat) (r : Int) : Word := BitVec.ofNat 64 (ofSigned w r)
/-- Clamped to the signed range of w bits. -/
def satS (w : Nat) (r : Int) : Int := clampI (-(2 ^ (w - 1) : Int)) (2 ^ (w - 1) - 1) r

/-- What class 2 and 3 entries accept (04 R104, R130): FN .W or .D, XF 0. -/
def intSpec (op : BitVec 9) (arity : Nat) (oms : List Nat) (bad : Fields → Option Nat := fun _ => none) : OpSpec :=
  { op := op, arity := arity, oms := oms, fnOk := fun n => decide (n < 2), fieldFault := bad }

/-- An entry whose one result is a value of the operands. -/
def alu (g : Fire → Word) : Meaning := { body := fun f _ hw => out f hw (g f) }
/-- An entry whose operands may be out of range. -/
def aluChk (g : Fire → Except Stop Word) : Meaning :=
  { body := fun f _ hw => do
      let v ← g f
      out f hw v }

/-- DETAIL of cause 10 for a constant at a port (04 R105). -/
def kBad (port : Nat) (v : Word) : Nat := 10 + port * 2 ^ 5 + v.toNat % 2 ^ 48 * 2 ^ 16

/-- A binary instruction on signed operands of width w. -/
def binS (g : Nat → Int → Int → Word) : Meaning := alu fun f => g (wOf f) (sw (wOf f) f.a) (sw (wOf f) f.b)
/-- A binary instruction on unsigned operands of width w. -/
def binU (g : Nat → Nat → Nat → Word) : Meaning := alu fun f => g (wOf f) (uw (wOf f) f.a) (uw (wOf f) f.b)
/-- A unary instruction on an unsigned operand of width w. -/
def unU (g : Nat → Nat → Word) : Meaning := alu fun f => g (wOf f) (uw (wOf f) f.a)

/-- ADD. -/
def specAdd : OpSpec := intSpec 0x080#9 2 [0, 1, 2]
/-- ADD: x + y (04 Table 4.5). -/
def execAdd (w : Fields) (s : State) : Res State := fire specAdd (binU fun w x y => resS w (x + y)) w s
/-- SUB. -/
def specSub : OpSpec := intSpec 0x081#9 2 [0, 1, 2]
/-- SUB: x - y (04 Table 4.5). -/
def execSub (w : Fields) (s : State) : Res State := fire specSub (binU fun w x y => resS w ((x : Int) - y)) w s
/-- RSUB. -/
def specRsub : OpSpec := intSpec 0x082#9 2 [0, 1, 2]
/-- RSUB: y - x (04 Table 4.5). -/
def execRsub (w : Fields) (s : State) : Res State := fire specRsub (binU fun w x y => resS w ((y : Int) - x)) w s
/-- NEG. -/
def specNeg : OpSpec := intSpec 0x083#9 1 [0]
/-- NEG: -x (04 Table 4.5). -/
def execNeg (w : Fields) (s : State) : Res State := fire specNeg (unU fun w x => resS w (-(x : Int))) w s
/-- ABS. -/
def specAbs : OpSpec := intSpec 0x084#9 1 [0]
/-- ABS: |s(x)|, the most negative value unchanged (04 Table 4.5). -/
def execAbs (w : Fields) (s : State) : Res State := fire specAbs (unU fun w x => resS w (toSigned w x).natAbs) w s
/-- ADDS. -/
def specAdds : OpSpec := intSpec 0x085#9 2 [0, 1, 2]
/-- ADDS: saturated sum (04 Table 4.5). -/
def execAdds (w : Fields) (s : State) : Res State := fire specAdds (binS fun w x y => resS w (satS w (x + y))) w s
/-- SUBS. -/
def specSubs : OpSpec := intSpec 0x086#9 2 [0, 1, 2]
/-- SUBS: saturated difference (04 Table 4.5). -/
def execSubs (w : Fields) (s : State) : Res State := fire specSubs (binS fun w x y => resS w (satS w (x - y))) w s
/-- MUL. -/
def specMul : OpSpec := intSpec 0x087#9 2 [0, 1, 2]
/-- MUL: low w bits of x y (04 Table 4.5). -/
def execMul (w : Fields) (s : State) : Res State := fire specMul (binU fun w x y => resS w ((x * y : Nat) : Int)) w s
/-- MULH. -/
def specMulh : OpSpec := intSpec 0x088#9 2 [0, 1, 2]
/-- MULH: high w bits of the signed product (04 Table 4.5). -/
def execMulh (w : Fields) (s : State) : Res State := fire specMulh (binS fun w x y => resS w (x * y / (2 ^ w : Int))) w s
/-- MULHZ. -/
def specMulhz : OpSpec := intSpec 0x089#9 2 [0, 1, 2]
/-- MULHZ: high w bits of the unsigned product (04 Table 4.5). -/
def execMulhz (w : Fields) (s : State) : Res State := fire specMulhz (binU fun w x y => resZ w ((x * y / 2 ^ w : Nat) : Int)) w s

/-- Signed quotient toward zero (04 R131). -/
def divQ (w : Nat) (x y : Int) : Int :=
  if y = 0 then -1 else if x = -(2 ^ (w - 1) : Int) ∧ y = -1 then x else Int.tdiv x y
/-- Signed remainder of division toward zero (04 R131). -/
def divR (w : Nat) (x y : Int) : Int :=
  if y = 0 then x else if x = -(2 ^ (w - 1) : Int) ∧ y = -1 then 0 else x - y * Int.tdiv x y

/-- DIV. -/
def specDiv : OpSpec := intSpec 0x08A#9 2 [0, 1, 2]
/-- DIV (04 R131). -/
def execDiv (w : Fields) (s : State) : Res State := fire specDiv (binS fun w x y => resS w (divQ w x y)) w s
/-- DIVZ. -/
def specDivz : OpSpec := intSpec 0x08B#9 2 [0, 1, 2]
/-- DIVZ (04 R131). -/
def execDivz (w : Fields) (s : State) : Res State :=
  fire specDivz (binU fun w x y => resZ w (if y = 0 then -1 else ((x / y : Nat) : Int))) w s
/-- REM. -/
def specRem : OpSpec := intSpec 0x08C#9 2 [0, 1, 2]
/-- REM (04 R131). -/
def execRem (w : Fields) (s : State) : Res State := fire specRem (binS fun w x y => resS w (divR w x y)) w s
/-- REMZ. -/
def specRemz : OpSpec := intSpec 0x08D#9 2 [0, 1, 2]
/-- REMZ (04 R131). -/
def execRemz (w : Fields) (s : State) : Res State :=
  fire specRemz (binU fun w x y => resZ w ((if y = 0 then x else x % y : Nat) : Int)) w s
/-- MIN. -/
def specMin : OpSpec := intSpec 0x08E#9 2 [0, 1, 2]
/-- MIN: signed minimum (04 Table 4.5). -/
def execMin (w : Fields) (s : State) : Res State := fire specMin (binS fun w x y => resS w (if x ≤ y then x else y)) w s
/-- MAX. -/
def specMax : OpSpec := intSpec 0x08F#9 2 [0, 1, 2]
/-- MAX: signed maximum (04 Table 4.5). -/
def execMax (w : Fields) (s : State) : Res State := fire specMax (binS fun w x y => resS w (if x ≤ y then y else x)) w s
/-- MINZ. -/
def specMinz : OpSpec := intSpec 0x090#9 2 [0, 1, 2]
/-- MINZ: unsigned minimum (04 Table 4.5). -/
def execMinz (w : Fields) (s : State) : Res State :=
  fire specMinz (binU fun w x y => resZ w ((if x ≤ y then x else y : Nat) : Int)) w s
/-- MAXZ. -/
def specMaxz : OpSpec := intSpec 0x091#9 2 [0, 1, 2]
/-- MAXZ: unsigned maximum (04 Table 4.5). -/
def execMaxz (w : Fields) (s : State) : Res State :=
  fire specMaxz (binU fun w x y => resZ w ((if x ≤ y then y else x : Nat) : Int)) w s

/-- A bitwise instruction: its value on 64 bits, of which w count. -/
def bitop (g : Word → Word → Word) : Meaning := alu fun f => resS (wOf f) ((g f.a.value f.b.value).toNat : Int)

/-- AND. -/
def specAnd : OpSpec := intSpec 0x092#9 2 [0, 1, 2]
/-- AND (04 Table 4.5). -/
def execAnd (w : Fields) (s : State) : Res State := fire specAnd (bitop fun x y => x &&& y) w s
/-- OR. -/
def specOr : OpSpec := intSpec 0x093#9 2 [0, 1, 2]
/-- OR (04 Table 4.5). -/
def execOr (w : Fields) (s : State) : Res State := fire specOr (bitop fun x y => x ||| y) w s
/-- XOR. -/
def specXor : OpSpec := intSpec 0x094#9 2 [0, 1, 2]
/-- XOR (04 Table 4.5). -/
def execXor (w : Fields) (s : State) : Res State := fire specXor (bitop fun x y => x ^^^ y) w s
/-- ANDN. -/
def specAndn : OpSpec := intSpec 0x095#9 2 [0, 1, 2]
/-- ANDN: x AND NOT y (04 Table 4.5). -/
def execAndn (w : Fields) (s : State) : Res State := fire specAndn (bitop fun x y => x &&& ~~~y) w s
/-- ORN. -/
def specOrn : OpSpec := intSpec 0x096#9 2 [0, 1, 2]
/-- ORN: x OR NOT y (04 Table 4.5). -/
def execOrn (w : Fields) (s : State) : Res State := fire specOrn (bitop fun x y => x ||| ~~~y) w s
/-- NOT. -/
def specNot : OpSpec := intSpec 0x097#9 1 [0]
/-- NOT (04 Table 4.5). -/
def execNot (w : Fields) (s : State) : Res State := fire specNot (bitop fun x _ => ~~~x) w s
/-- SHL. -/
def specShl : OpSpec := intSpec 0x098#9 2 [0, 1, 2]
/-- SHL (04 R132). -/
def execShl (w : Fields) (s : State) : Res State :=
  fire specShl (binU fun w x m => resS w (if w ≤ m then 0 else ((x * 2 ^ m : Nat) : Int))) w s
/-- SHR. -/
def specShr : OpSpec := intSpec 0x099#9 2 [0, 1, 2]
/-- SHR (04 R132). -/
def execShr (w : Fields) (s : State) : Res State :=
  fire specShr (binU fun w x m => resZ w (if w ≤ m then 0 else ((x / 2 ^ m : Nat) : Int))) w s
/-- SAR. -/
def specSar : OpSpec := intSpec 0x09A#9 2 [0, 1, 2]
/-- SAR (04 R132). -/
def execSar (w : Fields) (s : State) : Res State :=
  fire specSar (binU fun w x m =>
    let sx := toSigned w x
    resS w (if w ≤ m then (if sx < 0 then -1 else 0) else sx / (2 ^ m : Int))) w s
/-- Rotation left of w bits by m mod w. -/
def rotl (w x m : Nat) : Nat := (x * 2 ^ (m % w) + x / 2 ^ (w - m % w)) % 2 ^ w
/-- ROL. -/
def specRol : OpSpec := intSpec 0x09B#9 2 [0, 1, 2]
/-- ROL (04 R132). -/
def execRol (w : Fields) (s : State) : Res State := fire specRol (binU fun w x m => resS w (rotl w x m : Nat)) w s
/-- ROR. -/
def specRor : OpSpec := intSpec 0x09C#9 2 [0, 1, 2]
/-- ROR (04 R132). -/
def execRor (w : Fields) (s : State) : Res State :=
  fire specRor (binU fun w x m => resS w (rotl w x (w - m % w) : Nat)) w s
/-- Leading zero bits of w bits. -/
def clzN (w x : Nat) : Nat := w - bitLen x
/-- Trailing zero bits of w bits. -/
def ctzN (w x : Nat) : Nat := ((List.range w).find? fun i => bit x i).getD w
/-- One bits of w bits. -/
def popN (w x : Nat) : Nat := ((List.range w).filter fun i => bit x i).length
/-- The number whose bit i is `g i`, of w bits. -/
def ofBits (w : Nat) (g : Nat → Bool) : Nat := ((List.range w).map fun i => b2n (g i) * 2 ^ i).sum
/-- CLZ. -/
def specClz : OpSpec := intSpec 0x09D#9 1 [0]
/-- CLZ (04 Table 4.5). -/
def execClz (w : Fields) (s : State) : Res State := fire specClz (unU fun w x => resZ w (clzN w x : Nat)) w s
/-- CTZ. -/
def specCtz : OpSpec := intSpec 0x09E#9 1 [0]
/-- CTZ (04 Table 4.5). -/
def execCtz (w : Fields) (s : State) : Res State := fire specCtz (unU fun w x => resZ w (ctzN w x : Nat)) w s
/-- POPC. -/
def specPopc : OpSpec := intSpec 0x09F#9 1 [0]
/-- POPC (04 Table 4.5). -/
def execPopc (w : Fields) (s : State) : Res State := fire specPopc (unU fun w x => resZ w (popN w x : Nat)) w s
/-- BREV. -/
def specBrev : OpSpec := intSpec 0x0A0#9 1 [0]
/-- BREV: bit i is bit w - 1 - i (04 Table 4.5). -/
def execBrev (w : Fields) (s : State) : Res State :=
  fire specBrev (unU fun w x => resS w (ofBits w fun i => bit x (w - 1 - i) : Nat)) w s
/-- BSWAP. -/
def specBswap : OpSpec := intSpec 0x0A1#9 1 [0]
/-- BSWAP (04 Table 4.5). -/
def execBswap (w : Fields) (s : State) : Res State :=
  fire specBswap (unU fun w x => resS w (ofBytes (bytesOf (w / 8) x).reverse : Nat)) w s

/-! ## Fields (04 R133) -/

/-- Length and position of a field specification. -/
def fieldLen (y : Word) : Nat := bits y.toNat 0 7
/-- Position of a field specification. -/
def fieldPos (y : Word) : Nat := bits y.toNat 8 6
/-- Whether a specification lies within w bits. -/
def fieldOk (w : Nat) (y : Word) : Bool := fieldLen y != 0 && decide (fieldPos y + fieldLen y ≤ w)
/-- A constant specification that does not (04 R105). -/
def fieldBad (sp : OpSpec) (port : Nat) (w : Fields) : Option Nat :=
  if omToken w.om.toNat port || fieldOk (if w.fn.getLsbD 0 then 64 else 32) (kOf sp w port) then none
  else some (kBad port (kOf sp w port))

/-- EXT. -/
def specExt : OpSpec := intSpec 0x0A2#9 2 [0, 1, 2] (fieldBad (intSpec 0x0A2#9 2 [0, 1, 2]) 1)
/-- EXT: the field, sign-extended (04 R133). DESIGN CHOICE (log 68), here and in EXTZ, INS, SEXT, ZEXT and LEA: a poisoned
parameter that is out of range faults as any that is. -/
def execExt (w : Fields) (s : State) : Res State :=
  fire specExt (aluChk fun f =>
    if fieldOk (wOf f) f.b.value then
      .ok (resS (wOf f) (toSigned (fieldLen f.b.value) (uw (wOf f) f.a / 2 ^ fieldPos f.b.value)))
    else .error (outOfRange 1 f.b.value)) w s
/-- EXTZ. -/
def specExtz : OpSpec := intSpec 0x0A3#9 2 [0, 1, 2] (fieldBad (intSpec 0x0A3#9 2 [0, 1, 2]) 1)
/-- EXTZ: the field, zero-extended (04 R133). -/
def execExtz (w : Fields) (s : State) : Res State :=
  fire specExtz (aluChk fun f =>
    if fieldOk (wOf f) f.b.value then
      .ok (resZ (wOf f) (bits (uw (wOf f) f.a) (fieldPos f.b.value) (fieldLen f.b.value) : Nat))
    else .error (outOfRange 1 f.b.value)) w s
/-- INS. -/
def specIns : OpSpec := intSpec 0x0A4#9 3 [0, 1, 2, 3, 4] (fieldBad (intSpec 0x0A4#9 3 [0]) 2)
/-- INS: a field of x replaced by the low bits of y (04 R133). -/
def execIns (w : Fields) (s : State) : Res State :=
  fire specIns (aluChk fun f =>
    if fieldOk (wOf f) f.c.value then
      let x := uw (wOf f) f.a
      let p := fieldPos f.c.value
      let l := fieldLen f.c.value
      .ok (resS (wOf f) ((x / 2 ^ (p + l) * 2 ^ (p + l) + bits f.b.value.toNat 0 l * 2 ^ p + x % 2 ^ p : Nat) : Int))
    else .error (outOfRange 2 f.c.value)) w s

/-- Whether a width for SEXT or ZEXT lies in 1 to w. -/
def extOk (w : Nat) (y : Word) : Bool := uw w (kTok y) != 0 && decide (uw w (kTok y) ≤ w)
/-- A constant width that does not (04 R105). -/
def extBad (w : Fields) : Option Nat :=
  let k := kOf (intSpec 0 2 [0]) w 1
  if omToken w.om.toNat 1 || extOk (if w.fn.getLsbD 0 then 64 else 32) k then none else some (kBad 1 k)

/-- SEXT. -/
def specSext : OpSpec := intSpec 0x0A5#9 2 [0, 1, 2] extBad
/-- SEXT: the low n bits of x, sign-extended (04 R133). -/
def execSext (w : Fields) (s : State) : Res State :=
  fire specSext (aluChk fun f =>
    if extOk (wOf f) f.b.value then .ok (resS (wOf f) (toSigned (uw (wOf f) f.b) (uw (wOf f) f.a)))
    else .error (outOfRange 1 f.b.value)) w s
/-- ZEXT. -/
def specZext : OpSpec := intSpec 0x0A6#9 2 [0, 1, 2] extBad
/-- ZEXT: the low n bits of x, zero-extended (04 R133). -/
def execZext (w : Fields) (s : State) : Res State :=
  fire specZext (aluChk fun f =>
    if extOk (wOf f) f.b.value then .ok (resZ (wOf f) (uw (wOf f) f.a % 2 ^ uw (wOf f) f.b : Nat))
    else .error (outOfRange 1 f.b.value)) w s
/-- A constant shift amount of LEA above 15 (04 R105, Table 4.5). -/
def leaBad (w : Fields) : Option Nat :=
  let k := kOf (intSpec 0 3 [0]) w 2
  if omToken w.om.toNat 2 || decide (uw (if w.fn.getLsbD 0 then 64 else 32) (kTok k) ≤ 15) then none else some (kBad 2 k)
/-- LEA. -/
def specLea : OpSpec := intSpec 0x0A7#9 3 [0, 1, 2, 3, 4] leaBad
/-- LEA: x + (y << m), m at most 15 (04 Table 4.5). -/
def execLea (w : Fields) (s : State) : Res State :=
  fire specLea (aluChk fun f =>
    let m := uw (wOf f) f.c
    if m ≤ 15 then .ok (resS (wOf f) ((uw (wOf f) f.a + uw (wOf f) f.b * 2 ^ m : Nat) : Int))
    else .error (outOfRange 2 f.c.value)) w s
/-- PACKW. -/
def specPackw : OpSpec := intSpec 0x0A8#9 2 [0, 1, 2]
/-- PACKW: the low halves packed (04 Table 4.5). -/
def execPackw (w : Fields) (s : State) : Res State :=
  fire specPackw (binU fun w x y => resS w ((y % 2 ^ (w / 2) * 2 ^ (w / 2) + x % 2 ^ (w / 2) : Nat) : Int)) w s

end Sys2Proof.Machine
end

