-- ==== Sys2Proof/Machine/Compare.lean ====
section
/-! DEFINITION. Class 3: comparisons, selection and predicates (04 R134 to R137). -/
namespace Sys2Proof.Machine

/-- 1 for true, zero-extended (04 R135). -/
def boolW (b : Bool) : Word := if b then 1 else 0

/-- CMPEQ. -/
def specCmpeq : OpSpec := intSpec 0x0C0#9 2 [0, 1, 2]
/-- CMPEQ (04 Table 4.7). -/
def execCmpeq (w : Fields) (s : State) : Res State := fire specCmpeq (binU fun _ x y => boolW (x == y)) w s
/-- CMPNE. -/
def specCmpne : OpSpec := intSpec 0x0C1#9 2 [0, 1, 2]
/-- CMPNE (04 Table 4.7). -/
def execCmpne (w : Fields) (s : State) : Res State := fire specCmpne (binU fun _ x y => boolW (x != y)) w s
/-- CMPLT. -/
def specCmplt : OpSpec := intSpec 0x0C2#9 2 [0, 1, 2]
/-- CMPLT, signed (04 Table 4.7). -/
def execCmplt (w : Fields) (s : State) : Res State := fire specCmplt (binS fun _ x y => boolW (decide (x < y))) w s
/-- CMPLE. -/
def specCmple : OpSpec := intSpec 0x0C3#9 2 [0, 1, 2]
/-- CMPLE, signed (04 Table 4.7). -/
def execCmple (w : Fields) (s : State) : Res State := fire specCmple (binS fun _ x y => boolW (decide (x ≤ y))) w s
/-- CMPLTZ. -/
def specCmpltz : OpSpec := intSpec 0x0C4#9 2 [0, 1, 2]
/-- CMPLTZ, unsigned (04 Table 4.7). -/
def execCmpltz (w : Fields) (s : State) : Res State := fire specCmpltz (binU fun _ x y => boolW (decide (x < y))) w s
/-- CMPLEZ. -/
def specCmplez : OpSpec := intSpec 0x0C5#9 2 [0, 1, 2]
/-- CMPLEZ, unsigned (04 Table 4.7). -/
def execCmplez (w : Fields) (s : State) : Res State := fire specCmplez (binU fun _ x y => boolW (decide (x ≤ y))) w s
/-- TESTZ. -/
def specTestz : OpSpec := intSpec 0x0C6#9 2 [0, 1, 2]
/-- TESTZ: (x AND y) = 0 (04 Table 4.7). -/
def execTestz (w : Fields) (s : State) : Res State := fire specTestz (binU fun _ x y => boolW (x &&& y == 0)) w s
/-- TESTNZ. -/
def specTestnz : OpSpec := intSpec 0x0C7#9 2 [0, 1, 2]
/-- TESTNZ: (x AND y) is not 0 (04 Table 4.7). -/
def execTestnz (w : Fields) (s : State) : Res State := fire specTestnz (binU fun _ x y => boolW (x &&& y != 0)) w s
/-- SEL. -/
def specSel : OpSpec := intSpec 0x0C8#9 3 [0, 1, 2, 3, 4]
/-- SEL: x if z[0] = 1, else y (04 Table 4.7). -/
def execSel (w : Fields) (s : State) : Res State :=
  fire specSel (alu fun f => resS (wOf f) (if f.c.value.getLsbD 0 then sw (wOf f) f.a else sw (wOf f) f.b)) w s

/-- k + 1 tokens of DATA 0 with poison, in place of a NULL beside a poisoned operand (04 R136, 05 R158). -/
def nullOrPoison (f : Fire) (m : Mem) (hw : Hw) : Except Stop Hw :=
  match nullAux f.data with
  | some k => if f.psn then emitAll f hw (List.replicate (k.toNat + 1) (tokOf f .data 0 true)) else passNull f m hw
  | none => passNull f m hw

/-- BOUND. -/
def specBound : OpSpec := intSpec 0x0C9#9 2 [0, 1, 2]
/-- BOUND: x if u(x) < u(y), else a NULL; poison is never dropped into a NULL (04 R136). -/
def execBound (w : Fields) (s : State) : Res State :=
  fire specBound
    { body := fun f _ hw =>
        if f.psn || decide (uw (wOf f) f.a < uw (wOf f) f.b) then out f hw (resS (wOf f) (sw (wOf f) f.a))
        else emitAll f hw [tokOf f .null]
      onNull := nullOrPoison } w s
/-- CLAMP. -/
def specClamp : OpSpec := intSpec 0x0CA#9 3 [0, 1, 2, 3, 4]
/-- CLAMP: min(max(s(x), s(y)), s(z)) (04 Table 4.7). -/
def execClamp (w : Fields) (s : State) : Res State :=
  fire specClamp (alu fun f =>
    let x := sw (wOf f) f.a
    let y := sw (wOf f) f.b
    let z := sw (wOf f) f.c
    let m := if x < y then y else x
    resS (wOf f) (if z < m then z else m)) w s

/-- PAND, POR and PNOT accept FN 0 only (04 R137). -/
def predSpec (op : BitVec 9) (arity : Nat) (oms : List Nat) : OpSpec := { op := op, arity := arity, oms := oms }
/-- PAND. -/
def specPand : OpSpec := predSpec 0x0CB#9 2 [0, 1, 2]
/-- PAND (04 R137). -/
def execPand (w : Fields) (s : State) : Res State :=
  fire specPand (alu fun f => boolW (f.a.value.getLsbD 0 && f.b.value.getLsbD 0)) w s
/-- POR. -/
def specPor : OpSpec := predSpec 0x0CC#9 2 [0, 1, 2]
/-- POR (04 R137). -/
def execPor (w : Fields) (s : State) : Res State :=
  fire specPor (alu fun f => boolW (f.a.value.getLsbD 0 || f.b.value.getLsbD 0)) w s
/-- PNOT. -/
def specPnot : OpSpec := predSpec 0x0CD#9 1 [0]
/-- PNOT (04 R137). -/
def execPnot (w : Fields) (s : State) : Res State := fire specPnot (alu fun f => boolW (!f.a.value.getLsbD 0)) w s

end Sys2Proof.Machine
end

