-- ==== Sys2Proof/Machine/Steering.lean ====
section
/-! DEFINITION. Class 0 but for the channels: passing, steering, nulls, end markers, descriptors (04 R108 to R117). -/
namespace Sys2Proof.Machine

/-- "all" of 04 Table 4.2. -/
def kindsAll : List Kind := [.data, .null, .order, .fault, .endm, .credit, .paddr]
/-- DATA, NULL, END, PADDR, ORDER. -/
def kindsTrig : List Kind := [.data, .null, .endm, .paddr, .order]
/-- Whether both targets are None. -/
def noTargets (w : Fields) : Bool := w.t0.extractLsb' 20 2 == 0#2 && w.t1.extractLsb' 20 2 == 0#2
/-- Cause 7 unless both targets are None. -/
def needNoTargets (w : Fields) : Option Nat := if noTargets w then none else some 7
/-- Cause 10 on port b unless a constant there satisfies a condition (04 R105). -/
def needK (ok : Word → Bool) (w : Fields) : Option Nat :=
  let k := w.k.signExtend 64
  if ok k then none else some (kBad 1 k)

/-- MOV. -/
def specMov : OpSpec := { op := 0x001#9, arity := 1, kinds := fun _ => kindsAll }
/-- MOV: fwd(A, t) (04 R109). -/
def execMov (w : Fields) (s : State) : Res State :=
  fire specMov { endMode := .own, ownNull := true, body := fun f _ hw => fwd f hw f.a f.tag } w s

/-- CONST. -/
def specConst : OpSpec := { op := 0x002#9, arity := 2, oms := [2], kinds := fun _ => kindsTrig }
/-- CONST: sx(K) on a trigger (04 R109). -/
def execConst (w : Fields) (s : State) : Res State := fire specConst (alu fun f => f.b.value) w s

/-- FAN. -/
def specFan : OpSpec :=
  { op := 0x003#9, arity := 2, oms := [2], kinds := fun _ => kindsTrig
    fieldFault := needK fun k => decide (1 ≤ k.toNat ∧ k.toNat ≤ 256) }
/-- FAN: n copies, or NULLs for n times a NULL's positions (04 R109). -/
def execFan (w : Fields) (s : State) : Res State :=
  fire specFan
    { endMode := .own, ownNull := true
      body := fun f _ hw =>
        match f.a.kind with
        | .endm => fwd f hw f.a f.tag
        | .null => emitAll f hw (nulls f.tag (f.b.value.toNat * (f.a.aux.toNat + 1)))
        | _ => emitAll f hw (List.replicate f.b.value.toNat { f.a with tag := f.tag }) } w s

/-- n(A): A itself if it is a NULL, otherwise a NULL with AUX 0 (04 R110). -/
def nullOf (f : Fire) : Token := if f.a.kind = .null then { f.a with tag := f.tag } else tokOf f .null
/-- STEER takes its control token on port p and needs PR 00 (04 R110). -/
def specSteer : OpSpec :=
  { op := 0x004#9, arity := 1, prOk := fun n => n == 0, pPort := true, kinds := fun _ => kindsTrig }
/-- STEER (04 Table 4.3). -/
def execSteer (w : Fields) (s : State) : Res State :=
  fire specSteer
    { endMode := .own, ownNull := true
      body := fun f _ hw =>
        let a := { f.a with tag := f.tag }
        if f.a.kind = .endm then emitAll f hw [a]
        else if f.p.kind = .null then emitAll f hw [nullOf f]
        else if f.p.psn then emitAll f hw [tokOf f .data 0 true]
        else if f.p.value.getLsbD 0 then do
          let hw ← emit0 f hw [a]
          emit1 f hw [nullOf f]
        else do
          let hw ← emit0 f hw [nullOf f]
          emit1 f hw [a] } w s

/-- MERGE. -/
def specMerge : OpSpec := { op := 0x005#9, arity := 2 }
/-- MERGE: whichever of a and b holds a value, A if both or neither does (04 Table 4.4). -/
def execMerge (w : Fields) (s : State) : Res State :=
  fire specMerge
    { ownNull := true
      body := fun f _ hw => fwd f hw (if f.a.kind = .null && f.b.kind ≠ .null then f.b else f.a) f.tag } w s

/-- GATE. -/
def specGate : OpSpec := { op := 0x006#9, arity := 2, kinds := fun _ => kindsTrig }
/-- GATE: A once B is present; an END only with an END (04 R112). -/
def execGate (w : Fields) (s : State) : Res State :=
  fire specGate
    { endMode := .own, ownNull := true
      body := fun f _ hw =>
        if (f.a.kind == .endm) != (f.b.kind == .endm) then .error (illegal 6) else fwd f hw f.a f.tag } w s

/-- SINK: both targets None (04 R113). -/
def specSink : OpSpec := { op := 0x007#9, arity := 1, kinds := fun _ => kindsAll, fieldFault := needNoTargets }
/-- SINK: consumes A (04 R113). -/
def execSink (w : Fields) (s : State) : Res State :=
  fire specSink { endMode := .own, ownNull := true, body := fun _ _ hw => .ok hw } w s

/-- NULLGEN. -/
def specNullgen : OpSpec :=
  { op := 0x008#9, arity := 2, oms := [2], kinds := fun _ => kindsTrig, fieldFault := needK fun k => decide (k.toNat ≤ 127) }
/-- NULLGEN: a NULL with AUX k at each trigger (04 R114). -/
def execNullgen (w : Fields) (s : State) : Res State :=
  fire specNullgen
    { endMode := .own, ownNull := true
      body := fun f _ hw =>
        if f.a.kind = .endm then fwd f hw f.a f.tag
        else emitAll f hw [tokOf f .null 0 false (f.b.value.setWidth 7)] } w s

/-- ISNULL. -/
def specIsnull : OpSpec := { op := 0x009#9, arity := 1 }
/-- ISNULL: 1 for each position of a NULL, 0 for a value (04 R114). -/
def execIsnull (w : Fields) (s : State) : Res State :=
  fire specIsnull
    { endMode := .own, ownNull := true
      body := fun f _ hw =>
        match f.a.kind with
        | .endm => fwd f hw f.a f.tag
        | .null => emitAll f hw (List.replicate (f.a.aux.toNat + 1) (tokOf f .data 1))
        | _ => out f hw 0 } w s

/-- COALESCE. -/
def specCoalesce : OpSpec := { op := 0x00A#9, arity := 2, oms := [2] }
/-- COALESCE: sx(K) for each position of a NULL (04 R114). -/
def execCoalesce (w : Fields) (s : State) : Res State :=
  fire specCoalesce
    { endMode := .own, ownNull := true
      body := fun f _ hw =>
        if f.a.kind = .null then emitAll f hw (List.replicate (f.a.aux.toNat + 1) (tokOf f .data f.b.value))
        else fwd f hw f.a f.tag } w s

/-- The XF rank (02 Table 2.9). -/
def rankOf (f : Fire) : BitVec 2 := f.w.xf.extractLsb' 0 2
/-- ENDM. -/
def specEndm : OpSpec :=
  { op := 0x00B#9, arity := 1, xfOk := fun x => decide (1 ≤ x ∧ x < 4), kinds := fun _ => kindsTrig }
/-- ENDM: an END of rank q, merged with an END that triggers it (04 R115). -/
def execEndm (w : Fields) (s : State) : Res State :=
  fire specEndm
    { endMode := .own, ownNull := true
      body := fun f _ hw =>
        let q := rankOf f
        let e := fun (c : BitVec 7) => tokOf f .endm 0 false c q
        if f.a.kind ≠ .endm then emitAll f hw [e 0]
        else if q.toNat < f.a.rank.toNat then fwd f hw { f.a with psn := false } f.tag
        else if f.a.rank.toNat < q.toNat then emitAll f hw [e 0]
        else if f.a.aux.toNat < 127 then emitAll f hw [e (f.a.aux + 1)]
        else emitAll f hw [e 127, e 0] } w s

/-- ENDRANK. -/
def specEndrank : OpSpec := { op := 0x00C#9, arity := 1, xfOk := fun x => decide (1 ≤ x ∧ x < 4) }
/-- ENDRANK: T0 the stream, T1 the closes of rank q at each token (04 R116). -/
def execEndrank (w : Fields) (s : State) : Res State :=
  fire specEndrank
    { endMode := .own, ownNull := true
      body := fun f _ hw => do
        let n : Nat := if f.a.kind = .endm && decide ((rankOf f).toNat ≤ f.a.rank.toNat) then f.a.aux.toNat + 1 else 0
        let hw ← emit0 f hw [{ f.a with tag := f.tag }]
        emit1 f hw [tokOf f .data (BitVec.ofNat 64 n)] } w s

/-- SKIP. -/
def specSkip : OpSpec := { op := 0x00D#9, arity := 1, kinds := fun _ => [.data, .null, .endm] }
/-- SKIP: NULLs for as many positions as A says (04 R114). -/
def execSkip (w : Fields) (s : State) : Res State :=
  fire specSkip
    { endMode := .own, ownNull := true
      body := fun f _ hw =>
        if f.a.kind = .null || f.a.kind = .endm then fwd f hw f.a f.tag
        else if f.a.psn then emitAll f hw [tokOf f .data 0 true]
        else if 65536 < f.a.value.toNat then .error (outOfRange 0 f.a.value)
        else emitAll f hw (nulls f.tag f.a.value.toNat) } w s

/-- PACKT. -/
def specPackt : OpSpec := { op := 0x013#9, arity := 1, kinds := fun _ => kindsAll }
/-- PACKT: T0 the value, T1 the descriptor (04 R117). -/
def execPackt (w : Fields) (s : State) : Res State :=
  fire specPackt
    { endMode := .own, ownNull := true
      body := fun f _ hw => do
        let d := (Kind.code f.a.kind).toNat + f.a.rank.toNat * 2 ^ 4 + f.a.aux.toNat * 2 ^ 6 + b2n f.a.psn * 2 ^ 13
        let hw ← emit0 f hw [tokOf f .data f.a.value (tokPsn f.a)]
        emit1 f hw [tokOf f .data (BitVec.ofNat 64 d)] } w s

end Sys2Proof.Machine
end

