-- ==== Sys2Proof/Machine/Channels.lean ====
section
/-! DEFINITION. Channel instructions (04 R118 to R122) over the endpoints of 07 R225 to R227. -/
namespace Sys2Proof.Machine

/-! ## Endpoints -/

/-- An endpoint of a core. -/
def epAt (hw : Hw) (c n : Nat) : Endpoint := tget (coreAt hw c).eps {} n
/-- Writes an endpoint of a core. -/
def setEp (hw : Hw) (c n : Nat) (x : Endpoint) : Hw := modCore hw c fun k => { k with eps := tput k.eps {} n x }

/-- The state code of an endpoint in DETAIL (04 Table 4.1). -/
def epCode : EpState → Nat
  | .closed => 0
  | .producer => 1
  | .consumer => 2
  | .closing _ => 3

/-- Cause 12: endpoint state. -/
def epFault (n : Nat) (x : Endpoint) : Stop := .fault cILLFIELD (12 + n * 2 ^ 10 + epCode x.state * 2 ^ 8)

/-- The endpoint that a word names (02 Table 2.9). -/
def epOf (w : Fields) : Nat := (w.xf.extractLsb' 0 4).toNat
/-- XF of a channel instruction (04 R118). -/
def epXf (n : Nat) : Bool := decide (n < 16)

/-- Tokens and credits that an endpoint has sent and that have not arrived. -/
def chanFrom (hw : Hw) (c n : Nat) : List ChanMsg := hw.chan.filter fun m => m.src = (c, n)

/-- Whether a producer endpoint has a send buffer free (07 R225): of the tokens that it has sent and that have not arrived, the
links hold some, which have left its core, and its buffers the rest. How many the links hold the spec does not say: a free
value for each endpoint (log 72). -/
def sendBufferFree (hw : Hw) (c n : Nat) : Bool :=
  let sent := ((chanFrom hw c n).filter fun m => m.body.isLeft).length
  decide (sent < (epAt hw c n).depth) || decide (sent < (epAt hw c n).depth + Config.chanRoom (c * 16 + n))

/-- Whether an endpoint takes CREDIT and arriving tokens: open or closing as consumer (04 R121). -/
def isConsumer (s : EpState) : Bool := s == .consumer || s == .closing true

/-! ## CHSEND, CHRECV, CREDIT -/

/-- CHSEND. -/
def specChsend : OpSpec := { op := 0x00E#9, arity := 1, xfOk := epXf }

/-- The send of CHSEND (04 R119): one credit and one send buffer, then ORDER. A wait for credit is told to the consumer's
stall watch (07 R227); several CHSENDs may wait at one endpoint. -/
def chSend (f : Fire) (_ : Mem) (hw : Hw) : Except Stop Hw :=
  let n := epOf f.w
  let x := epAt hw f.core n
  let me := (f.site.elem % 32, f.frame, f.site.slot % 4)
  if x.state ≠ .producer then .error (epFault n x)
  else if x.pcred = 0 then
    .error (.wait (if x.waiting.contains me then hw else setEp hw f.core n { x with waiting := x.waiting ++ [me] }))
  else if !sendBufferFree hw f.core n then .error (.wait hw)
  else
    let hw := setEp hw f.core n { x with pcred := x.pcred - 1, waiting := x.waiting.filter fun y => y != me }
    let hw := { hw with chan := hw.chan ++ [{ src := (f.core, n), dst := x.peer, body := .inl { f.a with tag := f.tag }, side := siteSide f.site }] }
    outOrder f (expose hw f.core f.site.seq)

/-- CHSEND (04 R119). -/
def execChsend (w : Fields) (s : State) : Res State :=
  fire specChsend { endMode := .pred, ownNull := true, body := chSend } w s

/-- CHRECV takes no operand token: its port a is fed by its endpoint only (04 R120). -/
def specChrecv : OpSpec := { op := opCHRECV, arity := 0, prOk := fun n => n == 0, xfOk := epXf }

/-- Whether a restore has tokens of the entry log to deliver again to a slot (13 R370). -/
def replaysTo (hw : Hw) (e slot : Nat) : Bool :=
  hw.net.any fun x => contElem x.tok.cont = e && contSlot x.tok.cont = slot && (match x.src with
    | .replay _ => true
    | _ => false)

/-- Takes the head of a consumer's buffer for its CHRECV slot under a tag (04 R120, 07 R225): it is delivered to an activation,
and logged with its sideband (13 R366). None while no token is there, none may open there, or a restore delivers earlier ones
again. -/
def takeBuffered (hw : Hw) (fo : Focus) (n : Nat) : Option (Token × Hw) :=
  let c := coreOf fo.elem
  let x := epAt hw c n
  match x.buf with
  | [] => none
  | (t, side) :: r =>
    if t.tag ≠ fo.tag || noOpening hw fo.elem fo.slot 0 fo.tag || replaysTo hw fo.elem fo.slot then none
    else (arrive hw fo.elem fo.slot 0 fo.tag).map fun hw =>
      let hw := setEp hw c n { x with buf := r, debt := x.debt + 1, lastTag := t.tag }
      (t, logToken hw fo.elem fo.slot 0 { t with cont := mkCont (ownLC hw) fo.elem fo.slot 0 } side)

/-- The firing of CHRECV at the focus: the head of its endpoint's buffer, under the tag it carries; first, after a restore, a
token that is delivered again (13 R370). -/
def chRecvFire (w : Fields) (hw : Hw) : Option (Fire × Hw) :=
  match hw.focus with
  | none => none
  | some fo =>
    let x := epAt hw (coreOf fo.elem) (epOf w)
    let site := fun (hw : Hw) => siteOf hw specChrecv w fo.elem fo.slot fo.tag (firedCount hw fo.elem fo.slot fo.tag)
    if frozen hw fo.elem || !isConsumer x.state || x.recv ≠ some (fo.elem, fo.slot) || fo.queued then none
    else match headAt (elemAt hw fo.elem) fo.slot fo.tag 0 with
      | some o => some ({ fireOf specChrecv w (site hw) [o] false with a := o.tok }, hw)
      | none => (takeBuffered hw fo (epOf w)).map fun (t, hw) => ({ fireOf specChrecv w (site hw) [] false with a := t }, hw)

/-- CHRECV: fwd(token, its tag) (04 R120). -/
def execChrecv (w : Fields) (s : State) : Res State :=
  match chRecvFire w s.hw with
  | none => .fault .notEnabled
  | some (f, hw) =>
    let h := (frameAt (coreAt s.hw f.core) f.frame).header
    finish f s (if dropped s.hw f then passNotFire f s.mem hw else match wordFault specChrecv w h with
      | some d => .error (.fault cILLFIELD d)
      | none => fwd f hw f.a f.tag)

/-- CREDIT; its constant is checked at the first token (04 R105, R121). -/
def specCredit : OpSpec :=
  { op := 0x010#9, arity := 2, oms := [0, 2], xfOk := epXf
    kinds := fun p => if p = 0 then kindsTrig else [.data]
    fieldFault := fun w => if w.om = 2#3 then needK (fun k => decide (1 ≤ k.toNat ∧ k.toNat ≤ 1024)) w else none }

/-- CREDIT (04 R121, 07 R226). DESIGN CHOICE (log 67): a count out of range is reported before a wrong state. -/
def creditSend (f : Fire) (_ : Mem) (hw : Hw) : Except Stop Hw :=
  let n := epOf f.w
  let x := epAt hw f.core n
  let c := f.b.value.toNat
  if c = 0 ∨ 1024 < c then .error (outOfRange 1 f.b.value)
  else if !isConsumer x.state then .error (epFault n x)
  else if x.debt < c then .error (.fault cCREDIT (n + c * 2 ^ 4 + x.debt * 2 ^ 15))
  else
    let hw := setEp hw f.core n { x with debt := x.debt - c }
    let hw := { hw with chan := hw.chan ++ [{ src := (f.core, n), dst := x.peer, body := .inr c }] }
    outOrder f (expose hw f.core f.site.seq)

/-- CREDIT (04 R121): A is a trigger only. -/
def execCredit (w : Fields) (s : State) : Res State :=
  fire specCredit { endMode := .pred, ownNull := true, body := creditSend } w s

/-! ## CHOPEN, CHCLOSE -/

/-- Whether a depth-and-side operand of CHOPEN is allowed (04 R122). -/
def chopenB (b : Word) : Bool :=
  let d := bits b.toNat 0 11
  decide (1 ≤ d ∧ d ≤ 1024) && bits b.toNat 11 5 == 0 && bits b.toNat 17 47 == 0

/-- CHOPEN. -/
def specChopen : OpSpec :=
  { op := 0x011#9, arity := 2, oms := [0, 2], xfOk := epXf, kinds := fun _ => [.data]
    fieldFault := fun w => if w.om = 2#3 then needK chopenB w else none }

/-- The CHRECV slots of a frame of a core that name an endpoint, as (element, slot index) (04 R122). -/
def recvSlots (hw : Hw) (c f n : Nat) : List (Nat × Nat) :=
  (List.range 32).flatMap fun e5 => (List.range 4).filterMap fun s =>
    let w := tget (elemAt hw (c * 32 + e5)).words 0 (f * 4 + s)
    if wordOp w = opCHRECV && epOf (wordFields w) = n then some (c * 32 + e5, f * 4 + s) else none

/-- Buffers of a core's pool that its endpoints hold (07 R225). -/
def poolUsed (hw : Hw) (c : Nat) : Nat := ((coreAt hw c).eps.map fun x => x.2.depth).sum

/-- The opening of CHOPEN (04 R122, 07 R225). DESIGN CHOICE (log 67): of several faults the one at port a is reported, then the
one at port b, then the endpoint's state. -/
def chOpen (f : Fire) (_ : Mem) (hw : Hw) : Except Stop Hw :=
  let n := epOf f.w
  let x := epAt hw f.core n
  let a := f.a.value.toNat
  let b := f.b.value.toNat
  let peer := (bits a 12 8, bits a 0 4)
  let d := bits b 0 11
  let consumer := bit b 16
  if bits a 30 34 ≠ 0 ∨ bits a 4 8 ≠ 0 ∨ bits a 20 10 ≠ ownLC hw then .error (outOfRange 0 f.a.value)
  else if !chopenB f.b.value then .error (outOfRange 1 f.b.value)
  else if x.state ≠ .closed then .error (epFault n x)
  else
    let slots := if consumer then recvSlots hw f.core f.frame n else []
    if consumer && slots.length != 1 then .error (epFault n x)
    else if 1024 < poolUsed hw f.core + d then .error (.wait hw)
    else
      let cred := if consumer then 0
        else ((x.held.filter fun h => (h.1, h.2.1) = peer).map fun h => h.2.2).sum
      let hw := setEp hw f.core n
        { state := if consumer then .consumer else .producer, depth := d, peer := peer
          pcred := cred, granted := cred, frame := f.frame, opener := f.site.elem
          recv := slots.head?, stall := x.stall }
      let hw := if consumer then
          { hw with chan := hw.chan ++ [{ src := (f.core, n), dst := peer, body := .inr d }] }
        else hw
      outOrder f (expose hw f.core f.site.seq)

/-- CHOPEN (04 R122). -/
def execChopen (w : Fields) (s : State) : Res State := fire specChopen { body := chOpen } w s

/-- CHCLOSE. -/
def specChclose : OpSpec :=
  { op := 0x012#9, arity := 1, xfOk := epXf, kinds := fun _ => [.data, .null, .order] }

/-- Whether a closing endpoint may close (04 R122, 07 R225). -/
def mayClose (hw : Hw) (c n : Nat) (x : Endpoint) : Bool :=
  match x.state with
  | .closing true => x.buf.isEmpty && x.debt == 0
  | .closing false => x.pcred == x.granted && (chanFrom hw c n).isEmpty
  | _ => false

/-- The closing of CHCLOSE: into the closing state, then a wait, then closed (04 R122). -/
def chClose (f : Fire) (_ : Mem) (hw : Hw) : Except Stop Hw :=
  let n := epOf f.w
  let x := epAt hw f.core n
  let go := fun (x : Endpoint) (hw : Hw) =>
    if mayClose hw f.core n x then outOrder f (setEp hw f.core n { stall := x.stall })
    else .error (.wait hw)
  match x.state with
  | .closed => .error (epFault n x)
  | .closing _ => if x.closer.any (sameFiring f.site) then go x hw else .error (epFault n x)
  | st =>
    let x := { x with state := .closing (st == .consumer), closer := some f.site, waiting := [] }
    go x (expose (setEp hw f.core n x) f.core f.site.seq)

/-- CHCLOSE (04 R122). -/
def execChclose (w : Fields) (s : State) : Res State := fire specChclose { body := chClose } w s

/-! ## Arrivals and the stall watch (07 R225 to R227) -/

/-- CHANNEL_TOKEN_ARRIVAL: a token of a channel reaches its consumer endpoint, which buffers it, or drops it
where it is no consumer of that producer (07 R225). -/
def execChannelTokenArrival (n : Nat) (s : State) : Res State :=
  match s.hw.chan[n]? with
  | none => .fault .notEnabled
  | some m =>
    match m.body with
    | .inr _ => .fault .notEnabled
    | .inl t =>
      if (s.hw.chan.take n).any fun y => y.src = m.src && y.dst = m.dst then .fault .notEnabled
      else
        let hw := { s.hw with chan := dropAt s.hw.chan n }
        let x := epAt hw m.dst.1 m.dst.2
        .next { s with hw :=
          if isConsumer x.state && x.peer = m.src then setEp hw m.dst.1 m.dst.2 { x with buf := x.buf ++ [(t, m.side)] }
          else hw }

/-- CREDIT_ARRIVAL: credits reach an endpoint: added by an open producer of that peer, held by a closed
endpoint, discarded by any other; a closing producer counts the credits of its own channel (07 R225). The total
granted rises with credits beyond those that stand for tokens sent. -/
def execCreditArrival (n : Nat) (s : State) : Res State :=
  match s.hw.chan[n]? with
  | none => .fault .notEnabled
  | some m =>
    match m.body with
    | .inl _ => .fault .notEnabled
    | .inr c =>
      if (s.hw.chan.take n).any fun y => y.src = m.src && y.dst = m.dst && y.body.isRight then .fault .notEnabled
      else
        let hw := { s.hw with chan := dropAt s.hw.chan n }
        let x := epAt hw m.dst.1 m.dst.2
        .next { s with hw :=
          match x.state with
          | .closed =>
            let room := 1024 - (x.held.map fun h => h.2.2).sum
            if room = 0 then hw
            else setEp hw m.dst.1 m.dst.2 { x with held := x.held ++ [(m.src.1, m.src.2, if c < room then c else room)] }
          | .producer | .closing false =>
            if x.peer = m.src then
              setEp hw m.dst.1 m.dst.2
                { x with pcred := x.pcred + c, granted := if x.granted < x.pcred + c then x.pcred + c else x.granted }
            else hw
          | _ => hw }

/-- The CHSENDs of a core that wait at an endpoint without credit, as (element, frame, slot): those whose operands still wait
there (07 R227). -/
def chWaiting (hw : Hw) (c n : Nat) : List (Nat × Nat × Nat) :=
  (epAt hw c n).waiting.filter fun y => (elemAt hw (c * 32 + y.1)).ops.any fun o => o.slot = y.2.1 * 4 + y.2.2

/-- Whether both conditions of a consumer's stall watch hold, be the consumer closing (07 R227). -/
def stallCond (hw : Hw) (c n : Nat) : Bool :=
  let x := epAt hw c n
  let p := epAt hw x.peer.1 x.peer.2
  isConsumer x.state && x.buf.isEmpty && decide (0 < x.debt) && !x.stall.valid &&
    p.state == .producer && p.peer == (c, n) && !(chWaiting hw x.peer.1 x.peer.2).isEmpty && p.pcred == 0

/-- The stall watches of a core brought up to date: since when both conditions hold (07 R227). -/
def watchChannels (hw : Hw) (c : Nat) : Hw :=
  (coreAt hw c).eps.foldl (fun hw x =>
    let e := epAt hw c x.1
    let since := if stallCond hw c x.1 then some (e.since.getD hw.now) else none
    if e.since = since then hw else setEp hw c x.1 { e with since := since }) hw

/-- The 22 bits that name an endpoint in a stall record: logical chip, core, endpoint (07 Table 7.9). -/
def epName (hw : Hw) (c n : Nat) : Nat := ownLC hw * 2 ^ 12 + c * 2 ^ 4 + n

/-- A core's cycle counter (06 R189). -/
def cycleOf (hw : Hw) (c : Nat) : Word := BitVec.ofNat 64 (hw.now - (coreAt hw c).cycleAt0)

/-- CHANNEL_STALL: the watch has counted 4,096 cycles; it writes the stall record and reports (07 R227). -/
def execChannelStall (core ep : Nat) (s : State) : Res State :=
  let hw := s.hw
  let x := epAt hw core ep
  match x.since with
  | none => .fault .notEnabled
  | some t =>
    if hw.now < t + 4096 || !stallCond hw core ep then .fault .notEnabled
    else
      let p := epAt hw x.peer.1 x.peer.2
      let place := fun (e f s : Nat) => BitVec.ofNat 10 (e * 32 + f * 4 + s)
      let r : StallRec :=
        { valid := true, pep := BitVec.ofNat 22 (epName hw x.peer.1 x.peer.2), cep := BitVec.ofNat 22 (epName hw core ep)
          depth := BitVec.ofNat 11 x.depth, pcred := 0, cfree := BitVec.ofNat 11 (x.depth - x.debt)
          debt := BitVec.ofNat 11 x.debt
          pslot := match chWaiting hw x.peer.1 x.peer.2 with
            | (e, f, s) :: _ => place e f s
            | [] => 0
          cslot := match x.recv with
            | some (e, s) => place (e % 32) (s / 4) (s % 4)
            | none => 0
          lasttag := x.lastTag, cyc := cycleOf hw core }
      let hw := setEp hw core ep { x with stall := r, since := none }
      .next { s with hw := report hw (clOf core) cSTALL (epName hw core ep + x.debt * 2 ^ 32) }

end Sys2Proof.Machine
end

