-- ==== Sys2Proof/Machine/Tags.lean ====
section
/-! DEFINITION. Tag instructions (04 R123 to R129) over the tag spaces of 03 R85, R86: each firing is handled as
one event of the controller that keeps the pool of its frame. -/
namespace Sys2Proof.Machine

/-! ## Spaces -/

/-- Which pool serves a frame: a region controller's, or its cluster's (03 R85, R102). -/
def poolId (hw : Hw) (c f : Nat) : Option (Nat × Nat) := (regionOf hw c f).map fun x => (x.1, x.2.1)

/-- A live or freeing space of the pool that serves a frame; none if the identifier is free. -/
def spaceOf (hw : Hw) (c f s : Nat) : Option Space := tfind (poolSpaces hw c f) s

/-- Writes a space of the pool that serves a frame. -/
def putSpace (hw : Hw) (c f s : Nat) (x : Space) : Hw := modPool hw c f fun p => (tins p.1 s x, p.2)

/-- Frees a space of the pool that serves a frame. -/
def delSpace (hw : Hw) (c f s : Nat) : Hw := modPool hw c f fun p => (tdel p.1 s, p.2)

/-- The state code of a space in DETAIL (04 Table 4.1). -/
def spaceCode (hw : Hw) (c f s : Nat) : Nat :=
  if s = 0 || isTaskSpace s then 3
  else match spaceOf hw c f s with
    | none => 0
    | some x => if x.freeing then 2 else 1

/-- Cause 11: tag-space state (04 Table 4.1). DESIGN CHOICE (log 69): the current index is 0 for a space that has none, which
is free, the ground space or a task space. -/
def spaceFault (hw : Hw) (c f : Nat) (tag : BitVec 20) : Stop :=
  let s := tagSpace tag
  let cur := match spaceOf hw c f s with
    | some x => x.cur
    | none => 0
  .fault cILLFIELD (11 + tag.toNat * 2 ^ 16 + spaceCode hw c f s * 2 ^ 36 + cur * 2 ^ 40)

/-- Live indices that count against a core, over every pool of its die (03 R86). -/
def liveIndices (hw : Hw) (c : Nat) : Nat :=
  let of := fun (t : Tab Space) => (t.map fun x => if x.2.core = c then x.2.size else 0).sum
  of (clAt hw (clOf c)).spaces + ((dieRegions hw (dieOf c)).map fun x => of x.2.2.spaces).sum

/-- Cores whose frames a pool serves: those of the region, or of the cluster. -/
def poolCores (hw : Hw) (c f : Nat) : List Nat :=
  match regionOf hw c f with
  | some (k, _, r) => regionCores (k / 8) r
  | none => (List.range 8).map fun i => clOf c * 8 + i

/-- The uncommitted activations under a space of the pool that serves a frame, as (core, activation). -/
def spaceActs (hw : Hw) (c f s : Nat) : List (Nat × Act) :=
  (poolCores hw c f).flatMap fun d =>
    ((coreAt hw d).acts.filter fun a => tagSpace a.tag = s && decide (poolId hw d a.frame = poolId hw c f)).map fun a => (d, a)

/-- The lowest free identifier of the pool that serves a frame (03 R85). -/
def freeSpaceId (hw : Hw) (c f : Nat) : Option Nat :=
  ((List.range 0xFEF).find? fun i => (spaceOf hw c f (i + 1)).isNone).map (· + 1)

/-! ## Allocation (04 R123, R124) -/

/-- Waiting allocations of the pool that serves a frame. -/
def poolQueue (hw : Hw) (c f : Nat) : List AllocWait :=
  match regionOf hw c f with
  | some (k, i, _) => (tget (clAt hw k).rcs {} i).allocq
  | none => (clAt hw (clOf c)).allocq

/-- Whether a firing that waits for an allocation is still there. -/
def stillWaits (hw : Hw) (x : AllocWait) : Bool := (headAt (elemAt hw x.elem) x.slot x.tag 0).isSome

/-- Whether two waiting allocations are of one firing. -/
def sameAlloc (x y : AllocWait) : Bool := x.core = y.core && x.elem = y.elem && x.slot = y.slot && x.tag = y.tag

/-- The waiting allocations that draw on a core's indices, of every pool that serves a frame of it. -/
def coreWaits (hw : Hw) (c : Nat) : List AllocWait :=
  ((clAt hw (clOf c)).allocq ++ (dieRegions hw (dieOf c)).flatMap fun x => x.2.2.allocq).filter fun x => x.core = c && stillWaits hw x

/-- Whether a core has `n` indices left (03 R86). -/
def fits (hw : Hw) (c n : Nat) : Bool := decide (liveIndices hw c + n ≤ 16384)

/-- Whether a waiting allocation could have an identifier and its core's indices now: it fits, and no earlier one that draws on
the same core waits (04 R123). -/
def servable (hw : Hw) (x : AllocWait) : Bool :=
  fits hw x.core x.size && !(coreWaits hw x.core).any fun y => y.came < x.came

/-- Allocates a space of size `n` for a firing, in the order of R123, or waits for it (04 R124). The space has the owner of its
parent tag's space, be that a context of another core (06 R167). -/
def allocate (f : Fire) (hw : Hw) (n : Nat) : Except Stop (Nat × Hw) :=
  let new : AllocWait := { core := f.core, elem := f.site.elem, slot := f.site.slot, tag := f.tag, size := n, came := hw.ids }
  let q := (poolQueue hw f.core f.frame).filter (stillWaits hw)
  let me := (q.find? (sameAlloc new)).getD new
  let (q, hw) := if q.contains me then (q, hw) else (q ++ [me], { hw with ids := hw.ids + 1 })
  let earlier := q.filter fun x => x.came < me.came
  let hw := modPool hw f.core f.frame fun p => (p.1, q)
  match freeSpaceId hw f.core f.frame with
  | none => .error (.wait hw)
  | some s =>
    if !servable hw me || earlier.any (servable hw) then .error (.wait hw)
    else
      let sp : Space :=
        { size := n, cur := 0, parent := f.tag, freeing := false, core := f.core
          owner := spaceOwner hw f.core f.frame f.tag, tfree := none, maker := f.site.seq.map fun q => (f.core, q) }
      .ok (s, modPool hw f.core f.frame fun p => (tins p.1 s sp, q.filter fun x => x != me))

/-- The size of XF (02 Table 2.9). -/
def sizeOf (w : Fields) : Nat := (w.xf.extractLsb' 0 8).toNat + 1
/-- The tag-space-size layout of XF. -/
def sizeXf (n : Nat) : Bool := decide (n < 256)

/-- TALLOC. -/
def specTalloc : OpSpec := { op := 0x040#9, arity := 1, xfOk := sizeXf }
/-- TALLOC: fwd(A, (s, 0)) under a new space; an END passes under t (04 R124). -/
def execTalloc (w : Fields) (s : State) : Res State :=
  fire specTalloc
    { endMode := .fwdA, ownNull := true
      body := fun f _ hw => do
        let (s, hw) ← allocate f hw (sizeOf f.w)
        fwd f hw f.a (mkTag s 0) } w s

/-! ## TFREE, TNEXT -/

/-- What the end of the last uncommitted activation under a freeing space does: the space becomes free, and a
TFREE that waits on it emits its result (03 R86, 04 R125). -/
def settleSpace (hw : Hw) (c f s : Nat) : Hw :=
  match spaceOf hw c f s with
  | none => hw
  | some x =>
    if !x.freeing || !(spaceActs hw c f s).isEmpty then hw
    else
      let hw := delSpace hw c f s
      match x.tfree with
      | none => hw
      | some (site, t) => settle hw site (emitBoth hw site [{ t with tag := x.parent }])

/-- The TNEXTs that wait on a space when its TFREE or TRET is handled fault with cause 11 and emit nothing (04 R123); at an element
that is frozen already that sets MULTI (03 R98). -/
def faultNexts (hw : Hw) (c f s : Nat) : Hw :=
  match spaceOf hw c f s with
  | none => hw
  | some x =>
    x.nexts.foldl (fun hw y =>
      if (headAt (elemAt hw y.1) y.2.1 y.2.2 0).isNone then hw
      else match spaceFault hw (coreOf y.1) (y.2.1 / 4) y.2.2 with
        | .fault code d => freeze hw y.1 y.2.1 y.2.2 0x042#9 (.firing y.2.1 y.2.2) code d
        | .wait hw => hw) (putSpace hw c f s { x with nexts := [] })

/-- A space becomes freeing (03 R86, 04 R125, R129): waiting TNEXTs fault, and it becomes free once its last activation has
committed. -/
def beginFreeing (f : Fire) (hw : Hw) (s : Nat) (x : Space) (waits : Option (Site × Token)) : Hw :=
  let x := { x with freeing := true, tfree := waits, freer := f.site.seq.map fun q => (f.core, q) }
  settleSpace (faultNexts (putSpace hw f.core f.frame s x) f.core f.frame s) f.core f.frame s

/-- TFREE. -/
def specTfree : OpSpec := { op := 0x041#9, arity := 1, kinds := fun _ => [.data, .null, .paddr] }
/-- TFREE: the space becomes freeing; A goes on under the parent tag once its last activation has committed
(04 R125). -/
def execTfree (w : Fields) (s : State) : Res State :=
  fire specTfree
    { ownNull := true
      body := fun f _ hw =>
        let sp := tagSpace f.tag
        if spaceCode hw f.core f.frame sp ≠ 1 then .error (spaceFault hw f.core f.frame f.tag)
        else match spaceOf hw f.core f.frame sp with
          | none => .error (spaceFault hw f.core f.frame f.tag)
          | some x =>
            .ok (beginFreeing f hw sp x (some (f.site, f.a))) } w s

/-- TNEXT. -/
def specTnext : OpSpec := { op := 0x042#9, arity := 1 }
/-- TNEXT: the current index advances once its next has no uncommitted activation on the core (04 R126). -/
def execTnext (w : Fields) (s : State) : Res State :=
  fire specTnext
    { ownNull := true
      body := fun f _ hw =>
        let sp := tagSpace f.tag
        if spaceCode hw f.core f.frame sp ≠ 1 then .error (spaceFault hw f.core f.frame f.tag)
        else match spaceOf hw f.core f.frame sp with
          | none => .error (spaceFault hw f.core f.frame f.tag)
          | some x =>
            let next := mkTag sp ((x.cur + 1) % x.size)
            if tagIndex f.tag ≠ x.cur then .error (spaceFault hw f.core f.frame f.tag)
            else
              let me := (f.site.elem, f.site.slot, f.tag)
              if (spaceActs hw f.core f.frame sp).any fun y => y.1 = f.core && y.2.tag = next then
                .error (.wait (if x.nexts.contains me then hw else putSpace hw f.core f.frame sp { x with nexts := x.nexts ++ [me] }))
              else
                let x := { x with cur := (x.cur + 1) % x.size, nexts := x.nexts.filter fun y => y != me }
                fwd f (putSpace hw f.core f.frame sp x) f.a next } w s

/-! ## TIDX, TSET, TGET -/

/-- The meaning of TIDX and TGET: a value of the tag, with A's poison; END unchanged (04 R127). -/
def tagValue (g : BitVec 20 → Nat) : Meaning :=
  { endMode := .own, ownNull := true
    body := fun f _ hw =>
      if f.a.kind = .endm then fwd f hw f.a f.tag else out f hw (BitVec.ofNat 64 (g f.tag)) }

/-- TIDX. -/
def specTidx : OpSpec := { op := 0x043#9, arity := 1 }
/-- TIDX: index(t) (04 R127). -/
def execTidx (w : Fields) (s : State) : Res State := fire specTidx (tagValue tagIndex) w s

/-- TSET. -/
def specTset : OpSpec :=
  { op := 0x044#9, arity := 2, oms := [0, 2], kinds := fun p => if p = 1 then [.data, .null] else [.data, .null, .endm, .paddr] }
/-- TSET: A to index B of the space; a NULL on b gives NULLs under t (04 R127). -/
def execTset (w : Fields) (s : State) : Res State :=
  fire specTset
    { endMode := .own, ownNull := true
      body := fun f _ hw =>
        let sp := tagSpace f.tag
        let i := f.b.value
        let code := spaceCode hw f.core f.frame sp
        let size := match spaceOf hw f.core f.frame sp with
          | some x => x.size
          | none => 1
        if f.b.kind = .null then emitAll f hw [{ f.b with tag := f.tag }]
        else if code = 0 || code = 2 then .error (spaceFault hw f.core f.frame f.tag)
        else if size ≤ i.toNat then .error (outOfRange 1 i)
        else
          let t := if f.b.psn && (f.a.kind == .data || f.a.kind == .paddr) then { f.a with psn := true } else f.a
          fwd f hw t (mkTag sp i.toNat) } w s

/-- TGET. -/
def specTget : OpSpec := { op := 0x045#9, arity := 1 }
/-- TGET: the 20-bit tag (04 R127). -/
def execTget (w : Fields) (s : State) : Res State := fire specTget (tagValue fun t => t.toNat) w s

/-! ## TCALL, TRET -/

/-- Kind of a target: 0 None, 1 slot, 2 hold register, 3 route (02 Table 2.8). -/
def targetKind (t : BitVec 22) : Nat := (t.extractLsb' 20 2).toNat

/-- TCALL: T0 a route with its link route after it, T1 a slot (04 R128). -/
def specTcall : OpSpec :=
  { op := 0x046#9, arity := 1, xfOk := sizeXf, kinds := fun _ => [.data, .null, .paddr]
    hdrFault := fun w h =>
      if targetKind w.t0 = 3 && decide (bits w.t0.toNat 0 8 + 2 ≤ hdrRoutes h) && targetKind w.t1 = 1 then none else some 7 }

/-- TCALL: the argument and the link word, both under (s, 0) (04 R128). T1 receives nothing from TCALL, whether it fires or
not. -/
def execTcall (w : Fields) (s : State) : Res State :=
  fire specTcall
    { ownNull := true
      notFire := fun f _ hw => emit0 f hw [tokOf f .null]
      poison := fun f _ hw => emit0 f hw [tokOf f .data 0 true]
      body := fun f _ hw => do
        let (s, hw) ← allocate f hw (sizeOf f.w)
        let g := mkTag s 0
        let link := BitVec.ofNat 64 (f.tag.toNat * 2 ^ 30 + (slotCont hw f.site f.w.t1).toNat)
        let hw ← emit0 f hw [{ f.a with tag := g }]
        emitRoute hw f.site (siteSrc f.site) (bits f.w.t0.toNat 0 8 + 1)
          (markTok (siteMarked hw f.site) (mkTok 0 g .data link)) } w s

/-- TRET: no targets (04 R129). -/
def specTret : OpSpec :=
  { op := 0x047#9, arity := 2, fieldFault := needNoTargets
    kinds := fun p => if p = 0 then [.data, .null, .paddr] else [.data, .null] }

/-- Whether a frame is held by another ASID; a Free frame is held by none (06 R162). -/
def heldByOther (hw : Hw) (c f : Nat) (a : BitVec 10) : Bool :=
  let fr := frameAt (coreAt hw c) f
  fr.state != .free && fr.asid != a

/-- TRET: A to the continuation and tag of the link word; the space becomes freeing (04 R129). -/
def execTret (w : Fields) (s : State) : Res State :=
  fire specTret
    { ownNull := true
      body := fun f _ hw =>
        let sp := tagSpace f.tag
        let b := f.b.value
        let cont := b.extractLsb' 0 30
        let prot := fun (reason : Nat) => Stop.fault cPROT (bits b.toNat 0 50 + reason * 2 ^ 50)
        match spaceOf hw f.core f.frame sp with
        | none => .error (spaceFault hw f.core f.frame f.tag)
        | some x =>
          if x.freeing then .error (spaceFault hw f.core f.frame f.tag)
          else if f.b.kind = .null || bits b.toNat 50 14 ≠ 0 then .error (outOfRange 1 b)
          else if contLC cont ≠ ownLC hw then .error (prot 1)
          else if heldByOther hw (contCore cont) (contFrame cont) f.site.asid then .error (prot 2)
          else do
            let t := markTok (siteMarked hw f.site) { f.a with tag := b.extractLsb' 30 20 }
            if switchViolation hw f.site cont then .error (regionCause 2 (contFrame cont))
            let hw ← sendCont hw f.site (siteSrc f.site) cont t
            .ok (beginFreeing f hw sp x none) } w s

end Sys2Proof.Machine
end

