-- ==== Sys2Proof/Machine/Blocks.lean ====
section
/-! DEFINITION. The core's own instructions: hold registers, exits, SWITCH, QUIET, GETID, CYCLE (06 R173 to R191). -/
namespace Sys2Proof.Machine

/-! ## READ and WRITE (06 R174, R187) -/

/-- The activations whose write of Hj an activation's READ must see (06 R174). -/
def readSet (c : Core) (x : Act) (j : Nat) : List Act :=
  c.acts.filter fun a => a.ctx = x.ctx && decide (a.seq < x.seq) && wmaskBit (frameAt c a.frame).header j

/-- The latest-opened staged write among some activations (06 R174); acts are listed in the order they opened. -/
def latestWrite (l : List Act) (j : Nat) : Option (Word × Bool) :=
  l.foldl (fun (r : Option (Word × Bool)) (a : Act) => match tfind a.writes j with
    | some (.value v p) => some (v, p)
    | _ => r) none

/-- The value of Hj that an activation reads, with its PSN, or a wait (06 R174). The activation may have committed. -/
def readHold (hw : Hw) (s : Site) (j : Nat) : Except Stop (Word × Bool) :=
  let c := coreAt hw (coreOf s.elem)
  match ownerOf hw (coreOf s.elem) s.frame s.tag with
  | none => .error (accounting 2 j s.tag)
  | some n =>
    let held := tget (ctxAt c n).hold (0, false) j
    match occAct c s.frame s.tag s.occ with
    | none => if s.occ < tget c.opened 0 (keyAct s.frame s.tag) then .ok held else .error (.wait hw)
    | some x =>
      let p := readSet c x j
      if p.any fun a => (tfind a.writes j).isNone then .error (.wait hw)
      else .ok ((latestWrite p j).getD held)

/-- `READ a`. -/
def specRead : OpSpec := { op := opREAD, arity := 1, kinds := fun _ => [.data, .null] }
/-- `READ a` (06 R187). -/
def execRead (w : Fields) (s : State) : Res State :=
  fire specRead
    { body := fun f _ hw =>
        if 63 < f.a.value.toNat then .error (outOfRange 0 f.a.value)
        else do
          let (v, p) ← readHold hw f.site f.a.value.toNat
          emitAll f hw [tokOf f .data v (p || f.psn)] } w s

/-- `READ Hj` fires at the opening of its activation (06 R187). -/
def specReadHoldAtOpen : OpSpec :=
  { op := opREAD, arity := 1, oms := [1], prOk := fun n => n == 0
    fieldFault := fun w => if w.k.toNat < 64 then none else some (kBad 0 (w.k.signExtend 64)) }
/-- `READ Hj` (06 R187). -/
def execReadHoldAtOpen (w : Fields) (s : State) : Res State :=
  fire specReadHoldAtOpen
    { body := fun f _ hw => do
        let (v, p) ← readHold hw f.site (bits f.w.k.toNat 0 6)
        emitAll f hw [tokOf f .data v p] } w s

/-- Poison-marks the activation of a firing, be it committed (06 R179). -/
def markFiring (f : Fire) (hw : Hw) : Hw := poisonMark hw f.core f.frame f.tag f.site.occ

/-- WRITE. -/
def specWrite : OpSpec :=
  { op := 0x049#9, arity := 2, oms := [0, 2], kinds := fun p => if p = 0 then [.data, .null, .paddr] else [.data, .null]
    fieldFault := fun w => if w.om = 2#3 then needK (fun k => decide (k.toNat < 64)) w else none }

/-- The write of WRITE, `v` none for a null-write (06 R187). -/
def writeHold (f : Fire) (hw : Hw) (v : Option (Word × Bool)) : Except Stop Hw :=
  if 63 < f.b.value.toNat then .error (outOfRange 1 f.b.value) else stageWrite hw f.site f.b.value.toNat v

/-- WRITE (06 R187). -/
def execWrite (w : Fields) (s : State) : Res State :=
  fire specWrite
    { ownNull := true
      body := fun f m hw =>
        if f.b.kind = .null then passNull f m hw
        else do
          let hw ← writeHold f hw (if f.a.kind = .null then none else some (f.a.value, f.psn))
          outOrder f hw
      notFire := fun f m hw => do
        let hw ← if f.w.om = 2#3 then writeHold f hw none else .ok hw
        passNotFire f m hw
      poison := fun f m hw =>
        if f.b.kind = .null then passNull f m hw
        else do
          let hw ← writeHold f hw none
          passPoison f m (markFiring f hw) } w s

/-! ## EXIT and EXITX (06 R175, R176, R179, R188) -/

/-- The block number that names no successor (06 Table 6.6). -/
def noSuccessor : BitVec 20 := 0xFFFFF

/-- Counts the one exit of an activation and names its successor, which starts in the task context of a task tag
(06 R168, R175, R176); of one not open, as for a write (log 92). -/
def countExit (f : Fire) (hw : Hw) (v : Word) : Except Stop Hw :=
  let blk := v.extractLsb' 0 20
  let e := v.extractLsb' 20 4
  let c := coreAt hw f.core
  let task := isTaskSpace (tagSpace f.tag)
  if !task && blk ≠ noSuccessor then .error (outOfRange 1 v)
  else match findAct c f.frame f.tag f.site.occ with
    | none => .error (accounting 4 0 f.tag)
    | some a =>
      if a.exit.isSome then .error (accounting 4 0 f.tag)
      else
        let c := modAct c a.seq fun a => { a with exit := some (blk, e) }
        let n := tagSpace f.tag - 0xFF0
        let fr := frameAt c f.frame
        let nx : Succ := { block := blk, exit := e, srcblk := fr.block, srchnd := fr.handle, srcSeq := a.seq }
        let c := if task && blk ≠ noSuccessor then setCtx c n { ctxAt c n with next := some nx } else c
        .ok (setCore hw f.core c)

/-- The meaning of EXIT and EXITX with a given effect of their pseudocode: a poisoned predicate marks the activation
and counts as true (06 R179, R188). -/
def exitMeaning (go : Fire → Hw → Except Stop Hw) : Meaning :=
  { body := fun f _ hw => go f hw
    ownNull := true
    notFire := fun _ _ hw => .ok hw
    poison := fun f _ hw =>
      let hw := markFiring f hw
      if f.w.pr = 1#2 then go f hw else .ok hw }

/-- EXIT. -/
def specExit : OpSpec :=
  { op := 0x04A#9, arity := 2, oms := [2], kinds := fun _ => [.data, .null, .paddr, .order]
    fieldFault := fun w => match needNoTargets w with
      | some d => some d
      | none => needK (fun k => decide (k.toNat < 2 ^ 24)) w }
/-- EXIT: successor K[19:0], exit index K[23:20] (06 R188). -/
def execExit (w : Fields) (s : State) : Res State :=
  fire specExit (exitMeaning fun f hw => if f.a.kind = .null then .ok hw else countExit f hw f.b.value) w s

/-- EXITX. -/
def specExitx : OpSpec :=
  { op := 0x04B#9, arity := 2, kinds := fun p => if p = 0 then [.data, .null, .paddr, .order] else [.data, .null]
    fieldFault := needNoTargets }
/-- EXITX: successor and exit index from B, which is looked at first: a NULL keeps it from firing, a poisoned one marks the
activation; then a NULL trigger counts nothing (06 R179, R188). -/
def execExitx (w : Fields) (s : State) : Res State :=
  fire specExitx
    (exitMeaning fun f hw =>
      if f.b.kind = .null then .ok hw
      else if 2 ^ 24 ≤ f.b.value.toNat then .error (outOfRange 1 f.b.value)
      else
        let hw := if f.b.psn then markFiring f hw else hw
        if f.a.kind = .null then .ok hw else countExit f hw f.b.value) w s

/-! ## SWITCH and QUIET (06 R190, R191) -/

/-- Triggers of Table 6.6. -/
def kindsCore : List Kind := [.data, .null, .order, .paddr]

/-- SWITCH. -/
def specSwitch : OpSpec :=
  { op := 0x052#9, arity := 2, oms := [2], kinds := fun _ => kindsCore, fieldFault := needK fun k => decide (k.toNat < 8) }
/-- SWITCH: posts a request to the region controller, which holds at most 8 (06 R190). A NULL trigger, and a predicate that
does not fire, send NULL to its targets by the common rules; DESIGN CHOICE (log 71): R184 holds for that NULL too, so
that it faults with cause 14, subcause 2, where the target lies in a configuration that is not current. -/
def execSwitch (w : Fields) (s : State) : Res State :=
  fire specSwitch
    { ownNull := true
      body := fun f m hw =>
        match regionOf hw f.core f.frame with
        | none => .error (regionCause 0 f.frame)
        | some (k, i, r) =>
          let g := f.b.value.toNat
          if !r.frames.getLsbD g then .error (regionCause 1 g)
          else if f.a.kind = .null then passNull f m hw
          else if 8 ≤ r.swq.length then .error (.wait hw)
          else
            let r := { r with swq := r.swq ++ [(BitVec.ofNat 3 g, { f.a with tag := f.tag }, f.site)] }
            .ok (modCl hw k fun cl => { cl with rcs := tput cl.rcs {} i r }) } w s

/-- Whether an activation has committed and its stores have performed (06 R191). -/
def actDone (hw : Hw) (c seq : Nat) : Bool :=
  let x := coreAt hw c
  !(x.acts.any fun a => a.seq = seq) && !(x.releaseQ.any fun b => b.seq = seq) &&
    !(hw.acc.any fun a => a.core = c && a.seq = seq && a.kind == .store)

/-- QUIET. -/
def specQuiet : OpSpec := { op := 0x053#9, arity := 1, kinds := fun _ => kindsCore }
/-- QUIET: a wait for a set fixed once (06 R191). The request is posted at the first try; the controller takes it
at QUIET_REQUEST_TAKEN. -/
def execQuiet (w : Fields) (s : State) : Res State :=
  fire specQuiet
    { body := fun f _ hw =>
        match regionOf hw f.core f.frame with
        | none => .error (regionCause 0 f.frame)
        | some (k, i, r) =>
          let mine := fun (q : QuietReq) => q.elem = f.site.elem && q.slot = f.site.slot && q.tag = f.tag
          let put := fun (l : List QuietReq) => modCl hw k fun cl => { cl with rcs := tput cl.rcs {} i { r with quiets := l } }
          match r.quiets.find? mine with
          | none =>
            let c := coreAt hw f.core
            let q := ((occAct c f.frame f.tag f.site.occ).map (·.seq)).getD c.nextSeq
            let own := (c.acts.filter fun a => a.frame = r.cur.toNat && decide (a.seq < q)).map fun a => (f.core, a.seq)
            .error (.wait (put (r.quiets ++ [{ elem := f.site.elem, slot := f.site.slot, tag := f.tag, own := own, taken := none }])))
          | some q =>
            match q.taken with
            | none => .error (.wait hw)
            | some others =>
              if (q.own ++ others).all fun a => actDone hw a.1 a.2 then fwd f (put (r.quiets.filter fun y => !mine y)) f.a f.tag
              else .error (.wait hw) } w s

/-! ## GETID and CYCLE (06 R189) -/

/-- GETID's result (06 R189). -/
def getId (hw : Hw) (s : Site) (sel : Nat) : Word :=
  let c := coreOf s.elem
  BitVec.ofNat 64 (match sel with
    | 0 => (mkCont (ownLC hw) s.elem s.slot 0).toNat
    | 1 => match regionOf hw c s.frame with
      | none => 0
      | some (_, _, r) =>
        (clOf c % 8 - r.row0.toNat) * (r.wm1.toNat + 1) + (c % 8 - r.col0.toNat) + r.hm1.toNat * 2 ^ 8 +
          r.wm1.toNat * 2 ^ 12 + r.cur.toNat * 2 ^ 16 + r.period.toNat * 2 ^ 32
    | 2 =>
      let p := (partOfAsid hw s.asid).getD 0
      s.asid.toNat + p * 2 ^ 16 + (tget hw.pkg.parts {} p).gen.toNat * 2 ^ 20
    | _ => ((spaceOwner hw c s.frame s.tag).map (·.2)).getD (2 ^ 64 - 1))

/-- GETID. -/
def specGetid : OpSpec :=
  { op := 0x054#9, arity := 2, oms := [2], kinds := fun _ => kindsCore, fieldFault := needK fun k => decide (k.toNat < 4) }
/-- GETID (06 R189). -/
def execGetid (w : Fields) (s : State) : Res State :=
  fire specGetid { body := fun f _ hw => emitAll f hw [tokOf f .data (getId hw f.site f.b.value.toNat)] } w s

/-- CYCLE. -/
def specCycle : OpSpec := { op := 0x055#9, arity := 1, kinds := fun _ => kindsCore }
/-- CYCLE (06 R189). -/
def execCycle (w : Fields) (s : State) : Res State :=
  fire specCycle { body := fun f _ hw => emitAll f hw [tokOf f .data (cycleOf hw f.core)] } w s

end Sys2Proof.Machine
end

