-- ==== Sys2Proof/Machine/Order.lean ====
section
/-! DEFINITION. The commit order of activations (06 R169) and what a load takes from the store buffer (06 R180,
R181). -/
namespace Sys2Proof.Machine

/-- The start of the cyclic index order of an allocated space on a core: the index of its earliest-opened
uncommitted activation there (06 R169). -/
def spaceStart (hw : Hw) (c f s : Nat) : Option Nat :=
  (((coreAt hw c).acts.find? fun a => tagSpace a.tag = s && decide (poolId hw c a.frame = poolId hw c f)).map fun a => tagIndex a.tag)

/-- Whether two activations of a core are of one allocated space (06 R169). -/
def oneSpace (hw : Hw) (c : Nat) (y x : Act) : Bool :=
  let sy := tagSpace y.tag
  sy == tagSpace x.tag && sy != 0 && !isTaskSpace sy && decide (poolId hw c y.frame = poolId hw c x.frame)

/-- Whether the orders of R169 but the cyclic one put activation `y` of a core directly before `x`: chain order, occurrence
order, or an overlapping WMASK. -/
def linearBefore (hw : Hw) (c : Nat) (y x : Act) : Bool :=
  let core := coreAt hw c
  let older := decide (y.seq < x.seq)
  let chain := isTaskSpace (tagSpace y.tag) && y.tag == x.tag && y.ctx == x.ctx && older
  let occ := y.frame == x.frame && y.tag == x.tag && decide (y.occ < x.occ)
  let regs := y.ctx.isSome && y.ctx == x.ctx && older &&
    (wmask (frameAt core y.frame).header &&& wmask (frameAt core x.frame).header) != 0
  y.seq != x.seq && (chain || occ || regs)

/-- Whether R169 directly orders the commit of activation `y` of a core before that of `x`, neither committed. -/
def directBefore (hw : Hw) (c : Nat) (y x : Act) : Bool :=
  linearBefore hw c y x || (y.seq != x.seq && oneSpace hw c y x &&
    (match spaceOf hw c y.frame (tagSpace y.tag), spaceStart hw c y.frame (tagSpace y.tag) with
      | some sp, some st =>
        decide ((tagIndex y.tag + sp.size - st) % sp.size < (tagIndex x.tag + sp.size - st) % sp.size)
      | _, _ => false))

/-- The uncommitted activations that R169 orders before one, through any chain of its orders: `n` rounds. -/
def beforeSet (hw : Hw) (c : Nat) : Nat → List Act → List Act
  | 0, l => l
  | n + 1, l =>
    let more := (coreAt hw c).acts.filter fun y => !l.contains y && l.any fun x => directBefore hw c y x
    if more.isEmpty then l else beforeSet hw c n (l ++ more)

/-- The sequence numbers of the activations that R169 orders before one (not its own). -/
def beforeSeqs (hw : Hw) (c : Nat) (x : Act) : List Nat :=
  ((beforeSet hw c (coreAt hw c).acts.length [x]).map (·.seq)).filter fun q => q != x.seq

/-- The committed activations that R169 orders before one, be it committed itself: of its own space, those of another index
have gone before it in the cyclic order. -/
def pastBefore (hw : Hw) (c : Nat) (x : Act) : List Nat :=
  let core := coreAt hw c
  let gone := core.past.takeWhile fun y => y.seq != x.seq
  let later := x :: core.acts.filter fun y => (beforeSeqs hw c x).contains y.seq
  (gone.filter fun y => later.any fun z =>
    linearBefore hw c y z || (oneSpace hw c y z && tagIndex y.tag != tagIndex z.tag)).map (·.seq)

/-! ## Stores before commit -/

/-- Whether a buffered store covers a byte of the physical address space. -/
def coversByte (b : Buffered) (a : Nat) : Bool := decide (b.pa ≤ a ∧ a < b.pa + b.width)

/-- The last of some stores that covers a byte. -/
def lastCover (l : List Buffered) (a : Nat) : Option Buffered := l.reverse.find? fun b => coversByte b a

/-- The byte that a load by an activation takes from the store buffer (06 R181): from its own activation's latest store, else
from the latest store of an activation that R169 orders before it, be it committed and not released yet. -/
def forwardByte (hw : Hw) (s : Site) (a : Nat) : Option (Byte × Bool) :=
  let c := coreOf s.elem
  let x := coreAt hw c
  match occAct x s.frame s.tag s.occ with
  | none => none
  | some y =>
    let all := x.releaseQ ++ x.stores
    let prior := pastBefore hw c y ++ beforeSeqs hw c y
    let src := match lastCover (all.filter fun (b : Buffered) => b.seq = y.seq) a with
      | some b => some b
      | none => lastCover (all.filter fun (b : Buffered) => prior.contains b.seq) a
    src.map fun (b : Buffered) => (byteOf b.data.toNat (a - b.pa), b.psn)

/-- The forwarded bytes of a load: index, byte, PSN (06 R181). -/
def forwardBytes (hw : Hw) (s : Site) (pa width : Nat) : List (Nat × Byte × Bool) :=
  (List.range width).filterMap fun i => (forwardByte hw s (pa + i)).map fun v => (i, v.1, v.2)

/-- Whether a load must wait for a line of the line filter (06 R180). -/
def filtered (hw : Hw) (core pa : Nat) : Bool :=
  (coreAt hw core).stores.any fun b => !b.inTable && lineOf b.pa = lineOf pa

/-- The lines that hold a forwarding-table entry of a core (06 R180). -/
def tableLines (c : Core) : List Nat := ((c.stores.filter (·.inTable)).map fun b => lineOf b.pa).eraseDups

/-- Whether an activation is its core's oldest uncommitted one (06 R180). -/
def isOldest (c : Core) (seq : Nat) : Bool :=
  match argMin (fun (a : Act) => a.seq) c.acts with
  | some a => a.seq = seq
  | none => true

end Sys2Proof.Machine
end

