-- ==== Sys2Proof/Machine/Pressure.lean ====
section
/-! DEFINITION. Where an arriving token may go (03 R80 to R83), and the back-pressure that a consumer exerts on its senders:
an input that is held, a frame that can open no activation, a region's edge, links that are full (00 R9, 03 R98, 06 R166,
R184, 07 R216). -/
namespace Sys2Proof.Machine

/-! ## Entries and records (03 R80 to R83) -/

/-- Whether a tag is the ground tag, of a task space, or the oldest index of a live space on a core (03 R80). DESIGN CHOICE
(log 88): a space that is freeing is live still. -/
def oldestTag (hw : Hw) (c f : Nat) (tag : BitVec 20) : Bool :=
  let s := tagSpace tag
  tag = 0#20 || isTaskSpace s ||
    (s != 0 && (spaceOf hw c f s).isSome && spaceStart hw c f s == some (tagIndex tag))

/-- Operands of an element that stand in a kind of place. -/
def inPlace (x : Elem) (p : Place) : Nat := (x.ops.filter fun o => o.place == p).length

/-- The entry that a token under a tag may take now, if one is free (03 R80). -/
def freeEntry (hw : Hw) (e slot : Nat) (tag : BitVec 20) : Option Place :=
  let x := elemAt hw e
  if inPlace x .shared < 48 then some .shared
  else if oldestTag hw (coreOf e) (slot / 4) tag && decide (inPlace x .kept < 16) then some .kept
  else none

/-- Records in a core's share of the overflow store (03 R81). -/
def overflowUsed (hw : Hw) (c : Nat) : Nat := ((List.range 32).map fun e5 => inPlace (elemAt hw (c * 32 + e5)) .spilled).sum

/-! ## What a consumer refuses -/

/-- Whether a token in flight goes to an element of this package. -/
def boundFor (hw : Hw) (e : Nat) (x : Flight) : Bool := decide (contLC x.tok.cont = ownLC hw ∧ contElem x.tok.cont = e)

/-- Whether a token travels on the mesh's second lane, which ordinary tokens never block (03 R83). -/
def secondLane (hw : Hw) (t : Token) : Bool := oldestTag hw (contCore t.cont) (contFrame t.cont) t.tag

/-- Whether an element's input takes nothing from the ordinary lane: it holds a token that needs a record while its core's
share is full (03 R83). -/
def inputHeld (hw : Hw) (e : Nat) : Bool := hw.net.any fun x => x.atInput && boundFor hw e x

/-- Whether a token waits at the edge of its region, since its frame is not of the current configuration (06 R184). -/
def atEdge (hw : Hw) (c f : Nat) : Bool :=
  match regionOf hw c f with
  | some (_, _, r) => r.cur.toNat != f
  | none => false

/-- Whether a token would open an activation in a frame that holds 64 (06 R166). -/
def openFull (hw : Hw) (t : Token) : Bool :=
  decide (64 ≤ (actsOf (coreAt hw (contCore t.cont)) (contFrame t.cont)).length) &&
    wouldOpen hw (contElem t.cont) (contSlot t.cont) (contPort t.cont) t.tag

/-- Whether a consumer of this package does not take a token (07 R216). -/
def refuses (hw : Hw) (t : Token) : Bool :=
  (!secondLane hw t && inputHeld hw (contElem t.cont)) || openFull hw t || atEdge hw (contCore t.cont) (contFrame t.cont)

/-- Whether the links towards an element hold as many tokens of a token's lane as they can (00 R9, 03 R98). How many that is
the spec does not say: a free value for each element (log 72). -/
def linksFull (hw : Hw) (t : Token) : Bool :=
  let n := (hw.net.filter fun x => boundFor hw (contElem t.cont) x && secondLane hw x.tok == secondLane hw t).length
  n != 0 && decide (Config.linkRoom (contElem t.cont) ≤ n)

/-- Whether a token from a die to a continuation has room on its way; one for another package while the entry of its chip does not
drain and its class has a free entry in the replay buffer (16 R407, R411). -/
def hasRoom (hw : Hw) (d : Nat) (cont : BitVec 30) (tag : BitVec 20) : Bool :=
  if contLC cont = ownLC hw then !linksFull hw (mkTok cont tag .order)
  else fabOff hw d (contLC cont) || fabGoes hw d (contLC cont) 2

/-- Whether the links of a site's target have room (02 R53, 00 R9). -/
def targetRoom (hw : Hw) (s : Site) (target : BitVec 22) : Bool :=
  match targetCont hw s target with
  | none => true
  | some (cont, keeps) => hasRoom hw (dieOf (coreOf s.elem)) cont (if keeps then s.tag else 0)

end Sys2Proof.Machine
end

