-- ==== Sys2Proof/Machine/Memory.lean ====
section
/-! DEFINITION. Loads, stores, prefetch, fences, atomics and address tokens (07 R204 to R213, R425, 11 R316 to
R319, 13 R341 to R343). -/
namespace Sys2Proof.Machine

/-- The access width of FN[1:0] in bytes (02 Table 2.6). -/
def widthOf (w : Fields) : Nat := 2 ^ (bits w.fn.toNat 0 2)
/-- Whether FN[2] sign-extends the loaded value. -/
def sxOf (w : Fields) : Bool := w.fn.getLsbD 2
/-- The scope of XF[2:0] (00 R7). -/
def scopeOf (w : Fields) : Nat := (w.xf.extractLsb' 0 3).toNat
/-- Scopes 1 to 4 (07 R210, 11 Table 11.6). -/
def scopeXf (n : Nat) : Bool := decide (1 ≤ n ∧ n ≤ 4)
/-- Kinds of an address port and of the ports beside it (07 Table 7.5, R425). -/
def kindsMem (p : Nat) : List Kind := if p = 0 then [.data, .paddr, .null, .endm] else [.data, .null]

/-- A value of `8 w` bits extended to 64 (07 R207). -/
def extend (sgn : Bool) (w : Nat) (v : Nat) : Word :=
  if sgn then sx (8 * w) (BitVec.ofNat 64 v) else zx (8 * w) (BitVec.ofNat 64 v)

/-- An access of a firing as it leaves its core (07 R201). -/
def accessOf (f : Fire) (hw : Hw) (port : Nat) (kind : AccKind) (a : Loc) (width : Nat) : Access :=
  { id := hw.ids, core := f.core, port := port, kind := kind, va := a.addr, isPa := a.isPa, pa := a.pa
    width := width, data := 0, psn := false, fwd := [], site := f.site, seq := f.site.seq.getD 0, lsid := f.w.ls
    strel := none, gen := genOfCl hw (clOf f.core) }

/-- Sends an access on its way. -/
def postAccess (hw : Hw) (a : Access) : Hw := { hw with acc := hw.acc ++ [{ a with id := hw.ids }], ids := hw.ids + 1 }

/-- A memory firing that does not fire: its LSID is nulled and each target receives NULL (07 R204). -/
def memNotFire (u : LsUse) (f : Fire) (m : Mem) (hw : Hw) : Except Stop Hw := do
  let hw ← nullLs u f hw
  passNotFire f m hw

/-- A load or atomic whose address or predicate is poisoned (07 R204, 03 R96). -/
def loadPoison (f : Fire) (_ : Mem) (hw : Hw) : Except Stop Hw := do
  let hw := countIssued hw f.site f.w.ls.toNat
  let hw ← emit0 f hw [tokOf f .data 0 true]
  emit1 f hw [tokOf f .order]

/-- A store whose address or predicate is poisoned (07 R204, 03 R96). -/
def storePoison (f : Fire) (_ : Mem) (hw : Hw) : Except Stop Hw := do
  let hw ← nullLs .store f hw
  outOrder f (markFiring f hw)

/-- A remote address named with a scope below FABRIC (07 R210, 11 R297). -/
def scopeCheck (hw : Hw) (a : Loc) (scope : Nat) : Except Stop Unit :=
  if isRemote hw a && scope < 4 then .error (illegal 4) else .ok ()

/-- Poisoned data bound for another package (16 R412). -/
def boundaryCheck (hw : Hw) (a : Loc) (psn : Bool) : Except Stop Unit :=
  if isRemote hw a && psn then .error (.fault cPOISON 0) else .ok ()

/-! ## LD, LDACQ, PREF -/

/-- Emits a load's two outputs (07 R207). -/
def loadOut (hw : Hw) (s : Site) (sgn : Bool) (w v : Nat) (psn : Bool) : Except Stop Hw := do
  let hw ← emitList hw s (siteSrc s) s.t0 [markTok (siteMarked hw s) (mkTok 0 s.tag .data (extend sgn w v) 0 psn)]
  emitList hw s (siteSrc s) s.t1 [mkTok 0 s.tag .order]

/-- The effect of LD and LDACQ (07 R207, 11 R317): the address, the bytes of the store buffer, and an access for
the rest. -/
def loadBody (acq : Bool) (f : Fire) (m : Mem) (hw : Hw) : Except Stop Hw :=
  if tokPsn f.a then loadPoison f m hw
  else do
    let w := widthOf f.w
    let (hw, a) ← formAddr hw f.core f.frame f.asid f.a f.b.value.toInt w 0 true false
    if acq then scopeCheck hw a (scopeOf f.w) else .ok ()
    if filtered hw f.core a.pa then .error (.wait hw)
    else
      let fw := forwardBytes hw f.site a.pa w
      if fw.length = w then
        let hw := countIssued hw f.site f.w.ls.toNat
        loadOut hw f.site (sxOf f.w) w (ofBytes (fw.map fun x => x.2.1)) (f.psn || fw.any fun x => x.2.2)
      else
        let hw := if acq then hw else countIssued hw f.site f.w.ls.toNat
        .ok (postAccess hw { accessOf f hw 0 (.load (sxOf f.w) acq) a w with fwd := fw, psn := f.psn })

/-- The meaning of a load. -/
def loadMeaning (acq : Bool) : Meaning :=
  { body := loadBody acq, ls := .load, endMode := .fwdA, notFire := memNotFire .load, poison := loadPoison }

/-- LD. -/
def specLd : OpSpec :=
  { op := 0x180#9, arity := 2, oms := [0, 2], fnOk := fun n => decide (n < 8), anyLs := true, kinds := kindsMem }
/-- LD (07 R207). -/
def execLd (w : Fields) (s : State) : Res State := fire specLd (loadMeaning false) w s

/-- LDACQ. -/
def specLdacq : OpSpec :=
  { op := 0x182#9, arity := 2, oms := [0, 2], fnOk := fun n => decide (n < 8), anyLs := true, xfOk := scopeXf, kinds := kindsMem }
/-- LDACQ (11 R317). -/
def execLdacq (w : Fields) (s : State) : Res State := fire specLdacq (loadMeaning true) w s

/-- PREF: no targets (07 R209). -/
def specPref : OpSpec :=
  { op := 0x185#9, arity := 2, oms := [0, 2], anyLs := true, kinds := kindsMem, fieldFault := needNoTargets }
/-- The end of a PREF: its LSID counts as issued. -/
def prefDone (f : Fire) (hw : Hw) : Except Stop Hw := .ok (countIssued hw f.site f.w.ls.toNat)
/-- The effect of PREF (07 R209): its address is formed and translated; a request that a home hold a line changes no value. It
faults on the range of its sum alone (07 R204): one that cannot be translated, or is not readable, is dropped. -/
def prefBody (f : Fire) (_ : Mem) (hw : Hw) : Except Stop Hw :=
  if tokPsn f.a then prefDone f hw
  else match formAddr hw f.core f.frame f.asid f.a f.b.value.toInt 1 0 true false with
    | .ok (hw, _) => prefDone f hw
    | .error (.wait hw) => .error (.wait hw)
    | .error (.fault c d) =>
      if c = cPROT && (bits d 52 4 = 5 || bits d 52 4 = 6) then .error (.fault c d) else prefDone f (spendFail hw (dieOf f.core) (f.core % 64))
/-- PREF (07 R209). -/
def execPref (w : Fields) (s : State) : Res State :=
  fire specPref { body := prefBody, ls := .load, endMode := .fwdA, notFire := memNotFire .load
                  poison := fun f _ hw => prefDone f hw } w s

/-! ## ST, STREL -/

/-- Enters a store in the store buffer (06 R168, R180). -/
def enterStore (f : Fire) (hw : Hw) (a : Loc) (strel : Option Nat) : Except Stop Hw := do
  boundaryCheck hw a f.b.psn
  let hw' ← countStore hw f.site f.w.ls.toNat
  let c := coreAt hw' f.core
  let seq := f.site.seq.getD 0
  let oldest := isOldest c seq
  let line := lineOf a.pa
  let lines := tableLines c
  if !(decide (c.stores.length < 480) || (oldest && decide (c.stores.length < 512))) then .error (.wait hw)
  else
    let has := lines.contains line || decide (lines.length < 32)
    if !has && !oldest then .error (.wait hw)
    else
      let fr := frameAt c f.frame
      let b : Buffered :=
        { seq := seq, lsid := f.w.ls, va := a.va, isPa := a.isPa, pa := a.pa, width := widthOf f.w
          data := zx (8 * widthOf f.w) f.b.value, psn := tokPsn f.b, inTable := has, strel := strel, site := f.site
          srcblk := fr.block, srchnd := fr.handle, ctx := (findAct c f.frame f.tag f.site.occ).bind (·.ctx) }
      .ok (countIssued (setCore hw' f.core { c with stores := c.stores ++ [b] }) f.site f.w.ls.toNat)

/-- ST. -/
def specSt : OpSpec :=
  { op := 0x181#9, arity := 3, oms := [0, 3], fnOk := fun n => decide (n < 4), anyLs := true
    kinds := fun p => if p = 1 then [.data, .paddr, .null] else kindsMem p }
/-- ST (07 R208). -/
def execSt (w : Fields) (s : State) : Res State :=
  fire specSt
    { ls := .store, endMode := .fwdA, notFire := memNotFire .store, poison := storePoison
      body := fun f m hw =>
        if tokPsn f.a then storePoison f m hw
        else do
          let (hw, a) ← formAddr hw f.core f.frame f.asid f.a f.c.value.toInt (widthOf f.w) 1 false true
          enterStore f hw a none } w s

/-- STREL. -/
def specStrel : OpSpec :=
  { op := 0x183#9, arity := 3, oms := [0, 2], fnOk := fun n => decide (n < 4), anyLs := true, xfOk := scopeXf
    kinds := fun p => if p = 2 then [.data, .null, .order, .paddr] else kindsMem p }
/-- STREL (11 R318). -/
def execStrel (w : Fields) (s : State) : Res State :=
  fire specStrel
    { ls := .store, endMode := .fwdA, notFire := memNotFire .store, poison := storePoison
      body := fun f m hw =>
        if tokPsn f.a then storePoison f m hw
        else do
          let (hw, a) ← formAddr hw f.core f.frame f.asid f.a 0 (widthOf f.w) 1 false true
          scopeCheck hw a (scopeOf f.w)
          enterStore f hw a (some (scopeOf f.w)) } w s

/-! ## FENCE -/

/-- FENCE. -/
def specFence : OpSpec :=
  { op := 0x184#9, arity := 3, oms := [0, 3, 4], anyLs := true, xfOk := fun n => decide (n < 5)
    kinds := fun _ => [.data, .null, .order, .paddr, .fault, .endm] }
/-- FENCE (11 R319). Every access that a token certifies has performed by the time the token leaves
(11 Table 11.2), so the wait is over when the tokens have arrived. -/
def execFence (w : Fields) (s : State) : Res State :=
  fire specFence
    { ls := .load, ownNull := true, notFire := memNotFire .load
      poison := fun f m hw => passPoison f m (countIssued hw f.site f.w.ls.toNat)
      body := fun f _ hw =>
        let hw := countIssued hw f.site f.w.ls.toNat
        match f.data.find? fun t => t.kind == .fault with
        | some t => fwd f hw t f.tag
        | none => if f.data.all fun t => t.kind == .null then emitAll f hw [tokOf f .null] else outOrder f hw } w s

/-! ## Atomics -/

/-- FN of an integer atomic: width 4 or 8, sign extension (07 R210). -/
def atomFn (n : Nat) : Bool := decide (n < 8) && (n % 4 == 2 || n % 4 == 3)
/-- FN of AFADD: width 2 or 4 (07 R210). -/
def afaddFn (n : Nat) : Bool := n == 1 || n == 2

/-- The OpSpec of a binary atomic. -/
def atomSpec (op : BitVec 9) : OpSpec :=
  { op := op, arity := 2, oms := [0, 2], fnOk := atomFn, anyLs := true, xfOk := scopeXf }

/-- The meaning of an atomic (07 R210 to R212): its access leaves for the read-modify-write pipeline of its home
when it fires. -/
def atomMeaning : Meaning :=
  { ls := .load, notFire := memNotFire .load
    poison := fun f m hw => loadPoison f m hw
    body := fun f m hw =>
      if tokPsn f.a then loadPoison f m hw
      else do
        let w := widthOf f.w
        let (hw, a) ← formAddr hw f.core f.frame f.asid f.a 0 w 2 true true
        scopeCheck hw a (scopeOf f.w)
        boundaryCheck hw a (tokPsn f.b || tokPsn f.c)
        let hw := countIssued (expose hw f.core f.site.seq) f.site f.w.ls.toNat
        .ok (postAccess hw (accessOf f hw 3
          (.atomic f.site.op.toNat f.b.value f.c.value (tokPsn f.b) (tokPsn f.c) (sxOf f.w)) a w)) }

/-- The value that an atomic writes, if it writes, from the old value `m` (07 Table 7.6). -/
def atomNew (op w m : Nat) (y z : Word) : Option Nat :=
  let n := 8 * w
  let u := bits y.toNat 0 n
  let sm := toSigned n m
  let su := toSigned n u
  match op with
  | 0x188 => some ((m + u) % 2 ^ n)
  | 0x189 => some ((m + 2 ^ n - u) % 2 ^ n)
  | 0x18A => some (if su < sm then u else m)
  | 0x18B => some (if sm < su then u else m)
  | 0x18C => some (if u < m then u else m)
  | 0x18D => some (if m < u then u else m)
  | 0x18E => some (m &&& u)
  | 0x18F => some (m ||| u)
  | 0x190 => some (m ^^^ u)
  | 0x191 => some u
  | 0x192 => if m = u then some (bits z.toNat 0 n) else none
  | 0x193 =>
    let ff := if w = 2 then bf16 else f32
    some (fadd ff 0 false (fdec ff m) (fdec ff u))
  | _ => some (if u ≤ m then 0 else m + 1)

/-- AADD. -/
def specAadd : OpSpec := atomSpec 0x188#9
/-- AADD (07 R212). -/
def execAadd (w : Fields) (s : State) : Res State := fire specAadd atomMeaning w s
/-- ASUB. -/
def specAsub : OpSpec := atomSpec 0x189#9
/-- ASUB (07 R212). -/
def execAsub (w : Fields) (s : State) : Res State := fire specAsub atomMeaning w s
/-- AMIN. -/
def specAmin : OpSpec := atomSpec 0x18A#9
/-- AMIN (07 R212). -/
def execAmin (w : Fields) (s : State) : Res State := fire specAmin atomMeaning w s
/-- AMAX. -/
def specAmax : OpSpec := atomSpec 0x18B#9
/-- AMAX (07 R212). -/
def execAmax (w : Fields) (s : State) : Res State := fire specAmax atomMeaning w s
/-- AMINZ. -/
def specAminz : OpSpec := atomSpec 0x18C#9
/-- AMINZ (07 R212). -/
def execAminz (w : Fields) (s : State) : Res State := fire specAminz atomMeaning w s
/-- AMAXZ. -/
def specAmaxz : OpSpec := atomSpec 0x18D#9
/-- AMAXZ (07 R212). -/
def execAmaxz (w : Fields) (s : State) : Res State := fire specAmaxz atomMeaning w s
/-- AAND. -/
def specAand : OpSpec := atomSpec 0x18E#9
/-- AAND (07 R212). -/
def execAand (w : Fields) (s : State) : Res State := fire specAand atomMeaning w s
/-- AOR. -/
def specAor : OpSpec := atomSpec 0x18F#9
/-- AOR (07 R212). -/
def execAor (w : Fields) (s : State) : Res State := fire specAor atomMeaning w s
/-- AXOR. -/
def specAxor : OpSpec := atomSpec 0x190#9
/-- AXOR (07 R212). -/
def execAxor (w : Fields) (s : State) : Res State := fire specAxor atomMeaning w s
/-- AXCHG. -/
def specAxchg : OpSpec := atomSpec 0x191#9
/-- AXCHG (07 R212). -/
def execAxchg (w : Fields) (s : State) : Res State := fire specAxchg atomMeaning w s
/-- ACAS. -/
def specAcas : OpSpec := { atomSpec 0x192#9 with arity := 3, oms := [0, 2, 3, 4] }
/-- ACAS (07 R212). -/
def execAcas (w : Fields) (s : State) : Res State := fire specAcas atomMeaning w s
/-- AFADD. -/
def specAfadd : OpSpec := { atomSpec 0x193#9 with fnOk := afaddFn }
/-- AFADD (07 R212). -/
def execAfadd (w : Fields) (s : State) : Res State := fire specAfadd atomMeaning w s
/-- AINCW. -/
def specAincw : OpSpec := atomSpec 0x194#9
/-- AINCW (07 R212). -/
def execAincw (w : Fields) (s : State) : Res State := fire specAincw atomMeaning w s

/-! ## XLATE, LEAP -/

/-- Kinds of XLATE and LEAP (13 R341). -/
def kindsXl (p : Nat) : List Kind := if p = 0 then [.data, .paddr, .null, .endm, .fault] else [.data, .null]

/-- XLATE. -/
def specXlate : OpSpec :=
  { op := 0x186#9, arity := 2, oms := [0, 2], kinds := kindsXl
    fieldFault := fun w => if w.om = 2#3 then needK (fun k => decide (k.toNat < 4)) w else none }

/-- The translation that XLATE finds, as a cache entry: of a region window an entry of its own (13 R342). -/
def xlateFind (f : Fire) (hw : Hw) (va acc : Nat) (write : Bool) : Except Stop (Hw × Xlat) :=
  if 2 ^ 48 ≤ va then .error (protFault va acc false 5)
  else if inWindow va then do
    let l ← windowResolve hw f.core f.frame va acc
    .ok (hw, { asid := f.asid, va := va / 4096 * 4096, size := 0, pa := ownPa hw (l / 4096 * 4096), r := true, w := true, d := true })
  else do
    let (hw, r) ← translate hw (dieOf f.core) (f.core % 64) f.asid va write
    match r with
    | .error e => .error (xlFault e va acc)
    | .ok x => do
      permCheck x true write va acc false
      .ok (hw, x)

/-- Marks a translation PX at a core, in the name of a frame and task (13 R340, R342). That of a region window, which no walk
makes, is recorded in the directory first (13 R339). -/
def setPx (f : Fire) (hw : Hw) (x : Xlat) : Except Stop Hw :=
  let task := (ownerOf hw f.core f.frame f.tag).map fun n => (ctxAt (coreAt hw f.core) n).task
  let mark := fun (z : Xlat) => { z with px := true, pxFrame := f.frame, pxTask := task }
  match (coreAt hw f.core).tlb.find? fun y => xlSame y x with
  | some y => .ok (if y.px then hw else modCore hw f.core fun c => { c with tlb := mapFirst (fun z => xlSame z x) mark c.tlb })
  | none => match returnXlat hw (dieOf f.core) (f.core % 64) (mark x) with
    | some hw => .ok hw
    | none => .error (.wait hw)

/-- The effect of XLATE on a DATA address (13 R342). -/
def xlateBody (f : Fire) (hw : Hw) : Except Stop Hw :=
  let mode := f.b.value.toNat
  let write := bit mode 0
  let va := f.a.value.toNat
  if f.a.psn then emitAll f hw [tokOf f .data 0 true]
  else match xlateFind f hw va (b2n write) write with
    | .error (.wait hw) => .error (.wait hw)
    | .error (.fault c d) =>
      if bit mode 1 then .error (.fault c d)
      else emitAll f (spendFail hw (dieOf f.core) (f.core % 64)) [tokOf f .fault f.a.value false (BitVec.ofNat 7 c)]
    | .ok (hw, x) =>
      let c := coreAt hw f.core
      let has := c.tlb.any fun y => xlSame y x && y.px
      let n := (c.tlb.filter fun y => y.px).length
      if !has && decide (32 ≤ n) then out f hw f.a.value
      else
        let pa := x.pa + (va - x.va)
        let tile := paLC pa = ownLC hw && inAperture (paLocal pa)
        let aux := x.size + b2n x.w * 4 + b2n tile * 8
        do
          let hw ← setPx f hw x
          emitAll f hw [tokOf f .paddr (BitVec.ofNat 64 pa) f.psn (BitVec.ofNat 7 aux)]

/-- XLATE and LEAP take the turn of LSID 0 in chain mode, as every instruction of class 6 does (06 R164, R182, 07 R204). -/
def xlMeaning (go : Fire → Mem → Hw → Except Stop Hw) : Meaning :=
  { ls := .load, endMode := .fwdA, ownNull := true, notFire := memNotFire .load
    poison := fun f m hw => passPoison f m (countIssued hw f.site f.w.ls.toNat)
    body := fun f m hw => do
      let hw ← go f m hw
      .ok (countIssued hw f.site f.w.ls.toNat) }

/-- XLATE (13 R342). -/
def execXlate (w : Fields) (s : State) : Res State :=
  fire specXlate
    (xlMeaning fun f m hw =>
      if f.a.kind = .fault then fwd f hw f.a f.tag
      else if (nullAux f.data).isSome then passNull f m hw
      else if 4 ≤ f.b.value.toNat then .error (outOfRange 1 f.b.value)
      else if f.a.kind = .paddr then fwd f hw f.a f.tag
      else xlateBody f hw) w s

/-- LEAP. -/
def specLeap : OpSpec := { op := 0x187#9, arity := 2, oms := [0, 2], kinds := kindsXl }
/-- LEAP (13 R343). -/
def execLeap (w : Fields) (s : State) : Res State :=
  fire specLeap
    (xlMeaning fun f m hw =>
      if f.a.kind = .fault then fwd f hw f.a f.tag
      else if (nullAux f.data).isSome then passNull f m hw
      else if f.a.kind = .paddr then
        let b : Nat := f.a.value.toNat % 2 ^ 56
        let page : Nat := pageBytes (f.a.aux.toNat % 4)
        let n : Int := (b : Int) + f.b.value.toInt
        if 0 ≤ n ∧ n / (page : Int) = ((b / page : Nat) : Int) then
          emitAll f hw [tokOf f .paddr (BitVec.ofNat 64 n.toNat) f.psn f.a.aux]
        else emitAll f hw [tokOf f .fault (BitVec.ofNat 64 (ofSigned 56 n)) false (BitVec.ofNat 7 cPROT)]
      else out f hw (f.a.value + f.b.value)) w s

end Sys2Proof.Machine
end

