-- ==== Sys2Proof/Machine/Home.lean ====
section
/-! DEFINITION. The residency table (10 R264, R268 to R272), and every write at a home with what follows it: monitor
tests (11 R312) and stale notices (10 R270). -/
namespace Sys2Proof.Machine

/-! ## Tiles and residency -/

/-- The tile-table entry that a tile reference names for an ASID (07 R221, 10 R264). -/
def tileRec (hw : Hw) (asid : BitVec 10) (tref : Nat) : TileRec :=
  tget hw.pkg.tiles {} (asid.toNat * 4096 + bits tref 20 12)

/-- Whether a tile reference fails subcause 4 of 10 Table 10.2. -/
def badTref (hw : Hw) (asid : BitVec 10) (tref : Nat) : Bool :=
  let t := tileRec hw asid tref
  !t.valid || decide (t.rows ≤ bits tref 10 10) || decide (t.cols ≤ bits tref 0 10)

/-- The first VA and the size of a tile's source range (10 R264). -/
def sourceRange (hw : Hw) (asid : BitVec 10) (tref : Nat) : Nat × Nat :=
  let t := tileRec hw asid tref
  (t.base + (bits tref 10 10 * t.cols + bits tref 0 10) * t.bytes, t.bytes)

/-- Whether an entry has a key (10 R268). -/
def resIs (e : ResEntry) (asid : BitVec 10) (tref : BitVec 32) (loc : Nat) : Bool :=
  e.asid = asid && e.tref = tref && e.loc = loc

/-- The entry to evict from a full table: the longest stale, else the longest valid, else the filling one made first, none
of them pinned (10 R272, Table 10.5). -/
def resVictim (l : List ResEntry) : Option ResEntry :=
  match argMin (·.made) (l.filter fun e => !e.pin && e.state == .stale) with
  | some e => some e
  | none => match argMin (·.made) (l.filter fun e => !e.pin && e.state == .valid) with
    | some e => some e
    | none => argMin (·.made) (l.filter fun e => !e.pin && e.state == .filling)

/-- Valid resident bytes of a reference of an ASID in a table. -/
def bytesIn (l : List ResEntry) (r : BitVec 10 × BitVec 32) : Nat :=
  ((l.filter fun e => e.state == .valid && e.asid = r.1 && e.tref = r.2).map (·.bytes)).sum

/-- The references whose valid bytes differ between two tables. -/
def changedRefs (old new : List ResEntry) : List (BitVec 10 × BitVec 32) :=
  (((old ++ new).map fun e => (e.asid, e.tref)).eraseDups).filter fun r => bytesIn old r != bytesIn new r

/-- Updates references in the residency directory of every die: 16,384 of them are kept, those updated last (10 R273). -/
def dirTouch (rs : List (BitVec 10 × BitVec 32)) (l : List (BitVec 10 × BitVec 32)) : List (BitVec 10 × BitVec 32) :=
  (rs ++ l.filter fun x => !rs.contains x).take 16384

/-- Writes a cluster's residency table; a change of valid bytes reaches every directory (10 R273). -/
def setRes (hw : Hw) (cl : Nat) (l : List ResEntry) : Hw :=
  let rs := changedRefs (clAt hw cl).res l
  modPkg (modCl hw cl fun c => { c with res := l }) fun p => { p with refDir := dirTouch rs p.refDir }

/-- Makes or replaces an entry of a cluster's table; false, and counted, where every entry is pinned (10 R269,
R272). -/
def resMake (hw : Hw) (cl : Nat) (e : ResEntry) : Hw × Bool :=
  let (n, hw) := stamp hw
  let c := clAt hw cl
  let e := { e with made := n }
  let l := c.res.filter fun x => !resIs x e.asid e.tref e.loc
  if l.length < 4096 then (setRes hw cl (l ++ [e]), true)
  else match resVictim l with
    | some v => (setRes hw cl ((l.filter fun x => x != v) ++ [e]), true)
    | none => (setCl hw cl { c with resLost := c.resLost + 1 }, false)

/-- Ends the filling of the entry that was made at a stamp, if nothing has replaced it: valid with its bytes, stale if a notice
reached it or the copy failed (10 R269, R270). -/
def resFill (hw : Hw) (cl at' bytes : Nat) (ok : Bool) : Hw :=
  let (n, hw) := stamp hw
  let done := fun (e : ResEntry) =>
    { e with state := if ok && !e.notice then .valid else .stale, notice := false, made := n, bytes := if ok then bytes else e.bytes }
  setRes hw cl (mapFirst (fun e => e.made = at' && e.state == .filling) done (clAt hw cl).res)

/-- LOC of a local tile address in its cluster (10 Table 10.5). -/
def locOf (l : Nat) : Nat := tileOf l % 16

/-- Whether a walk maps a byte of a VA range to one of the `w` physical bytes from `pa` (10 R270). -/
def rangeHits (m : Mem) (hw : Hw) (asid : BitVec 10) (va bytes pa w : Nat) : Bool :=
  (List.range ((va + bytes + 4095) / 4096 - va / 4096)).any fun i =>
    let v := (va / 4096 + i) * 4096
    match walk m hw 0 asid v false with
    | .ok (x, _, _) =>
      let lo := x.pa + (max va v - x.va)
      decide (lo < pa + w ∧ pa < lo + (min (va + bytes) (v + 4096) - max va v))
    | .error _ => false

/-- Stale notices of a write to `w` bytes of memory: one for each filling or valid entry that covers a line of them (10
R270). -/
def notify (m : Mem) (hw : Hw) (l w : Nat) : Hw :=
  if inRegs l then hw
  else
    let new := hw.cls.flatMap fun c => (c.2.res.filter fun e =>
        (e.state == .filling || e.state == .valid) &&
          (let r := sourceRange hw e.asid e.tref.toNat
           rangeHits m hw e.asid r.1 r.2 (ownPa hw (lineOf l)) (lineOf (l + w + 63) - lineOf l))).map fun e =>
        (c.1, e.asid, e.tref)
    { hw with notices := hw.notices ++ new }

/-! ## Monitors (11 R312, R323) -/

/-- Whether a monitored word meets its condition (11 R323). -/
def monHolds (cond : BitVec 2) (w v : Nat) (y : Word) : Bool :=
  let u := bits y.toNat 0 (8 * w)
  match cond.toNat with
  | 0 => v == u
  | 1 => v != u
  | 2 => decide (u ≤ v)
  | _ => decide (v < u)

/-- Completes a WAITA at its core with a value and status (11 R323). -/
def monDone (hw : Hw) (s : Site) (w v : Nat) (sgn psn : Bool) (status : Nat) : Hw :=
  settle hw s (do
    let hw ← emitList hw s (siteSrc s) s.t0 [mkTok 0 s.tag .data (extend sgn w v) 0 psn]
    emitList hw s (siteSrc s) s.t1 [mkTok 0 s.tag .data (BitVec.ofNat 64 status)])

/-- Completes a monitor entry: at its core, or by a reply to another package, which carries no poisoned data
(16 R410, R412). -/
def monEnd (m : Mem) (hw : Hw) (e : MonEntry) (status : Nat) : Hw :=
  let v := memRead m e.addr e.width
  let psn := rangePsn m e.addr e.width
  match e.remote with
  | none => monDone hw e.site e.width v e.sx psn status
  | some (lc, u, gen) =>
    fabSend hw (homeCluster e.addr / 8) lc 1 (.reply u (if psn then 0 else BitVec.ofNat 64 v) (BitVec.ofNat 9 status) psn false gen)

/-- Tests the monitor entries of a cluster after a write to `w` bytes from `l` (11 R312). -/
def testMonitorsOf (m : Mem) (l w : Nat) (hw : Hw) (k : Nat) : Hw :=
  let hit := fun (e : MonEntry) => decide (e.addr < l + w ∧ l < e.addr + e.width) &&
    monHolds e.cond e.width (memRead m e.addr e.width) e.y
  let done := (clAt hw k).mons.filter hit
  if done.isEmpty then hw
  else
    let hw := modCl hw k fun c => { c with mons := c.mons.filter fun e => !hit e }
    done.foldl (fun hw e => monEnd m hw e 0) hw

/-- Tests the monitor entries of a home cluster after a write to `w` bytes of a line from `l` (11 R312). -/
def testMonitors (m : Mem) (hw : Hw) (l w : Nat) : Hw := testMonitorsOf m l w hw (homeCluster l)

/-! ## Writes at a home -/

/-- What follows a write of `w` bytes from local address `l` at its home. -/
def afterWrite (m : Mem) (hw : Hw) (l w : Nat) : Hw := notify m (testMonitors m hw l w) l w

/-- A write of at most a line at a home (11 R298), with its tests and notices. -/
def homeWrite (m : Mem) (hw : Hw) (l w v : Nat) (psn : Bool) : Mem × Hw :=
  let m := memStore m l w v psn
  (m, afterWrite m hw l w)

/-- A write of bytes of one line with a poison mark; a whole line written without poison clears its poison
(07 R200). -/
def homeWriteBytes (m : Mem) (hw : Hw) (l : Nat) (bs : List Byte) (psn : Bool) : Mem × Hw :=
  let m := putBytes m l bs
  let m := if psn then poisonRange m l bs.length else cleanRange m l bs.length
  (m, afterWrite m hw l bs.length)

/-- Keeps the granule of HBM that a service core has written by physical address (16 R418). -/
def physWrite (hw : Hw) (l : Nat) : Hw :=
  if inHbm l then modPkg hw fun p => { p with cut := { p.cut with phys := sins p.cut.phys (l / 2 ^ 21) } } else hw

/-- What follows a write of a range that may span many homes: the tests of every cluster's monitors, and the notices. -/
def afterRange (m : Mem) (hw : Hw) (l w : Nat) : Hw := notify m ((List.range 32).foldl (testMonitorsOf m l w) hw) l w

/-- The zeroing of a range on change of owner (07 R200, 15 R394). -/
def homeZero (m : Mem) (hw : Hw) (l w : Nat) : Mem × Hw :=
  let m := memZero m l w
  (m, afterRange m hw l w)

/-! ## Translation at once -/

/-- A translation made at once, for a block fetch and a store translated again at its release: a hit, the directory's, or a
walk that sets A and D at the entry's home (13 R336, R338, R346); none while the directory has no room for it, or a granule of
the walk is being zeroed (15 R394). -/
def translateNow (m : Mem) (hw : Hw) (die holder : Nat) (asid : BitVec 10) (va : Nat) (write : Bool) :
    Option (Mem × Hw × Except XlFail Xlat) :=
  let l := holderTlb hw die holder
  match l.find? fun x => xlServes x asid va write with
  | some x => some (m, setHolderTlb hw die holder (tlbTouch l x), .ok x)
  | none =>
    match (dieAt hw die).dir.find? fun e => xlServes e.x asid va write with
    | some e => (returnXlat (modDie hw die fun d => { d with dhits := d.dhits + 1 }) die holder e.x).map fun hw => (m, hw, .ok e.x)
    | none => if walkWaits m hw die asid va then none else
      let hw := modDie hw die fun d => { d with walks := d.walks + 1 }
      match walk m hw die asid va write with
      | .error e => some (m, hw, .error e)
      | .ok (x, a, p) =>
        let (m, hw) := if memRead m a 8 = p then (m, hw) else homeWrite m hw a 8 p false
        (returnXlat hw die holder x).map fun hw => (m, hw, .ok x)

end Sys2Proof.Machine
end

