-- ==== Sys2Proof/Machine/Ports.lean ====
section
/-! DEFINITION. The order in which accesses are performed: at the ports of a core (07 R201, R211), behind a release store's
activation (11 R304), and at the banks of the memory tiles, with their priorities (07 R195, R202). -/
namespace Sys2Proof.Machine

/-- Whether every other store of a release store's activation has performed, but release stores of higher LSIDs (11 R304,
R318). -/
def strelDue (hw : Hw) (a : Access) : Bool :=
  !(hw.acc.any fun y => y.id != a.id && y.core = a.core && y.seq = a.seq && y.kind == .store &&
      !(y.strel.isSome && decide (a.lsid < y.lsid))) &&
    !((coreAt hw a.core).releaseQ.any fun b => b.seq = a.seq && !(b.strel.isSome && decide (a.lsid < b.lsid)))

/-- The home of an address, as a number: a logical chip, a tile, register space or a cluster store. -/
def homeKey (hw : Hw) (pa : Nat) : Nat :=
  let l := paLocal pa
  if paLC pa ≠ ownLC hw then 2048 + paLC pa
  else if inAperture l then 512 + tileOf l
  else if inRegs l then 256
  else homeCluster l

/-- Whether one access of a port holds a later one back: to the same bytes, of two atomics to the same home, or as a bank has
refused it (07 R201, R202, R211); and an atomic that a bank has refused every later atomic of its pipeline, of whatever core
(R202). A release store does not hold the other stores of its activation (11 R304). -/
def holdsBack (hw : Hw) (y a : Access) : Bool :=
  let overlap := decide (y.pa < a.pa + a.width ∧ a.pa < y.pa + y.width)
  let sameHome := a.port = 3 && homeKey hw y.pa = homeKey hw a.pa
  let free := y.strel.isSome && y.kind == .store && a.kind == .store && y.seq = a.seq
  let refused := decide (0 < y.refused)
  y.port = a.port && !y.sent && !free && (if y.core = a.core then overlap || sameHome || refused else sameHome && refused)

/-- Whether access `n` of those on their way may be performed, or leave, now. -/
def accDue (hw : Hw) (n : Nat) (a : Access) : Bool :=
  !a.sent && !((hw.acc.take n).any fun y => holdsBack hw y a) && (a.strel.isNone || strelDue hw a)

/-- The banks of memory tiles that hold `w` bytes at a local address (07 R195). -/
def banksAt (l w : Nat) : List Nat :=
  if w = 0 || !inAperture l then [] else (List.range (min 16 ((l + w + 7) / 8 - l / 8))).map fun i => tileOf l * 16 + bits (l + 8 * i) 3 4

/-- The banks that an access takes. -/
def banksOf (hw : Hw) (a : Access) : List Nat := if paLC a.pa ≠ ownLC hw then [] else banksAt (paLocal a.pa) a.width

/-- Whether two lists of banks have one in common. -/
def shareBank (x y : List Nat) : Bool := x.any fun k => y.contains k

/-- Whether two accesses want a bank in common. -/
def sameBank (hw : Hw) (a b : Access) : Bool := shareBank (banksOf hw a) (banksOf hw b)

/-- The place of an access in the priorities of the bank it wants: one from another core, of the block load-store unit (an
atomic enters its pipeline's input there), of a generator, of the row-buffer loader (07 R202). -/
def bankRank (hw : Hw) (a : Access) : Nat :=
  if tileOf (paLocal a.pa) / 2 ≠ a.core && !(banksOf hw a).isEmpty then 3
  else match a.kind with
    | .genRead g _ => 5 + g
    | .rowLine .. => 8
    | _ => 4

/-- Whether another access goes before this one at a bank: refused for 16 cycles, or refused already and of a higher priority
(07 R202). -/
def outranked (hw : Hw) (a : Access) : Bool :=
  hw.acc.any fun y => y.id != a.id && sameBank hw y a &&
    (decide (16 ≤ y.refused) || (decide (0 < y.refused) && decide (a.refused < 16) && decide (bankRank hw y < bankRank hw a)))

/-- The accesses that may be performed and want one of some banks have been refused once more. -/
def refuseAt (hw : Hw) (banks : List Nat) : Hw :=
  let due := ((List.range hw.acc.length).zip hw.acc).filter fun y => accDue hw y.1 y.2 && shareBank (banksOf hw y.2) banks
  let ids := due.map fun y => y.2.id
  { hw with acc := hw.acc.map fun y => if ids.contains y.id then { y with refused := y.refused + 1 } else y }

/-- Takes access `n` off its way; those that may be performed and want its bank have been refused once more. -/
def grant (hw : Hw) (n : Nat) (a : Access) : Hw :=
  let hw := refuseAt hw (banksOf hw a)
  { hw with acc := dropAt hw.acc n }

/-! ## Units that perform their accesses at once (07 R202) -/

/-- The place of the reduction port in the priorities. -/
def rankReduction : Nat := 2
/-- The place of halyard engines and service cores. -/
def rankOutside : Nat := 3
/-- The place of the spread units. -/
def rankSpread : Nat := 7

/-- Whether a request goes before a unit's access to `w` bytes at a local address: refused for 16 cycles, or refused already and
of a higher priority (07 R202). Such a unit keeps no count of its own refusals (log 94). -/
def bankBusy (hw : Hw) (rank l w : Nat) : Bool :=
  hw.acc.any fun y => shareBank (banksOf hw y) (banksAt l w) &&
    (decide (16 ≤ y.refused) || (decide (0 < y.refused) && decide (bankRank hw y < rank)))

/-- A unit's access to `w` bytes at a local address takes their banks. -/
def bankTake (hw : Hw) (l w : Nat) : Hw := refuseAt hw (banksAt l w)

end Sys2Proof.Machine
end

