-- ==== Sys2Proof/Machine/Streams.lean ====
section
/-! DEFINITION. Address generators, spread units, reduction ports and the row-buffer loader (07 R214 to R224, R426). -/
namespace Sys2Proof.Machine

/-! ## Records and ranges read or translated at firing -/

/-- Whether a scratch entry is of a firing. -/
def scratchOf (s : Site) (x : Scratch) : Bool := x.elem = s.elem && x.slot = s.slot && x.tag = s.tag

/-- Forgets what a firing has read and translated. -/
def dropScratch (hw : Hw) (s : Site) : Hw := { hw with scratch := hw.scratch.filter fun x => !scratchOf s x }

/-- Whether a released store of a core to some bytes has not performed yet (07 R201). -/
def storePending (hw : Hw) (core pa w : Nat) : Bool :=
  hw.acc.any fun a => a.core = core && a.port = 0 && a.kind == .store && decide (a.pa < pa + w ∧ pa < a.pa + a.width)

/-- The byte that a read by the block load-store unit of a firing gives now (06 R181, 07 R200). -/
def readByteNow (m : Mem) (hw : Hw) (s : Site) (pa : Nat) : Byte × Bool :=
  match forwardByte hw s pa with
  | some v => v
  | none => (memByte m (paLocal pa), linePsn m (paLocal pa))

/-- The words of a 64-byte record at a formed address, with their poison: at once from this package, one remote load
a word from another (07 R218, 10 R287, 13 R347). -/
def readRecord (f : Fire) (m : Mem) (hw : Hw) (a : Loc) : Except Stop (Hw × List Word × Bool) :=
  if !isRemote hw a then
    if filtered hw f.core a.pa || storePending hw f.core a.pa 64 then .error (.wait hw)
    else
      let bs := (List.range 64).map fun i => readByteNow m hw f.site (a.pa + i)
      .ok (hw, (List.range 8).map fun i => BitVec.ofNat 64 (ofBytes (((bs.drop (8 * i)).take 8).map (·.1))), bs.any (·.2))
  else
    let mine := hw.scratch.filter fun x => scratchOf f.site x && !x.page
    let missing := (List.range 8).filter fun i => !(mine.any fun x => x.key = a.pa + 8 * i)
    if missing.isEmpty && mine.all fun x => x.got.isSome then
      let ws := (List.range 8).map fun i => ((mine.find? fun x => x.key = a.pa + 8 * i).bind (·.got)).getD (0, false)
      .ok (dropScratch hw f.site, ws.map (·.1), ws.any (·.2))
    else
      let hw := missing.foldl (fun hw i =>
        let hw := postAccess hw (accessOf f hw 0 .fetchWord { a with pa := a.pa + 8 * i } 8)
        { hw with scratch := hw.scratch ++
          [{ elem := f.site.elem, slot := f.site.slot, tag := f.tag, page := false, key := a.pa + 8 * i, got := none }] }) hw
      .error (.wait hw)

/-- The address bits of a base token. -/
def baseNum (t : Token) : Nat := if t.kind = .paddr then t.value.toNat % 2 ^ 56 else t.value.toNat

/-- What the accesses of a range need: width, access code (07 Table 7.4), permissions, the unit of the core that asks for
translations (0: the firing itself), and whether every row must be aligned, not the base alone. -/
structure RangeUse where
  w     : Nat
  acc   : Nat
  needR : Bool
  needW : Bool
  unit  : Nat := 0
  steps : Bool := true
  deriving DecidableEq, Repr

/-- One page of a range: from scratch, or translated now and kept (07 R220). -/
def rangePage (s : Site) (t : Token) (u : RangeUse) (hw : Hw) (off : Nat) : Except Stop (Hw × Nat) :=
  let key := baseNum t + off
  match hw.scratch.find? fun x => scratchOf s x && x.page && x.key = key with
  | some x => .ok (hw, (x.got.getD (0, false)).1.toNat)
  | none => do
    let (hw, l) ← formAddr hw (coreOf s.elem) s.frame s.asid t off 1 u.acc u.needR u.needW u.unit
    let e : Scratch := { elem := s.elem, slot := s.slot, tag := s.tag, page := true, key := key
                         got := some (BitVec.ofNat 64 l.pa, false) }
    .ok ({ hw with scratch := hw.scratch ++ [e] }, l.pa)

/-- The pages of a range after its first, each at the tile offset its distance from the base gives (07 R220,
R223): `l` lists their distances, `pa` is the base's physical address. -/
def rangeRest (s : Site) (t : Token) (u : RangeUse) (pa : Nat) : Hw → List Nat → Except Stop Hw
  | hw, [] => .ok hw
  | hw, d :: l => do
    let (hw, q) ← rangePage s t u hw d
    if q ≠ pa + d || tileOf (paLocal q) ≠ tileOf (paLocal pa) then .error (outOfRange 0 t.value)
    else rangeRest s t u pa hw l

/-- Whether a row of a range, or its table, has a byte in the page that begins `d` bytes after the range's base. -/
def pageUsed (rows len stride tail d : Nat) : Bool :=
  let r := if d < len then 0 else (d - len) / stride + 1
  decide (r < rows ∧ r * stride < d + 4096) || decide (0 < tail ∧ rows * stride < d + 4096 ∧ d < rows * stride + tail)

/-- A range of `rows` rows of `len` bytes, `stride` apart, at a base token, translated page by page (07 R220, R222, R223, 08
R243): its base's local address in one memory tile. A page that holds no byte of a row is not translated. -/
def rangeAt (s : Site) (t : Token) (u : RangeUse) (hw : Hw) (rows len stride : Nat) (tail : Nat := 0) :
    Except Stop (Hw × TileRange) := do
  let n := baseNum t
  let isPa := t.kind == .paddr
  let step := if rows = 1 || !u.steps then 0 else stride
  if n % u.w ≠ 0 then .error (.fault cMISALIGNED (memDetail n u.acc isPa 0))
  if (n + step) % u.w ≠ 0 then .error (.fault cMISALIGNED (memDetail (n + step) u.acc isPa 0))
  let (hw, pa) ← rangePage s t u hw 0
  if paLC pa ≠ ownLC hw || !inAperture (paLocal pa) then .error (outOfRange 0 t.value)
  let pages := (((List.range 130).map fun i => (i + 1) * 4096 - n % 4096)).filter fun d => pageUsed rows len stride tail d
  let hw ← rangeRest s t u pa hw pages
  if 0x80000 < paLocal pa % 0x80000 + rangeSpan rows len stride tail then .error (outOfRange 0 t.value)
  .ok (dropScratch hw s, { tok := t, base := paLocal pa, rows := rows, len := len, stride := stride, tail := tail })

/-- The range of a session that goes on: translated again if a translation that it may have used has been removed (13 R337). -/
def freshRange (s : Site) (u : RangeUse) (hw : Hw) (r : TileRange) : Except Stop (Hw × TileRange) :=
  if r.stale then rangeAt s r.tok u hw r.rows r.len r.stride r.tail else .ok (hw, r)

/-- The next event of a session whose range is to be translated again: it waits for the translation, or, where that fails, its
element freezes. The spec says what such a failure does to a generator and to a halyard unit alone: DESIGN CHOICE (log 74). -/
def retryRange (st : State) (s : Site) : Stop → Res State
  | .wait hw => .next { st with hw := { hw with waited := true } }
  | .fault c d => .next { st with hw := freeze (dropScratch st.hw s) s.elem s.slot s.tag s.op (.issued s.slot s.tag none) c d }

/-! ## Generators (07 R214 to R219) -/

/-- A word of a descriptor. -/
def dWord (d : List Word) (i : Nat) : Nat := (d.getD i 0).toNat
/-- The count along a dimension (07 Table 7.7). -/
def gCount (d : List Word) (k : Nat) : Nat := bits (dWord d 1) (16 * k) 16 + 1
/-- The number of positions of a walk. -/
def gTotal (d : List Word) : Nat := gCount d 0 * gCount d 1 * gCount d 2
/-- The element width in bytes. -/
def gWidth (d : List Word) : Nat := 2 ^ bits (dWord d 1) 48 2
/-- The stride of a dimension. -/
def gStride (d : List Word) (k : Nat) : Int :=
  toSigned 32 (match k with
    | 0 => bits (dWord d 2) 0 32
    | 1 => bits (dWord d 2) 32 32
    | _ => bits (dWord d 3) 0 32)
/-- The step along a dimension of position `n` of the walk, innermost first (07 R215). -/
def gStep (d : List Word) (n k : Nat) : Nat :=
  match k with
  | 0 => n % gCount d 0
  | 1 => n / gCount d 0 % gCount d 1
  | _ => n / (gCount d 0 * gCount d 1)
/-- The coordinate along a dimension of position `n`. -/
def gCoord (d : List Word) (n k : Nat) : Int := toSigned 16 (bits (dWord d 4) (16 * k) 16) + gStep d n k
/-- The address of position `n`, none if it lies outside the tensor (07 R215). -/
def gAddr (d : List Word) (n : Nat) : Option Int :=
  if [0, 1, 2].all fun k => decide (0 ≤ gCoord d n k ∧ gCoord d n k < (bits (dWord d 5) (16 * k) 16 : Nat)) then
    some ((bits (dWord d 0) 0 48 : Nat) + gCoord d n 0 * gStride d 0 + gCoord d n 1 * gStride d 1 + gCoord d n 2 * gStride d 2)
  else none
/-- The rank of the END after position `n`: the highest enabled rank that closes there, 0 if none (07 R215). -/
def gClose (d : List Word) (n : Nat) : Nat :=
  let c0 := gStep d n 0 + 1 == gCount d 0
  let c1 := c0 && gStep d n 1 + 1 == gCount d 1
  let c2 := c1 && gStep d n 2 + 1 == gCount d 2
  let en := fun k => bit (dWord d 1) (52 + k)
  if c2 && en 3 then 3 else if c1 && en 2 then 2 else if c0 && en 1 then 1 else 0

/-- The first word of a descriptor with a field that is not allowed (07 R214). -/
def badStream (d : List Word) : Option Nat :=
  let bad := fun i => match i with
    | 0 => bits (dWord d 0) 48 16 != 0
    | 1 => decide (2 ≤ bits (dWord d 1) 50 2) || bits (dWord d 1) 56 8 != 0
    | 2 => false
    | 3 => bits (dWord d 3) 32 32 != 0
    | 4 => bits (dWord d 4) 48 16 != 0
    | 5 => bits (dWord d 5) 48 16 != 0
    | _ => dWord d i != 0
  (List.range 8).find? bad

/-- A generator of a core. -/
def genAt (hw : Hw) (c g : Nat) : Gen := tget (coreAt hw c).gens {} g
/-- Writes a generator of a core. -/
def setGen (hw : Hw) (c g : Nat) (x : Gen) : Hw := modCore hw c fun k => { k with gens := tput k.gens {} g x }

/-- The outputs of a poisoned STREAM or WRING: a poisoned DATA, one closing END, ORDER (07 R426). -/
def poisonStream (rank : BitVec 2) (f : Fire) (_ : Mem) (hw : Hw) : Except Stop Hw := do
  let hw := countIssued hw f.site f.w.ls.toNat
  let hw ← emit0 f hw [tokOf f .data 0 true, tokOf f .endm 0 false 0 rank]
  emit1 f hw [tokOf f .order]

/-- The generator that XF names. -/
def genOf (w : Fields) : Nat := (w.xf.extractLsb' 0 1).toNat

/-- STREAM. -/
def specStream : OpSpec :=
  { op := 0x195#9, arity := 1, anyLs := true, xfOk := fun n => decide (n < 2), kinds := kindsMem
    fieldFault := fun w => if targetKind w.t0 = 0 then some 7 else none }
/-- STREAM (07 R218). -/
def execStream (w : Fields) (s : State) : Res State :=
  fire specStream
    { ls := .load, endMode := .fwdA, notFire := memNotFire .load, poison := poisonStream 3
      body := fun f m hw =>
        if tokPsn f.a then poisonStream 3 f m hw
        else do
          let (hw, a) ← formAddr hw f.core f.frame f.asid f.a 0 64 4 true false
          let (hw, d, psn) ← readRecord f m hw a
          if psn then poisonStream 3 f m hw
          else match badStream d with
            | some i => .error (badField i (d.getD i 0))
            | none =>
              let g := genOf f.w
              if (genAt hw f.core g).state ≠ .idle then .error (.wait hw)
              else .ok (setGen (countIssued hw f.site f.w.ls.toNat) f.core g
                { state := .running, desc := d, site := some f.site }) } w s

/-- Whether the target of a stream takes a token: its links have room, and its consumer does not hold it back (07 R216, 00
R9). -/
def streamRoom (hw : Hw) (s : Site) (target : BitVec 22) (t : Token) : Bool :=
  match targetCont hw s target with
  | none => true
  | some (cont, keeps) =>
    let t := { t with cont := cont, tag := if keeps then s.tag else 0 }
    contLC cont != ownLC hw || (!refuses hw t && !linksFull hw t)

/-- Whether reads of a generator have not performed yet. -/
def genReads (hw : Hw) (c g : Nat) : Bool :=
  hw.acc.any fun a => a.core = c && (match a.kind with
    | .genRead g' _ => g' == g
    | _ => false)

/-- The fault record of a generator and its report, once it has emitted every earlier position (07 R217). -/
def genStop (hw : Hw) (c g code detail : Nat) (pos : Nat) : Hw :=
  let x := genAt hw c g
  let r : GenRec :=
    { valid := true, reason := BitVec.ofNat 4 (bits detail 52 4), code := BitVec.ofNat 8 code
      qocc := BitVec.ofNat 7 x.queue.length, pos := BitVec.ofNat 40 pos, fva := BitVec.ofNat 48 detail }
  report (setGen hw c g { x with state := .stopped, record := r, fail := none }) (clOf c) code r.fva.toNat

/-- Returns a generator to idle, and answers the STRMKs that wait for it (07 R219). -/
def genIdle (hw : Hw) (c g : Nat) : Hw :=
  let x := genAt hw c g
  let hw := setGen hw c g {}
  x.waiters.foldl (fun hw s => settle hw s (emitBoth hw s [mkTok 0 s.tag .order])) hw

/-- Sends tokens of a stream to the T0 of its STREAM or WRING. -/
def streamOut (hw : Hw) (s : Site) (ts : List Token) : Hw := settle hw s (emitList hw s (siteSrc s) s.t0 ts)
/-- Sends tokens to a site's T1. -/
def doneOut (hw : Hw) (s : Site) (ts : List Token) : Hw := settle hw s (emitList hw s (siteSrc s) s.t1 ts)

/-- The end of a stream that is cancelled or aborted: one END of rank 3 unless the walk has sent its own, then
the last token on T1 (07 R217, R219). -/
def genFinish (hw : Hw) (c g : Nat) (last : Token) : Hw :=
  let x := genAt hw c g
  match x.site with
  | none => genIdle hw c g
  | some s =>
    let hw := if x.ended3 then hw else streamOut hw s [mkTok 0 s.tag .endm 0 0 false 3]
    genIdle (doneOut hw s [{ last with tag := s.tag }]) c g

/-- The last token of a cancelled stream on T1: ORDER, or the FAULT of an abort (07 R217). -/
def genLast (x : Gen) (tag : BitVec 20) : Token :=
  match x.fail with
  | none => mkTok 0 tag .order
  | some (code, detail, _) => mkTok 0 tag .fault (BitVec.ofNat 64 (bits detail 0 48)) (BitVec.ofNat 7 code)

/-- The next token of a generator, if it has one to emit and T0 takes it; of one that has met a fault, the stop once earlier
positions are out; of a cancelled one, the end once its reads have performed (07 R215 to R219, 11 R301). -/
def genEmit (hw : Hw) (c g : Nat) : Option Hw :=
  let x := genAt hw c g
  match x.site with
  | none => none
  | some s =>
    let sent := fun (t : Token) (y : Gen) =>
      if streamRoom hw s s.t0 t then some (setGen (streamOut hw s [t]) c g y) else none
    let flush := fun (n : Nat) => sent (mkTok 0 s.tag .null 0 (BitVec.ofNat 7 (n - 1))) { x with run := x.run - n }
    let close := fun (n : Nat) => mkTok 0 s.tag .endm 0 0 false (BitVec.ofNat 2 n)
    let rank := fun (n : Nat) => gClose x.desc n
    if x.state = .stopped then none
    else if x.state = .cancelling then
      if genReads hw c g || !(x.ended3 || streamRoom hw s s.t0 (close 3)) then none
      else some (genFinish hw c g (genLast x s.tag))
    else if 128 ≤ x.run then flush 128
    else if x.endDue then
      if 0 < x.run then flush x.run
      else sent (close (rank (x.emitted - 1))) { x with endDue := false, ended3 := decide (rank (x.emitted - 1) = 3) }
    else match x.queue with
      | .empty :: q =>
        some (setGen hw c g { x with queue := q, run := x.run + 1, emitted := x.emitted + 1, endDue := decide (0 < rank x.emitted) })
      | .value v p :: q =>
        if 0 < x.run then flush x.run
        else sent (mkTok 0 s.tag .data v 0 p)
          { x with queue := q, emitted := x.emitted + 1, endDue := decide (0 < rank x.emitted) }
      | .pending _ :: _ => none
      | [] => match x.fail with
        | some (code, detail, pos) => if 0 < x.run then flush x.run else some (genStop hw c g code detail pos)
        | none =>
          if x.emitted < gTotal x.desc then none
          else if 0 < x.run then flush x.run
          else some (genIdle (doneOut hw s [mkTok 0 s.tag .order]) c g)

/-- A generator meets a fault at a position: it issues no more, and stops behind the positions before it (07 R217). -/
def genFail (hw : Hw) (c g code detail pos : Nat) : Hw :=
  let x := genAt hw c g
  setGen hw c g { x with queue := x.queue.take (pos - x.emitted), issued := pos, fail := some (code, detail, pos) }

/-- The issue of a generator's next position (07 R215 to R217). -/
def genIssue (hw : Hw) (c g : Nat) : Option (Except Stop Hw) :=
  let x := genAt hw c g
  match x.site with
  | none => none
  | some s =>
    if x.state ≠ .running || x.fail.isSome || decide (gTotal x.desc ≤ x.issued) || decide (64 ≤ x.queue.length) then none
    else
      let put := fun (hw : Hw) (p : GenPos) =>
        let x := genAt hw c g
        setGen hw c g { x with queue := x.queue ++ [p], issued := x.issued + 1 }
      match gAddr x.desc x.issued with
      | none => some (.ok (put hw .empty))
      | some ad =>
        let w := gWidth x.desc
        if bits (dWord x.desc 1) 50 2 = 1 then some (.ok (put hw (.value (BitVec.ofInt 64 ad) false)))
        else
          let va := ofSigned 48 ad
          let stop := fun (code detail : Nat) => some (.ok (genFail hw c g code detail x.issued))
          if ad < 0 ∨ 2 ^ 48 ≤ ad then stop cPROT (memDetail va 3 false 5)
          else if va % w ≠ 0 then stop cMISALIGNED (memDetail va 3 false 0)
          else match vaLoc hw c s.frame s.asid va 3 true false (1 + g) with
            | .error (.wait hw) => some (.error (.wait hw))
            | .error (.fault code d) => stop code d
            | .ok (hw, a) =>
              let id := hw.ids
              let hw := postAccess hw
                { id := id, core := c, port := 1 + g, kind := .genRead g x.issued, va := a.addr, isPa := false, pa := a.pa
                  width := w, data := 0, psn := false, fwd := [], site := s, seq := s.seq.getD 0, lsid := 0, strel := none
                  gen := genOfCl hw (clOf c) }
              some (.ok (put hw (.pending id)))

/-- The end of an event that may wait. -/
def eventEnd (s : State) (r : Except Stop Hw) : Res State :=
  match r with
  | .ok hw => .next { s with hw := hw }
  | .error (.wait hw) => .next { s with hw := { hw with waited := true } }
  | .error (.fault _ _) => .fault .notEnabled

/-- GENERATOR_STEP: a generator emits its next token or issues its next position; where both are ready the order
is open (07 R216). -/
def execGeneratorStep (core g : Nat) (s : State) : Res State :=
  match genEmit s.hw core g, genIssue s.hw core g with
  | none, none => .fault .notEnabled
  | some hw, none => .next { s with hw := hw }
  | none, some r => eventEnd s r
  | some hw, some r =>
    if Config.choice s.hw.free % 2 = 0 then .next { s with hw := { hw with free := s.hw.free + 1 } }
    else match r with
      | .ok h => .next { s with hw := { h with free := s.hw.free + 1 } }
      | .error _ => .next { s with hw := { hw with free := s.hw.free + 1 } }

/-- The value of a generator's read reaches its queue (07 R216). -/
def genFill (hw : Hw) (c g pos id v : Nat) (psn : Bool) : Hw :=
  let x := genAt hw c g
  let sgn := bit (dWord x.desc 1) 52
  let i := pos - x.emitted
  if x.queue[i]? = some (.pending id) then
    setGen hw c g { x with queue := putAt x.queue i (.value (extend sgn (gWidth x.desc) v) psn) }
  else hw

/-- The OpSpec of STRMK (07 R219). -/
def specStrmk : OpSpec :=
  { op := 0x196#9, arity := 2, oms := [2], anyLs := true, xfOk := fun n => decide (n < 2)
    kinds := fun _ => [.data, .null, .order, .paddr], fieldFault := needK fun k => decide (k.toNat ≤ 2) }

/-- The meaning of a STRMK op: its PSN is ignored, a poisoned predicate poisons its outputs (07 R219, R426). -/
def strmkMeaning (go : Fire → Hw → Except Stop Hw) : Meaning :=
  { ls := .load, notFire := memNotFire .load
    poison := fun f m hw => passPoison f m (countIssued hw f.site f.w.ls.toNat)
    body := fun f _ hw => go f (countIssued hw f.site f.w.ls.toNat) }

/-- STRMK QUERY. -/
def specStrmkQuery : OpSpec := specStrmk
/-- STRMK QUERY: state, queue occupancy, positions emitted (07 R219). -/
def execStrmkQuery (w : Fields) (s : State) : Res State :=
  fire specStrmkQuery (strmkMeaning fun f hw =>
    let x := genAt hw f.core (genOf f.w)
    let st := match x.state with
      | .idle => 0
      | .running => 1
      | .stopped => 2
      | .cancelling => 3
    emitAll f hw [tokOf f .data (BitVec.ofNat 64 (st + x.queue.length * 4 + (x.emitted - x.run) * 2 ^ 9))]) w s

/-- A generator that discards what it has not emitted and ends its stream with one END of rank 3, then ORDER, or the FAULT of a
failure (07 R217, R219). -/
def genCancel (x : Gen) (fail : Option (Nat × Nat × Nat)) : Gen :=
  { x with state := .cancelling, record := {}, cancel := false, queue := [], emitted := x.emitted - x.run, run := 0
           endDue := false, fail := fail }

/-- ORDER once a generator is idle: at once, or among its waiters (07 R219). -/
def whenIdle (f : Fire) (hw : Hw) : Except Stop Hw :=
  let g := genOf f.w
  let x := genAt hw f.core g
  if x.state = .idle then outOrder f hw
  else .ok (setGen hw f.core g { x with waiters := x.waiters ++ [f.site] })

/-- STRMK CANCEL. -/
def specStrmkCancel : OpSpec := specStrmk
/-- STRMK CANCEL: no more issue, the positions not emitted discarded; a stopped generator waits for its resume or
abort first (07 R219). -/
def execStrmkCancel (w : Fields) (s : State) : Res State :=
  fire specStrmkCancel (strmkMeaning fun f hw => do
    let g := genOf f.w
    let hw ← whenIdle f hw
    let x := genAt hw f.core g
    match x.state with
    | .running =>
      let hw := forgetFails hw (dieOf f.core) (f.core % 64)
      .ok (setGen hw f.core g (genCancel x none))
    | .stopped => .ok (setGen hw f.core g { x with cancel := true })
    | _ => .ok hw) w s

/-- STRMK DRAIN. -/
def specStrmkDrain : OpSpec := specStrmk
/-- STRMK DRAIN: ORDER once the generator is idle (07 R219). -/
def execStrmkDrain (w : Fields) (s : State) : Res State := fire specStrmkDrain (strmkMeaning whenIdle) w s

/-! ## Spread units (07 R220 to R222) -/

/-- The fields of the parameter word of WRING and SPREAD: cols, rows, stride (07 R220). -/
def rangeParam (b : Word) (w : Nat) : Except Stop (Nat × Nat × Nat) :=
  let n := b.toNat
  let cols := bits n 0 12 + 1
  let rows := bits n 12 12 + 1
  let stride := if bits n 24 24 = 0 then cols * w else bits n 24 24
  if bits n 48 16 ≠ 0 || decide (stride < cols * w) then .error (badField 0 b) else .ok (cols, rows, stride)

/-- A free spread unit of a core. -/
def freeSpread (hw : Hw) (c : Nat) : Option Nat := [0, 1].find? fun u => (tfind (coreAt hw c).spread u).isNone
/-- Gives a spread unit its work. -/
def setSpread (hw : Hw) (c u : Nat) (x : SpreadUnit) : Hw := modCore hw c fun k => { k with spread := tins k.spread u x }
/-- Frees a spread unit. -/
def endSpread (hw : Hw) (c u : Nat) : Hw := modCore hw c fun k => { k with spread := tdel k.spread u }

/-- FN[3]: the three-operand form of WRING. -/
def wring3 (w : Fields) : Bool := w.fn.getLsbD 3

/-- WRING: the operand count is FN[3]'s (07 R220). -/
def specWring (w : Fields) : OpSpec :=
  { op := 0x197#9, arity := if wring3 w then 3 else 2, oms := if wring3 w then [0, 2, 3] else [0, 2], anyLs := true
    fnOk := fun n => decide (n < 16) && n % 4 != 3, kinds := kindsMem }
/-- WRING (07 R220, R221). -/
def execWring (w : Fields) (s : State) : Res State :=
  fire (specWring w)
    { ls := .load, endMode := .fwdA, notFire := memNotFire .load, poison := poisonStream 2
      body := fun f m hw =>
        if tokPsn f.a || tokPsn f.b then poisonStream 2 f m hw
        else do
          let wd := widthOf f.w
          let (cols, rows, stride) ← rangeParam f.b.value wd
          let tref : Option (BitVec 32) := if wring3 f.w then some (f.c.value.extractLsb' 0 32) else none
          if wring3 f.w && 2 ^ 32 ≤ f.c.value.toNat then .error (outOfRange 2 f.c.value)
          let (hw, r) ← rangeAt f.site f.a { w := wd, acc := 6, needR := true, needW := false } hw rows (cols * wd) stride
          match freeSpread hw f.core with
          | none => .error (.wait hw)
          | some u =>
            let hw := countIssued (expose hw f.core f.site.seq) f.site f.w.ls.toNat
            let made := tref.map fun _ => (tileOf r.base / 16, hw.ids)
            let hw := match tref with
              | some t => (resMake hw (tileOf r.base / 16)
                  { state := .filling, pin := false, asid := f.asid, tref := t, loc := locOf r.base, bytes := 0
                    offset := r.base % 0x80000, made := 0 }).1
              | none => hw
            .ok (setSpread hw f.core u (.wring f.site r wd cols (sxOf f.w) 0 0 0 made)) } w s

/-- The tokens that one position of a wrung tile adds: its NULL run so far, its value, a close (07 R220). -/
def wringTokens (tag : BitVec 20) (run row col rows cols : Nat) (sgn : Bool) (w v : Nat) (psn : Bool) : List Token × Nat :=
  let e := (extend sgn w v).toNat % 2 ^ 32
  let data := if v = 0 then [] else nulls tag run ++ [mkTok 0 tag .data (BitVec.ofNat 64 (e + col * 2 ^ 32 + row * 2 ^ 48)) 0 psn]
  let run := if v = 0 then run + 1 else 0
  if col + 1 < cols then (data, run)
  else (data ++ nulls tag run ++ [mkTok 0 tag .endm 0 0 false (if row + 1 = rows then 2 else 1)], 0)

/-- The unit of a core, among those that ask for translations, that a spread unit is: 1 and 2 are the generators. -/
def spreadUse (u w : Nat) (needR : Bool) : RangeUse := { w := w, acc := 6, needR := needR, needW := !needR, unit := 3 + u }

/-- The element that a WRING reads next, what it emits, and what follows: after the last, ORDER and the residency entry valid
(07 R220, R221). -/
def wringStep (m : Mem) (hw : Hw) (core u : Nat) (site : Site) (r : TileRange) (w cols : Nat) (sgn : Bool) (row col run : Nat)
    (made : Option (Nat × Nat)) : Option Hw :=
  let a := r.base + row * r.stride + col * w
  let (ts, run) := wringTokens site.tag run row col r.rows cols sgn w (memRead m a w) (rangePsn m a w)
  if !ts.all (streamRoom hw site site.t0) || bankBusy hw rankSpread a w then none
  else
    let hw := streamOut (bankTake hw a w) site ts
    let (row', col') := if col + 1 = cols then (row + 1, 0) else (row, col + 1)
    if row' = r.rows then
      let hw := endSpread hw core u
      let hw := match made with
        | some (cl, n) => resFill hw cl n (r.rows * cols * w) true
        | none => hw
      some (doneOut hw site [mkTok 0 site.tag .order])
    else some (setSpread hw core u (.wring site r w cols sgn row' col' run made))

/-- WRING_EMIT: a spread unit reads its next element and emits what follows from it, if T0 takes it (07 R220, R221). -/
def execWringEmit (core u : Nat) (s : State) : Res State :=
  match tfind (coreAt s.hw core).spread u with
  | some (.wring site r w cols sgn row col run made) =>
    if r.stale && frozen s.hw site.elem then .fault .notEnabled
    else match freshRange site (spreadUse u w true) s.hw r with
      | .error e => retryRange s site e
      | .ok (hw, r) => match wringStep s.mem hw core u site r w cols sgn row col run made with
        | none => .fault .notEnabled
        | some hw => .next { s with hw := hw }
  | _ => .fault .notEnabled

/-- SPREAD. -/
def specSpread : OpSpec :=
  { op := 0x198#9, arity := 2, oms := [0, 2], anyLs := true, fnOk := fun n => decide (n < 3), kinds := kindsMem, stream := true }

/-- Whether a spread unit works for a slot. -/
def spreadIs (e slot : Nat) : SpreadUnit → Bool
  | .wring s .. => s.elem = e && s.slot = slot
  | .spread s .. => s.elem = e && s.slot = slot

/-- Opens a SPREAD session on a free unit, once the slot's earlier one has closed (07 R222). -/
def openSpread (f : Fire) (hw : Hw) (mk : SpreadUnit) : Except Stop Hw :=
  if (coreAt hw f.core).spread.any fun x => spreadIs f.site.elem f.site.slot x.2 then .error (.wait hw)
  else match freeSpread hw f.core with
    | none => .error (.wait hw)
    | some u => .ok (setSpread (countIssued (expose hw f.core f.site.seq) f.site f.w.ls.toNat) f.core u mk)

/-- A poisoned SPREAD: a session that consumes its stream and writes nothing (07 R426). -/
def spreadPoison (f : Fire) (_ : Mem) (hw : Hw) : Except Stop Hw :=
  openSpread f hw (.spread f.site { tok := f.a, base := 0, rows := 0, len := 0, stride := 0 } 1 0 0 0 true [])

/-- SPREAD (07 R222). -/
def execSpread (w : Fields) (s : State) : Res State :=
  fire specSpread
    { ls := .load, endMode := .fwdA, notFire := memNotFire .load, poison := spreadPoison
      body := fun f m hw =>
        if tokPsn f.a || tokPsn f.b then spreadPoison f m hw
        else do
          let wd := widthOf f.w
          let (cols, rows, stride) ← rangeParam f.b.value wd
          let (hw, r) ← rangeAt f.site f.a { w := wd, acc := 6, needR := false, needW := true } hw rows (cols * wd) stride
          openSpread f hw (.spread f.site r wd cols 0 0 false []) } w s

/-- Takes the token of a session off port c of its slot. -/
def takeStream (hw : Hw) (s : Site) (o : Operand) : Hw :=
  let x := elemAt hw s.elem
  setElem hw s.elem { x with ops := x.ops.filter fun y => y.stamp != o.stamp }

/-- A fault that a session raises on port c: the element freezes, the token stays (07 R222, R223). -/
def streamFault (hw : Hw) (s : Site) (t : Token) : Hw :=
  freeze hw s.elem s.slot s.tag s.op (.session s.slot s.tag) cILLFIELD (10 + 2 * 2 ^ 5 + t.value.toNat % 2 ^ 48 * 2 ^ 16)
    t.psn (Kind.code t.kind) 2

/-- Writes zeros at `n` positions of a row from a local address (07 R222). -/
def spreadZeros (m : Mem) (hw : Hw) (a w n : Nat) : Mem × Hw :=
  (List.range n).foldl (fun x i => homeWrite x.1 x.2 (a + i * w) w 0 false) (m, hw)

/-- Whether a line lies wholly in `rows` rows of `len` bytes, `stride` apart, from `base` (07 R200). -/
def lineInRange (base rows len stride l : Nat) : Bool :=
  if stride = len then decide (base ≤ l ∧ l + 64 ≤ base + rows * stride)
  else decide (base ≤ l) && decide ((l - base) / stride < rows) && decide ((l - base) % stride + 64 ≤ len)

/-- The close of a session: the poison of the lines it wrote whole without poison goes, then its outputs
(07 R200, R222, R426). -/
def closeSpread (m : Mem) (hw : Hw) (core u : Nat) (s : Site) (r : TileRange) (dead : Bool) (marked : List Nat) : State :=
  let hw := endSpread hw core u
  if dead then { mem := m, hw := settle hw s (emitBoth hw s [mkTok 0 s.tag .data 0 0 true]) }
  else
    let m := { m with poison := m.poison.filter fun l => !(lineInRange r.base r.rows r.len r.stride l && !marked.contains l) }
    { mem := m, hw := settle hw s (emitBoth hw s [mkTok 0 s.tag .order]) }

/-- A session takes token `o` of its stream, at position (`row`, `col`) (07 R222). -/
def spreadToken (s : State) (core u : Nat) (site : Site) (r : TileRange) (w cols row col : Nat) (dead : Bool)
    (marked : List Nat) (o : Operand) : State :=
  let t := o.tok
  let bad : State := { s with hw := streamFault s.hw site t }
  let hw := takeStream s.hw site o
  let a := r.base + row * r.stride + col * w
  let step := fun (n : Nat) (marked : List Nat) (m : Mem) (hw : Hw) =>
    let c := col + n
    let (row, col) := if c = cols then (row + 1, 0) else (row, c)
    ({ mem := m, hw := setSpread hw core u (.spread site r w cols row col dead marked) } : State)
  let close : State := closeSpread s.mem hw core u site r dead marked
  if dead then
    if t.kind = .endm && decide (2 ≤ t.rank.toNat) then close else { s with hw := hw }
  else match t.kind with
    | .data =>
      if r.rows ≤ row || bits t.value.toNat 32 16 ≠ col || bits t.value.toNat 48 16 ≠ row then bad
      else
        let (m, hw) := homeWrite s.mem hw a w t.value.toNat t.psn
        step 1 (if t.psn then sins marked (lineOf a) else marked) m hw
    | .null =>
      let n := t.aux.toNat + 1
      if r.rows ≤ row || cols < col + n then bad
      else
        let (m, hw) := spreadZeros s.mem hw a w n
        step n marked m hw
    | .endm =>
      let atEnd := col == 0 && decide (0 < row)
      if t.rank = 1 then
        if atEnd && decide (row < r.rows) then { s with hw := hw } else bad
      else if atEnd && row == r.rows then close
      else bad
    | _ => bad

/-- How many positions of `w` bytes a stream's token stands for: none for an END. -/
def tokenBytes (t : Token) (w : Nat) : Nat :=
  match t.kind with
  | .data => w
  | .null => (t.aux.toNat + 1) * w
  | _ => 0

/-- SPREAD_SESSION_TOKEN: a session takes the next token of its stream, once the banks that it writes are free (07 R202, R222). -/
def execSpreadSessionToken (core u : Nat) (s : State) : Res State :=
  match tfind (coreAt s.hw core).spread u with
  | some (.spread site r w cols row col dead marked) =>
    if frozen s.hw site.elem then .fault .notEnabled
    else match headAt (elemAt s.hw site.elem) site.slot site.tag 2 with
      | none => .fault .notEnabled
      | some o => match freshRange site (spreadUse u w false) s.hw r with
        | .error e => retryRange s site e
        | .ok (hw, r) =>
          let a := r.base + row * r.stride + col * w
          let n := if dead then 0 else tokenBytes o.tok w
          if bankBusy hw rankSpread a n then .fault .notEnabled
          else .next (spreadToken { s with hw := bankTake hw a n } core u site r w cols row col dead marked o)
  | _ => .fault .notEnabled

/-! ## Reduction ports (07 R223) -/

/-- The formats that RPORT takes at a width (07 R223). -/
def rportFmt (fmt w : Nat) : Bool :=
  match w with
  | 2 => [2, 3, 9, 10].contains fmt
  | 4 => [4, 5, 8].contains fmt
  | 8 => [6, 7].contains fmt
  | _ => false

/-- RPORT. -/
def specRport : OpSpec :=
  { op := 0x199#9, arity := 2, oms := [0, 2], anyLs := true, fnOk := fun n => decide (1 ≤ n ∧ n < 4), kinds := kindsMem
    stream := true }

/-- Opens a session on a tile's reduction port (07 R223). -/
def openRport (f : Fire) (hw : Hw) (tile : Nat) (x : RSession) : Except Stop Hw :=
  let c := coreAt hw f.core
  if (tfind c.rport tile).isSome || c.rport.any fun y => y.2.site.elem = f.site.elem && y.2.site.slot = f.site.slot then
    .error (.wait hw)
  else
    let hw := countIssued (expose hw f.core f.site.seq) f.site f.w.ls.toNat
    .ok (modCore hw f.core fun k => { k with rport := tins k.rport tile x })

/-- A poisoned RPORT: a session that consumes its stream and writes nothing, on the port of the tile that bit 19 of
its address names (07 R426). -/
def rportPoison (f : Fire) (_ : Mem) (hw : Hw) : Except Stop Hw :=
  openRport f hw (bits f.a.value.toNat 19 1)
    { site := f.site, range := { tok := f.a, base := 0, rows := 0, len := 0, stride := 0 }, n := 0, w := 1, op := 0
      fmt := 0, dead := true }

/-- RPORT (07 R223). -/
def execRport (w : Fields) (s : State) : Res State :=
  fire specRport
    { ls := .load, endMode := .fwdA, notFire := memNotFire .load, poison := rportPoison
      body := fun f m hw =>
        if tokPsn f.a || tokPsn f.b then rportPoison f m hw
        else do
          let wd := widthOf f.w
          let b := f.b.value.toNat
          let n := bits b 0 24 + 1
          let op := bits b 24 3
          let fmt := bits b 28 4
          if bits b 32 32 ≠ 0 || decide (4 < op) || !rportFmt fmt wd || (op == 3 && decide (8 ≤ fmt)) then
            .error (badField 0 f.b.value)
          let (hw, r) ← rangeAt f.site f.a { w := wd, acc := 7, needR := true, needW := true } hw 1 (n * wd) (n * wd)
          if tileOf r.base / 2 ≠ f.core then .error (outOfRange 0 f.a.value)
          openRport f hw (tileOf r.base % 2)
            { site := f.site, range := r, n := n, w := wd, op := op, fmt := BitVec.ofNat 4 fmt } } w s

/-- An element merged with a value by an operator of RPORT (07 R223) in a format. -/
def rportMerge (op fmt w m v : Nat) : Nat :=
  let n := 8 * w
  let v := v % 2 ^ n
  match op, fmtOf fmt with
  | 0, .flt ff => fadd ff 0 false (fdec ff m) (fdec ff v)
  | 0, _ => (m + v) % 2 ^ n
  | 1, .flt ff => fminmax ff true m v
  | 2, .flt ff => fminmax ff false m v
  | 1, .int _ true => if toSigned n m < toSigned n v then v else m
  | 2, .int _ true => if toSigned n v < toSigned n m then v else m
  | 1, _ => if m < v then v else m
  | 2, _ => if v < m then v else m
  | 3, _ => m ||| v
  | _, _ => v

/-- A session on a tile's reduction port takes token `o` of its stream (07 R223). -/
def reductionToken (s : State) (core tile : Nat) (x : RSession) (o : Operand) : State :=
  let t := o.tok
  let hw := takeStream s.hw x.site o
  let bad : State := { s with hw := streamFault s.hw x.site t }
  let put := fun (hw : Hw) (y : RSession) => modCore hw core fun k => { k with rport := tins k.rport tile y }
  match t.kind with
  | .endm =>
    if t.rank ≠ 3 then { s with hw := hw }
    else
      let hw := modCore hw core fun k => { k with rport := tdel k.rport tile }
      let out := if x.dead then mkTok 0 x.site.tag .data 0 0 true else mkTok 0 x.site.tag .order
      { s with hw := settle hw x.site (emitBoth hw x.site [out]) }
  | .data =>
    if x.dead then { s with hw := hw }
    else if x.n ≤ x.pos then bad
    else
      let a := x.range.base + x.pos * x.w
      let p := t.psn || rangePsn s.mem a x.w
      let v := rportMerge x.op x.fmt.toNat x.w (memRead s.mem a x.w) t.value.toNat
      let (m, hw) := homeWrite s.mem hw a x.w v p
      { mem := m, hw := put hw { x with pos := x.pos + 1 } }
  | _ =>
    if x.dead then { s with hw := hw }
    else
      let n := t.aux.toNat + 1
      if x.n < x.pos + n then bad else { s with hw := put hw { x with pos := x.pos + n } }

/-- REDUCTION_SESSION_TOKEN: a session takes the next token of its stream (07 R223). -/
def execReductionSessionToken (core tile : Nat) (s : State) : Res State :=
  match tfind (coreAt s.hw core).rport tile with
  | none => .fault .notEnabled
  | some x =>
    if frozen s.hw x.site.elem then .fault .notEnabled
    else match headAt (elemAt s.hw x.site.elem) x.site.slot x.site.tag 2 with
      | none => .fault .notEnabled
      | some o =>
        match freshRange x.site { w := x.w, acc := 7, needR := true, needW := true, unit := 5 + tile } s.hw x.range with
        | .error e => retryRange s x.site e
        | .ok (hw, r) =>
          let a := r.base + x.pos * x.w
          let n := if x.dead || o.tok.kind != .data then 0 else x.w
          if bankBusy hw rankReduction a n then .fault .notEnabled
          else .next (reductionToken { s with hw := bankTake hw a n } core tile { x with range := r } o)

/-! ## LDRB (07 R224) -/

/-- Whether an MBC that reads a row-buffer entry waits in a macro's queue of a core. -/
def rowInUse (c : Core) (rb : Nat) : Bool :=
  c.macros.any fun m => m.2.queue.any fun q => match q.body with
    | .mbc r _ _ _ _ _ _ => r = rb
    | _ => false

/-- LDRB. -/
def specLdrb : OpSpec :=
  { op := 0x19A#9, arity := 2, oms := [0, 2], anyLs := true, kinds := kindsMem
    fieldFault := fun w => if w.om = 2#3 then needK (fun k => decide (k.toNat < 4)) w else none }

/-- A poisoned LDRB (07 R426). -/
def ldrbPoison (f : Fire) (m : Mem) (hw : Hw) : Except Stop Hw := passPoison f m (countIssued hw f.site f.w.ls.toNat)

/-- LDRB: eight lines of a memory tile of the core into a row-buffer entry (07 R224). -/
def execLdrb (w : Fields) (s : State) : Res State :=
  fire specLdrb
    { ls := .load, endMode := .fwdA, notFire := memNotFire .load, poison := ldrbPoison
      body := fun f m hw =>
        if tokPsn f.a || tokPsn f.b then ldrbPoison f m hw
        else if 3 < f.b.value.toNat then .error (outOfRange 1 f.b.value)
        else do
          let (hw, a) ← formAddr hw f.core f.frame f.asid f.a 0 512 5 true false
          if isRemote hw a || !inAperture (paLocal a.pa) || tileOf (paLocal a.pa) / 2 ≠ f.core then
            .error (outOfRange 0 f.a.value)
          let rb := f.b.value.toNat
          if rowInUse (coreAt hw f.core) rb then .error (.wait hw)
          else
            let hw := countIssued hw f.site f.w.ls.toNat
            .ok ((List.range 8).foldl (fun hw i =>
              postAccess hw (accessOf f hw 8 (.rowLine rb i) { a with pa := a.pa + 64 * i } 64)) hw) } w s

end Sys2Proof.Machine
end

