-- ==== Sys2Proof/Machine/Matrix.lean ====
section
/-! DEFINITION. Compute-in-memory macros and accumulator nodes (08, 01 R26 to R31). -/
namespace Sys2Proof.Machine

/-! ## Block-aligned forms (01 R26, R27, 08 R230) -/

/-- Columns of an array under a weight format (08 R230). -/
def columnsOf (fw : Nat) : Nat := if fw = 13 then 512 else if fw = 9 || fw = 10 || fw = 15 then 128 else 256
/-- Bits of an element of a matrix format; 14 and 15 are BA8 and BA16 words (08 R230, R243). -/
def elemBits (f : Nat) : Nat := if f = 13 then 4 else if f = 9 || f = 10 || f = 15 then 16 else 8
/-- Whether a format's words are BA16 (01 R26). -/
def isBa16 (f : Nat) : Bool := f = 9 || f = 10 || f = 15
/-- The fraction bits of a format's words: 0 for I8 and Z8 (01 R28). -/
def fracOf (f : Nat) : Int := if f < 2 then 0 else if isBa16 f then 14 else 6

/-- Whether a pattern of a floating format is NaN or infinite. -/
def notFinite (f : FFmt) (x : Nat) : Bool :=
  match fdec f x with
  | .num _ _ _ => false
  | _ => true
/-- Whether a pattern of a floating format is a zero. -/
def isZeroF (f : FFmt) (x : Nat) : Bool :=
  match fdec f x with
  | .num _ 0 _ => true
  | _ => false
/-- expo(x): the unbiased exponent, emin for a subnormal (01 R27). -/
def expoOf (f : FFmt) (x : Nat) : Int :=
  match fdec f x with
  | .num _ m e => if (bitLen m : Int) + e - 1 < f.emin then f.emin else (bitLen m : Int) + e - 1
  | _ => 0
/-- x times 2^n rounded RNE to an integer (01 R27). -/
def scaled (f : FFmt) (x : Nat) (n : Int) : Int :=
  match fdec f x with
  | .num neg m e => smant neg (roundInt 0 neg m (e + n))
  | _ => 0

/-- The exponent and words of a block of patterns of a format (01 R27, 08 R243); `none` marks an invalid block. -/
def toBlock (f : Nat) (xs : List Nat) : Option Int × List Int :=
  match fmtOf f with
  | .flt g =>
    if xs.any (notFinite g) then (none, xs.map fun _ => 0)
    else
      let nz := xs.filter fun x => !isZeroF g x
      match nz with
      | [] => (some 0, xs.map fun _ => 0)
      | x :: r =>
        let e := r.foldl (fun m y => max m (expoOf g y)) (expoOf g x)
        (some e, xs.map fun y => scaled g y (fracOf f - e))
  | .int w sg => (some 0, xs.map (intDec w sg))
  | .block => (some 0, xs.map fun x => toSigned (elemBits f) x)

/-- The word that an array stores for an element of a block: an E2M1 code stays as it is, but in an invalid block, whose words
are 0 (01 R27, 08 R230). -/
def storedWord (f : Nat) (valid : Bool) (x : Nat) (w : Int) : BitVec 16 :=
  if f = 13 then (if valid then BitVec.ofNat 16 (x % 16) else 0) else BitVec.ofNat 16 (ofSigned (if isBa16 f then 16 else 8) w)

/-- The signed word that a stored word stands for, in a block of exponent `e` (08 R230, R233). -/
def wordValue (f : Nat) (e : Int) (x : BitVec 16) : Int :=
  if f = 13 then scaled e2m1 x.toNat (6 - e)
  else if f = 1 then (bits x.toNat 0 8 : Nat)
  else toSigned (if isBa16 f then 16 else 8) x.toNat

/-- The exponent byte of a block: −128 for an invalid one (01 R27). -/
def expByte (e : Option Int) : BitVec 8 :=
  match e with
  | none => 0x80
  | some e => BitVec.ofInt 8 e

/-- Stored bytes of a word, summed (08 R231). -/
def wordBytes (f : Nat) (x : BitVec 16) : Nat := if isBa16 f then bits x.toNat 0 8 + bits x.toNat 8 8 else bits x.toNat 0 8

/-- The checksum of row `r` of an array (08 R231). -/
def rowSum (a : Arr) (r : Nat) : BitVec 16 :=
  BitVec.ofNat 16 ((a.words.map fun x => if x.1 / 512 = r then wordBytes a.wfmt.toNat x.2 else 0).sum)
/-- The checksum of column `j` of an array (08 R231). -/
def colSum (a : Arr) (j : Nat) : BitVec 16 :=
  BitVec.ofNat 16 ((a.words.map fun x => if x.1 % 512 = j then wordBytes a.wfmt.toNat x.2 else 0).sum +
    (a.exps.map fun x => if x.1 % 512 = j then x.2.toNat else 0).sum)
/-- A table of the non-zero values of a function below `n`. -/
def sumTab (n : Nat) (g : Nat → BitVec 16) : Tab (BitVec 16) := ((List.range n).map fun i => (i, g i)).filter fun x => x.2 != 0

/-! ## Macros and nodes of a core -/

/-- A macro of a core. -/
def macroAt (hw : Hw) (c m : Nat) : Macro := tget (coreAt hw c).macros {} m
/-- Writes a macro of a core. -/
def setMacro (hw : Hw) (c m : Nat) (x : Macro) : Hw := modCore hw c fun k => { k with macros := tput k.macros {} m x }
/-- A node of a core. -/
def nodeAt (hw : Hw) (c n : Nat) : Node := tget (coreAt hw c).nodes {} n
/-- Writes a node of a core. -/
def setNode (hw : Hw) (c n : Nat) (x : Node) : Hw := modCore hw c fun k => { k with nodes := tput k.nodes {} n x }
/-- The nodes of a range. -/
def rangeNodes (n0 cnt : Nat) : List Nat := (List.range cnt).map (n0 + ·)

/-- A fresh place in a core's issue order of matrix instructions (08 R236). -/
def matStamp (hw : Hw) (c : Nat) : Nat × Hw := ((coreAt hw c).mstamp, modCore hw c fun k => { k with mstamp := k.mstamp + 1 })

/-- The configuration that a macro has once its queued commands have taken effect (08 R242, R243): LFMT, NBASE, the
active and the shadow array's columns. -/
structure MacroCfg where
  lfmt   : Nat
  nbase  : Nat
  active : Nat
  shadow : Nat
  deriving DecidableEq, Repr

/-- The configuration of a macro now. -/
def cfgNow (m : Macro) : MacroCfg :=
  { lfmt := m.lfmt.toNat, nbase := m.nbase, active := m.active.wcols, shadow := m.shadow.wcols }
/-- The configuration after one more command. -/
def cfgAfter (g : MacroCfg) (b : MCmdBody) : MacroCfg :=
  match b with
  | .mcfg _ fw nb _ => { g with lfmt := fw.toNat, nbase := nb }
  | .mldb _ par _ => { g with shadow := bits par.toNat 8 9 + 1 }
  | .mswap => { g with active := g.shadow, shadow := g.active }
  | _ => g
/-- The configurations that one more command may leave: an MLDB of converted words, or one whose range is to be translated again,
may fault at its effect and leave the shadow array as it was (08 R243). -/
def cfgsAfter (gs : List MacroCfg) (b : MCmdBody) : List MacroCfg :=
  match b with
  | .mldb r _ _ => (gs.flatMap fun g => if r.stale || 14 ≤ g.lfmt then [g, cfgAfter g b] else [cfgAfter g b]).eraseDups
  | _ => gs.map fun g => cfgAfter g b
/-- LFMT as a command queued last will find it. -/
def lfmtQueued (m : Macro) : Nat := (m.queue.foldl (fun g q => cfgAfter g q.body) (cfgNow m)).lfmt

/-- Stamps and node ranges of a macro's broadcasts that have not delivered: at its output, and in its queue, with every range
that they may reach. -/
def pendingOf (m : Macro) : List (Nat × Nat × Nat) :=
  let out := match m.out with
    | some o => o.parts.map fun p => (o.stamp, p.1, 1)
    | none => []
  out ++ (m.queue.foldl (fun (x : List (Nat × Nat × Nat) × List MacroCfg) q =>
    match q.body with
    | .mbc .. =>
      (x.1 ++ (x.2.filter fun g => decide (g.nbase + g.active ≤ 2048)).map fun g => (q.stamp, g.nbase, g.active), x.2)
    | b => (x.1, cfgsAfter x.2 b)) ([], [cfgNow m])).1

/-- Whether an undelivered broadcast issued before `stamp` reaches a node range (08 R236). -/
def broadcastBefore (hw : Hw) (c stamp n0 cnt : Nat) : Bool :=
  (coreAt hw c).macros.any fun m => (pendingOf m.2).any fun p =>
    decide (p.1 < stamp ∧ p.2.1 < n0 + cnt ∧ n0 < p.2.1 + p.2.2)

/-- Whether a node instruction posted before `stamp` acts on a node range (08 R236). -/
def nodeCmdBefore (hw : Hw) (c stamp n0 cnt : Nat) : Bool :=
  (coreAt hw c).ncmds.any fun q => decide (q.stamp < stamp ∧ q.n0 < n0 + cnt ∧ n0 < q.n0 + q.cnt)

/-- Whether some node of a range is frozen (08 R252). -/
def anyStopped (hw : Hw) (c n0 cnt : Nat) : Bool := (rangeNodes n0 cnt).any fun n => (nodeAt hw c n).stop.isSome

/-! ## Node arithmetic (01 R29 to R31) -/

/-- The floor and top of a node's window (01 R30). -/
def floorOf (n : Node) : Int := if n.trunc then n.b0 else n.b0 - n.h
/-- The top of a node's window. -/
def topOf (n : Node) : Int := floorOf n + 191

/-- Whether p x 2^q has a non-zero bit of weight below 2^b. -/
def bitsBelow (p q b : Int) : Bool := decide (q < b) && p % (2 ^ (b - q).toNat : Int) != 0
/-- Whether |p| x 2^q is at least 2^t. -/
def atLeast (p q t : Int) : Bool := if q ≤ t then decide ((2 : Int) ^ (t - q).toNat ≤ p.natAbs) else decide (p ≠ 0)

/-- The weight of the lowest set bit of an integer, looking `n` places up. -/
def lowBit (i : Int) : Nat → Nat
  | 0 => 0
  | n + 1 => if i % 2 ≠ 0 then 0 else 1 + lowBit (i / 2) n

/-- A partial added to a node; none where the node faults, with the node as the fault leaves it (01 R30, 08 R252):
the fault's source. -/
def addPartial (n : Node) (x : Partial) : Except (Nat × Node) Node :=
  if 65536 ≤ n.parts then .error (1, n)
  else if x.nan then .ok { n with nan := true, psn := n.psn || x.psn, parts := n.parts + 1 }
  else
    let n := { n with range := n.range || bitsBelow x.p x.q n.b0 }
    if atLeast x.p x.q (topOf n) then .error (0, n)
    else
      let f := floorOf n
      let u : Int := if f ≤ x.q then x.p * 2 ^ (x.q - f).toNat else x.p / (2 ^ (f - x.q).toNat : Int)
      let lost := n.lost || bitsBelow x.p x.q f
      let low : Int := f + lowBit u 320
      let (s, l) := if u ≠ 0 ∧ low < n.l then (n.s * 2 ^ (n.l - low).toNat, low) else (n.s, n.l)
      let add : Int := if l ≤ f then u * 2 ^ (f - l).toNat else u / (2 ^ (l - f).toNat : Int)
      .ok { n with s := s + add, l := l, lost := lost, psn := n.psn || x.psn, parts := n.parts + 1 }

/-- A node's value in a format; none where it leaves the window (01 R31). -/
def nodeValue (n : Node) (fmt : Nat) (sat : Bool) : Option Nat :=
  if atLeast n.s n.l (topOf n) then none
  else some (match fmtOf fmt with
    | .flt g => if n.nan then g.nan else fround g 0 sat (decide (n.s < 0)) n.s.natAbs n.l
    | .int w sg => if n.nan then 0 else ofSigned w (toIntV w sg 0 (.num (decide (n.s < 0)) n.s.natAbs n.l))
    | .block => 0)

/-- A node cleared by ACCCLR (08 R249): it keeps B0, H and MODE. -/
def clearNode (n : Node) : Node := { b0 := n.b0, h := n.h, trunc := n.trunc, l := n.b0 }

/-- Lanes of one token of values of a format (08 R238). -/
def lanesOf (fmt : Nat) : Nat := 64 / (fmtOf fmt).width

/-- Packs values into tokens, `n` lanes each, with the poison of each token's nodes (08 R238). -/
def packNodes (tag : BitVec 20) (fmt : Nat) (vs : List (Nat × Bool)) : List Token :=
  let w := (fmtOf fmt).width
  (chunks (lanesOf fmt) vs.length vs).map fun l =>
    mkTok 0 tag .data (BitVec.ofNat 64 ((l.zipIdx.map fun x => x.1.1 * 2 ^ (w * x.2)).sum)) 0 (l.any (·.2))

/-- The flag word of a release or a read (08 R238). -/
def flagWord (ns : List Node) (rel : Nat) : Word :=
  BitVec.ofNat 64 (b2n (ns.any (·.range)) + b2n (ns.any (·.lost)) * 2 + b2n (ns.any (·.nan)) * 4 + b2n (ns.any (·.psn)) * 8 +
    rel * 2 ^ 16)

/-- Reports a matrix fault record (08 R252). -/
def matReport (hw : Hw) (c : Nat) (r : MatRec) : Hw :=
  report hw (clOf c) cRANGE (2 ^ 63 + b2n r.multi * 2 ^ 62 + cRANGE * 2 ^ 48 + r.source.toNat * 2 ^ 44 + r.node.toNat * 2 ^ 33 +
    r.macr.toNat * 2 ^ 30)

/-- The fault of a node: recorded, reported, the node frozen (08 R252). -/
def nodeFault (hw : Hw) (c n : Nat) (x : Node) (stop : NodeStop) (source macr : Nat) (q p : Nat) : Hw :=
  let hw := setNode hw c n { x with stop := some stop }
  let r := (coreAt hw c).matRec
  let r : MatRec := if r.valid then { r with multi := true } else
    { valid := true, source := BitVec.ofNat 4 source, node := BitVec.ofNat 11 n, macr := BitVec.ofNat 3 macr
      q := BitVec.ofNat 12 q, p := BitVec.ofNat 36 p }
  matReport (modCore hw c fun k => { k with matRec := r }) c r

/-- Disarms the nodes of a group and forgets it (08 R237, R249). -/
def disarm (hw : Hw) (c id : Nat) : Hw :=
  match (coreAt hw c).groups.find? fun g => g.id = id with
  | none => hw
  | some g =>
    let hw := (rangeNodes g.n0 g.cnt).foldl (fun hw n => setNode hw c n { nodeAt hw c n with group := none, count := 0 }) hw
    modCore hw c fun k => { k with groups := k.groups.filter fun y => y.id != id }

/-- Releases a group whose every node has counted c (08 R237, R238). -/
def release (hw : Hw) (c : Nat) (g : Group) : Hw :=
  let ids := rangeNodes g.n0 g.cnt
  let ns := ids.map (nodeAt hw c)
  let fmt := g.fmt.toNat
  let bad := ids.filter fun n => (nodeValue (nodeAt hw c n) fmt g.sat).isNone
  if !bad.isEmpty then
    bad.foldl (fun hw n => nodeFault hw c n (nodeAt hw c n) .release 2 0 g.rel 0) hw
  else
    let tag := g.site.tag
    let vs := ns.map fun n => ((nodeValue n fmt g.sat).getD 0, n.psn)
    let hw := streamOut hw g.site (packNodes tag fmt vs ++ [mkTok 0 tag .endm 0 0 false 1])
    let hw := doneOut hw g.site [mkTok 0 tag .data (flagWord ns g.rel)]
    let hw := if g.clr then
        ids.foldl (fun hw n => setNode hw c n { clearNode (nodeAt hw c n) with group := some g.id }) hw
      else hw
    if g.rel + 1 = g.r then disarm hw c g.id
    else modCore hw c fun k =>
      { k with groups := mapFirst (fun y => y.id = g.id) (fun y => { y with rel := y.rel + 1 }) k.groups }

/-- Releases every group that is complete and not stopped. -/
def releaseAll (hw : Hw) (c : Nat) : Hw :=
  (coreAt hw c).groups.foldl (fun hw g =>
    if (rangeNodes g.n0 g.cnt).all fun n => (nodeAt hw c n).count == g.c && (nodeAt hw c n).stop.isNone then release hw c g
    else hw) hw

/-! ## Node instructions (08 R236, R246 to R249) -/

/-- Whether a node instruction may take effect: nothing issued before it that acts on its nodes is left, and none of
them is frozen. -/
def nodeReady (hw : Hw) (c : Nat) (q : NCmd) : Bool :=
  !broadcastBefore hw c q.stamp q.n0 q.cnt && !nodeCmdBefore hw c q.stamp q.n0 q.cnt && !anyStopped hw c q.n0 q.cnt

/-- Cause 16 (08 Table 8.4). -/
def matFault (sub what : Nat) : Stop := .fault cILLFIELD (16 + sub * 2 ^ 5 + what * 2 ^ 8)

/-- Clears a range of nodes; the groups that lose a node are disarmed (08 R249). -/
def clearRange (hw : Hw) (c n0 cnt : Nat) : Hw :=
  let ids := rangeNodes n0 cnt
  let gs := (ids.filterMap fun n => (nodeAt hw c n).group).eraseDups
  let hw := gs.foldl (fun hw g => disarm hw c g) hw
  ids.foldl (fun hw n => setNode hw c n (clearNode (nodeAt hw c n))) hw

/-- The effect of a node instruction in its place in node order. -/
def nodeEffect (hw : Hw) (c : Nat) (q : NCmd) : Except Stop Hw :=
  let ids := rangeNodes q.n0 q.cnt
  let upd := fun (hw : Hw) (g : Node → Node) => ids.foldl (fun hw n => setNode hw c n (g (nodeAt hw c n))) hw
  let order := fun (hw : Hw) => emitBoth hw q.site [mkTok 0 q.site.tag .order]
  let armed := ids.find? fun n => (nodeAt hw c n).group.isSome
  match q.body with
  | .set b0 h trunc psn =>
    match ids.find? fun n => (nodeAt hw c n).parts != 0 with
    | some n => .error (matFault 0 n)
    | none => order (upd hw fun x => { x with b0 := b0, h := h, trunc := trunc, l := b0, psn := x.psn || psn })
  | .cnt cn r fmt sat clr psn =>
    match armed with
    | some n => .error (matFault 1 n)
    | none =>
      let (id, hw) := stamp hw
      let g : Group := { id := id, n0 := q.n0, cnt := q.cnt, c := cn, r := r, fmt := fmt, sat := sat, clr := clr, site := q.site }
      let hw := upd hw fun x => { x with group := some id, count := 0, psn := x.psn || psn }
      .ok (modCore hw c fun k => { k with groups := k.groups ++ [g] })
  | .rd fmt sat clr =>
    match (if clr then armed else none) with
    | some n => .error (matFault 3 n)
    | none =>
      match ids.find? fun n => (nodeValue (nodeAt hw c n) fmt.toNat sat).isNone with
      | some n => .error (.fault cRANGE n)
      | none => do
        let ns := ids.map (nodeAt hw c)
        let vs := ns.map fun n => ((nodeValue n fmt.toNat sat).getD 0, n.psn)
        let hw ← emitList hw q.site (siteSrc q.site) q.site.t0 (packNodes q.site.tag fmt.toNat vs)
        let hw ← emitList hw q.site (siteSrc q.site) q.site.t1 [mkTok 0 q.site.tag .data (flagWord ns 0)]
        .ok (if clr then clearRange hw c q.n0 q.cnt else hw)
  | .clr => order (clearRange hw c q.n0 q.cnt)

/-- The fault of a matrix operation that had issued: its element freezes, with what is to be done again. -/
def lateFault (hw : Hw) (s : Site) (code detail : Nat) (redo : Redo) : Hw :=
  freeze hw s.elem s.slot s.tag s.op (.issued s.slot s.tag (some redo)) code detail

/-- Lets every posted node instruction that may take effect do so, in issue order: `n` rounds. -/
def settleNodes (c : Nat) : Nat → Hw → Hw
  | 0, hw => hw
  | n + 1, hw =>
    match (coreAt hw c).ncmds.find? fun q => nodeReady hw c q with
    | none => hw
    | some q =>
      let hw := modCore hw c fun k => { k with ncmds := eraseFirst (fun y => y.stamp = q.stamp) k.ncmds }
      settleNodes c n (match nodeEffect hw c q with
        | .ok hw => hw
        | .error (.wait hw) => hw
        | .error (.fault code d) => lateFault hw q.site code d (.node q))

/-- What follows any change at the nodes of a core. -/
def matSettle (hw : Hw) (c : Nat) : Hw :=
  let hw := releaseAll hw c
  settleNodes c ((coreAt hw c).ncmds.length) hw

/-- A node instruction: at once where it may take effect, else posted (08 R236). -/
def nodeIssue (f : Fire) (hw : Hw) (body : NCmdBody) (n0 cnt : Nat) : Except Stop Hw := do
  let hw := expose hw f.core f.site.seq
  let (t, hw) := matStamp hw f.core
  let q : NCmd := { body := body, n0 := n0, cnt := cnt, stamp := t, site := f.site }
  if nodeReady hw f.core q then do
    let hw ← nodeEffect hw f.core q
    .ok (matSettle hw f.core)
  else .ok (modCore hw f.core fun k => { k with ncmds := k.ncmds ++ [q] })

/-- Kinds of a matrix instruction: a trigger, and parameter words (08 R240). -/
def kindsMat (p : Nat) : List Kind := if p = 0 then kindsTrig else [.data]
/-- A range word (08 Table 8.3): its low 22 bits. -/
def rangeOk (b : Nat) : Bool := decide (bits b 0 11 + bits b 11 11 + 1 ≤ 2048) && bits b 22 2 == 0
/-- A parameter word of ACCSET. -/
def setOk (c : Nat) : Bool := bits c 18 6 == 0
/-- A count word of ACCCNT under CLR (08 R247). -/
def cntOk (clr : Bool) (c : Nat) : Bool := decide (1 ≤ bits c 0 14 ∧ bits c 0 14 ≤ 8192) && (clr || bits c 14 10 == 0)
/-- SAT and CLR of the release format (02 Table 2.9). -/
def relSat (w : Fields) : Bool := w.xf.getLsbD 8
/-- CLR. -/
def relClr (w : Fields) : Bool := w.xf.getLsbD 9
/-- The release-format layout with formats 0 to 13 (08 R240). -/
def relXf (n : Nat) : Bool := decide (n % 16 < 14) && bits n 4 4 == 0 && decide (n < 1024)

/-- The first constant word of a node instruction that is out of range (08 R240), from OM. -/
def nodeKBad (okB okC : Nat → Bool) (w : Fields) : Option Nat :=
  let one := w.k.signExtend 64
  let lo : Word := (w.k.extractLsb' 0 24).signExtend 64
  let hi : Word := (w.k.extractLsb' 24 24).signExtend 64
  match w.om.toNat with
  | 2 => if okB one.toNat then none else some (kBad 1 one)
  | 3 => if okC one.toNat then none else some (kBad 2 one)
  | 4 => if !okB lo.toNat then some (kBad 1 lo) else if okC hi.toNat then none else some (kBad 2 hi)
  | _ => none

/-- The meaning of a node instruction with two words (08 R246, R247). -/
def nodeMeaning (okC : Fields → Nat → Bool) (mk : Fire → NCmdBody) : Meaning :=
  { endMode := .fwdA
    body := fun f _ hw =>
      if !rangeOk f.b.value.toNat then .error (outOfRange 1 f.b.value)
      else if !okC f.w f.c.value.toNat then .error (outOfRange 2 f.c.value)
      else nodeIssue f hw (mk f) (bits f.b.value.toNat 0 11) (bits f.b.value.toNat 11 11 + 1) }

/-- ACCSET. -/
def specAccset : OpSpec :=
  { op := 0x1C5#9, arity := 3, oms := [0, 2, 3, 4], kinds := kindsMat, fieldFault := nodeKBad rangeOk setOk }
/-- ACCSET (08 R246). -/
def execAccset (w : Fields) (s : State) : Res State :=
  fire specAccset (nodeMeaning (fun _ => setOk) fun f =>
    let c := f.c.value.toNat
    .set (toSigned 11 (bits c 0 11)) (bits c 11 6) (bit c 17) (f.b.psn || f.c.psn)) w s

/-- ACCCNT. -/
def specAcccnt : OpSpec :=
  { op := 0x1C6#9, arity := 3, oms := [0, 2, 3, 4], xfOk := relXf, kinds := kindsMat
    fieldFault := fun w => nodeKBad rangeOk (cntOk (relClr w)) w }
/-- ACCCNT (08 R247). -/
def execAcccnt (w : Fields) (s : State) : Res State :=
  fire specAcccnt (nodeMeaning (fun w => cntOk (relClr w)) fun f =>
    let c := f.c.value.toNat
    .cnt (bits c 0 14) (bits c 14 10 + 1) (f.w.xf.extractLsb' 0 4) (relSat f.w) (relClr f.w) (f.b.psn || f.c.psn)) w s

/-- The check of a 64-bit range word (08 R240). -/
def rangeWord (k : Word) : Bool := rangeOk k.toNat && decide (k.toNat < 2 ^ 22)

/-- The meaning of a node instruction with a range alone (08 R248, R249). -/
def rangeMeaning (mk : Fire → NCmdBody) : Meaning :=
  { endMode := .fwdA
    body := fun f _ hw =>
      if !rangeWord f.b.value then .error (outOfRange 1 f.b.value)
      else nodeIssue f hw (mk f) (bits f.b.value.toNat 0 11) (bits f.b.value.toNat 11 11 + 1) }

/-- ACCRD. -/
def specAccrd : OpSpec :=
  { op := 0x1C7#9, arity := 2, oms := [0, 2], xfOk := relXf, kinds := kindsMat
    fieldFault := fun w => if w.om = 2#3 then needK rangeWord w else none }
/-- ACCRD (08 R248). -/
def execAccrd (w : Fields) (s : State) : Res State :=
  fire specAccrd (rangeMeaning fun f => .rd (f.w.xf.extractLsb' 0 4) (relSat f.w) (relClr f.w)) w s

/-- ACCCLR. -/
def specAccclr : OpSpec :=
  { op := 0x1C8#9, arity := 2, oms := [0, 2], kinds := kindsMat
    fieldFault := fun w => if w.om = 2#3 then needK rangeWord w else none }
/-- ACCCLR (08 R249). -/
def execAccclr (w : Fields) (s : State) : Res State := fire specAccclr (rangeMeaning fun _ => .clr) w s

/-! ## Macro commands (08 R234, R242 to R245, R250) -/

/-- Queues a command at a macro, or waits while it holds 8 (08 R234). -/
def queueCmd (f : Fire) (hw : Hw) (m : Nat) (body : MCmdBody) : Except Stop Hw :=
  let x := macroAt hw f.core m
  if 8 ≤ x.queue.length then .error (.wait hw)
  else
    let (t, hw) := matStamp (expose hw f.core f.site.seq) f.core
    .ok (setMacro hw f.core m { x with queue := x.queue ++ [{ body := body, stamp := t, site := f.site }] })

/-- The meaning of a macro command whose port b must satisfy a check. -/
def macroMeaning (ok : Fields → Word → Bool) (go : Fire → Hw → Except Stop Hw) : Meaning :=
  { endMode := .fwdA
    body := fun f _ hw => if ok f.w f.b.value then go f hw else .error (outOfRange 1 f.b.value) }

/-- The check of a constant on port b that reads the word's other fields. -/
def needKW (ok : Fields → Word → Bool) (w : Fields) : Option Nat :=
  if w.om = 2#3 && !ok w (w.k.signExtend 64) then some (kBad 1 (w.k.signExtend 64)) else none

/-- The cfg word of MCFG under its weight format (08 R242). -/
def cfgOk (w : Fields) (b : Word) : Bool :=
  let n := b.toNat
  decide (n < 2 ^ 19) && bits n 3 5 == 0 && decide (bits n 8 11 + columnsOf (w.xf.toNat % 16) ≤ 2048)

/-- The format pair of MCFG (08 R242). -/
def mcfgXf (n : Nat) : Bool :=
  decide (n < 256) && [0, 1, 9, 10, 11, 12, 13].contains (n / 16) && [0, 1, 9, 10, 11, 12, 13, 14, 15].contains (n % 16)

/-- MCFG. -/
def specMcfg : OpSpec :=
  { op := 0x1C0#9, arity := 2, oms := [0, 2], xfOk := mcfgXf, kinds := kindsMat, fieldFault := needKW cfgOk }
/-- MCFG (08 R242). -/
def execMcfg (w : Fields) (s : State) : Res State :=
  fire specMcfg (macroMeaning cfgOk fun f hw =>
    let n := f.b.value.toNat
    queueCmd f hw (bits n 0 3) (.mcfg (f.w.xf.extractLsb' 4 4) (f.w.xf.extractLsb' 0 4) (bits n 8 11) f.b.psn)) w s

/-- The par word of MLDB. -/
def parOk (_ : Fields) (b : Word) : Bool := decide (b.toNat < 2 ^ 44)

/-- MLDB: port a holds an address (08 R240). -/
def specMldb : OpSpec :=
  { op := 0x1C1#9, arity := 2, oms := [0, 2], kinds := fun p => if p = 0 then kindsMem 0 else [.data]
    fieldFault := needKW parOk }

/-- The bytes of a row of a panel (08 R243). -/
def rowBytes (lfmt cols : Nat) : Nat := ceilDiv (cols * elemBits lfmt) 8
/-- The bytes of a panel's exponent table, if it has one (08 R243). -/
def tableBytes (lfmt rows cols : Nat) : Nat := if 14 ≤ lfmt then ceilDiv rows 32 * cols else 0
/-- What the reads of a panel of a format need (08 R243). -/
def panelUse (lfmt unit : Nat) : RangeUse :=
  { w := if elemBits lfmt = 16 then 2 else 1, acc := 5, needR := true, needW := false, unit := unit, steps := false }

/-- The rows, columns and stride of a panel of a format (08 R243). -/
def panelShape (lf : Nat) (par : Word) : Nat × Nat × Nat :=
  let n := par.toNat
  let cols := bits n 8 9 + 1
  (bits n 0 8 + 1, cols, if bits n 17 24 = 0 then rowBytes lf cols else bits n 17 24)

/-- The panel of an MLDB of a core at a base token, checked and translated (08 R243). -/
def mldbPanel (s : Site) (t : Token) (lf unit : Nat) (par : Word) (hw : Hw) : Except Stop (Hw × TileRange) := do
  let (rows, cols, stride) := panelShape lf par
  if columnsOf lf < cols || stride < rowBytes lf cols then .error (badField 0 par)
  let (hw, r) ← rangeAt s t (panelUse lf unit) hw rows (rowBytes lf cols) stride (tableBytes lf rows cols)
  if tileOf r.base / 2 ≠ coreOf s.elem then .error (outOfRange 0 t.value)
  .ok (hw, r)

/-- The panel of a queued MLDB as it takes effect: checked and translated anew where a translation of it has been removed
(13 R337), or it was issued again under another LFMT. -/
def mldbPanelNow (s : Site) (lf unit : Nat) (par : Word) (hw : Hw) (r : TileRange) : Except Stop (Hw × TileRange) :=
  let (rows, cols, stride) := panelShape lf par
  let same := r.rows = rows && r.len = rowBytes lf cols && r.stride = stride && r.tail = tableBytes lf rows cols
  if same && !r.stale && decide (cols ≤ columnsOf lf) then .ok (hw, r) else mldbPanel s r.tok lf unit par hw

/-- MLDB (08 R243): its fields are checked and its panel translated at firing, under the LFMT it will find. Port a's PSN is
ignored (08 R241; log 47). -/
def execMldb (w : Fields) (s : State) : Res State :=
  fire specMldb (macroMeaning parOk fun f hw => do
    let m := bits f.b.value.toNat 41 3
    let (hw, r) ← mldbPanel f.site f.a (lfmtQueued (macroAt hw f.core m)) 0 f.b.value hw
    queueCmd f hw m (.mldb r f.b.value f.b.psn)) w s

/-- A macro number on port b. -/
def mswapOk (_ : Fields) (b : Word) : Bool := decide (b.toNat < 8)
/-- MSWAP. -/
def specMswap : OpSpec := { op := 0x1C2#9, arity := 2, oms := [0, 2], kinds := kindsMat, fieldFault := needKW mswapOk }
/-- MSWAP (08 R244). -/
def execMswap (w : Fields) (s : State) : Res State :=
  fire specMswap (macroMeaning mswapOk fun f hw => queueCmd f hw f.b.value.toNat .mswap) w s

/-- The spec word of MBC. -/
def mbcOk (_ : Fields) (b : Word) : Bool := decide (b.toNat < 2 ^ 15)

/-- A null-broadcast of MBC or MBCW: queued, with NULL at once to both targets of MBC or to T0 of MBCW (08 R241). -/
def nullBroadcastOf (isW : Bool) (aux : BitVec 7) (f : Fire) (hw : Hw) : Except Stop Hw := do
  let n := f.b.value.toNat
  if !mbcOk f.w f.b.value then .error (outOfRange 1 f.b.value)
  let hw ← queueCmd f hw (bits n 0 3) (.mbc (bits n 3 2) (bits n 5 2) (bits n 7 8 + 1) f.b.value false true isW)
  let t := tokOf f .null 0 false aux
  if isW then emit0 f hw [t] else emitAll f hw [t]

/-- The meaning of MBC and MBCW (08 R241, R245). -/
def mbcMeaning (isW : Bool) : Meaning :=
  { endMode := .fwdA
    onNull := fun f _ hw => nullBroadcastOf isW ((nullAux f.data).getD 0) f hw
    notFire := fun f _ hw => nullBroadcastOf isW 0 f hw
    body := fun f _ hw =>
      let n := f.b.value.toNat
      if !mbcOk f.w f.b.value then .error (outOfRange 1 f.b.value)
      else queueCmd f hw (bits n 0 3) (.mbc (bits n 3 2) (bits n 5 2) (bits n 7 8 + 1) f.b.value (tokPsn f.a) false isW) }

/-- MBC. -/
def specMbc : OpSpec := { op := 0x1C3#9, arity := 2, oms := [0, 2], kinds := kindsMat, fieldFault := needKW mbcOk }
/-- MBC (08 R245). -/
def execMbc (w : Fields) (s : State) : Res State := fire specMbc (mbcMeaning false) w s
/-- MBCW. -/
def specMbcw : OpSpec := { op := 0x1C4#9, arity := 2, oms := [0, 2], kinds := kindsMat, fieldFault := needKW mbcOk }
/-- MBCW (08 R245). -/
def execMbcw (w : Fields) (s : State) : Res State := fire specMbcw (mbcMeaning true) w s

/-- The spec word of MCHK. -/
def mchkOk (_ : Fields) (b : Word) : Bool := decide (b.toNat < 16)
/-- MCHK. -/
def specMchk : OpSpec := { op := 0x1C9#9, arity := 2, oms := [0, 2], kinds := kindsMat, fieldFault := needKW mchkOk }
/-- MCHK (08 R250). -/
def execMchk (w : Fields) (s : State) : Res State :=
  fire specMchk (macroMeaning mchkOk fun f hw =>
    queueCmd f hw (bits f.b.value.toNat 0 3) (.mchk (bit f.b.value.toNat 3))) w s

/-! ## Effects at a macro -/

/-- The command at the head of a macro's queue, once the macro's output is free (08 R237). -/
def headCmd (hw : Hw) (c m : Nat) : Option (MCmd × Macro) :=
  let x := macroAt hw c m
  match x.queue, x.out with
  | q :: r, none => some (q, { x with queue := r })
  | _, _ => none

/-- The end of a macro event. -/
def macroEnd (s : State) (core : Nat) (hw : Hw) : Res State := .next { s with hw := matSettle hw core }

/-- MCFG_EFFECT (08 R242). -/
def execMcfgEffect (core macr : Nat) (s : State) : Res State :=
  match headCmd s.hw core macr with
  | some (q, x) => match q.body with
    | .mcfg fa fw nb psn =>
      let hw := setMacro s.hw core macr { x with afmt := fa, lfmt := fw, nbase := nb, cpsn := psn }
      macroEnd s core (settle hw q.site (emitBoth hw q.site [mkTok 0 q.site.tag .order]))
    | _ => .fault .notEnabled
  | none => .fault .notEnabled

/-- The bits of element `j` of a row at a local address, of `w` bits (01 R16). -/
def panelElem (m : Mem) (row j w : Nat) : Nat :=
  if w = 4 then bits (memByte m (row + j / 2)).toNat (4 * (j % 2)) 4 else memRead m (row + j * (w / 8)) (w / 8)

/-- The array that MLDB writes: per column and block of 32 rows, the exponent and words (08 R243). -/
def panelArr (m : Mem) (lf base rows cols stride : Nat) (psn : Bool) : Arr :=
  let w := elemBits lf
  let nb := ceilDiv rows 32
  let expOf := fun (b j : Nat) => toSigned 8 (memByte m (base + rows * stride + b * cols + j)).toNat
  let blocks : List (Nat × Nat × Option Int × List (Nat × Nat × Int)) := (List.range nb).flatMap fun b =>
    (List.range cols).map fun j =>
      let xs := (List.range 32).map fun i =>
        if 32 * b + i < rows then panelElem m (base + (32 * b + i) * stride) j w else 0
      let (e, ws) := toBlock lf xs
      let e := if 14 ≤ lf then (if expOf b j = -128 then none else some (expOf b j)) else e
      (b, j, e, ((xs.zip ws).zipIdx.map fun y => (32 * b + y.2, y.1.1, y.1.2)))
  let words := blocks.foldl (fun t x => x.2.2.2.foldl (fun t y =>
    tput t 0 (y.1 * 512 + x.2.1) (storedWord lf x.2.2.1.isSome y.2.1 y.2.2)) t) ([] : Tab (BitVec 16))
  let exps := blocks.foldl (fun t x => tput t 0 (x.1 * 512 + x.2.1) (expByte x.2.2.1)) ([] : Tab (BitVec 8))
  let rowPsn := fun (r : Nat) => decide (r < rows) &&
    (psn || rangePsn m (base + r * stride) (rowBytes lf cols) ||
      (decide (14 ≤ lf) && rangePsn m (base + rows * stride + r / 32 * cols) cols))
  let a : Arr :=
    { words := words, exps := exps, wfmt := BitVec.ofNat 4 lf, wcols := cols
      rowPsn := BitVec.ofNat 256 (((List.range 256).map fun r => b2n (rowPsn r) * 2 ^ r).sum) }
  { a with ckRow := sumTab 256 (rowSum a), ckCol := sumTab 512 (colSum a) }

/-- Whether a panel of BA words holds an invalid exponent over words that are not all zero (08 R243). -/
def panelBad (m : Mem) (lf base rows cols stride : Nat) : Bool :=
  decide (14 ≤ lf) && (List.range (ceilDiv rows 32)).any fun b => (List.range cols).any fun j =>
    memByte m (base + rows * stride + b * cols + j) == 0x80 &&
      (List.range 32).any fun i => decide (32 * b + i < rows) && panelElem m (base + (32 * b + i) * stride) j (elemBits lf) != 0

/-- MLDB_EFFECT (08 R243). -/
def execMldbEffect (core macr : Nat) (s : State) : Res State :=
  match headCmd s.hw core macr with
  | some (q, x) => match q.body with
    | .mldb range par psn =>
      let lf := x.lfmt.toNat
      let cols := bits par.toNat 8 9 + 1
      let late := fun (code d : Nat) =>
        macroEnd s core (lateFault (setMacro s.hw core macr x) q.site code d (.macro_ macr q))
      match mldbPanelNow q.site lf (7 + macr) par s.hw range with
      | .error (.wait hw) => .next { s with hw := { hw with waited := true } }
      | .error (.fault c d) => late c d
      | .ok (hw, r) =>
        if panelBad s.mem lf r.base r.rows cols r.stride then late cILLFIELD (15 + par.toNat % 2 ^ 48 * 2 ^ 16)
        else
          let hw := setMacro hw core macr { x with shadow := panelArr s.mem lf r.base r.rows cols r.stride psn }
          macroEnd s core (settle hw q.site (emitBoth hw q.site [mkTok 0 q.site.tag .order]))
    | _ => .fault .notEnabled
  | none => .fault .notEnabled

/-- Puts a command that had issued, and is issued again, behind those of its macro, with a place of its own in the issue order
(08 R234, R236, 13 Table 13.9); the panel of an MLDB is translated again. -/
def requeue (hw : Hw) (c m : Nat) (q : MCmd) : Hw :=
  let (t, hw) := matStamp hw c
  let body : MCmdBody := match q.body with
    | .mldb r par psn => .mldb { r with stale := true } par psn
    | b => b
  let x := macroAt hw c m
  setMacro hw c m { x with queue := x.queue ++ [{ q with body := body, stamp := t }] }

/-- Posts a node instruction that is issued again (08 R236). -/
def repost (hw : Hw) (c : Nat) (q : NCmd) : Hw :=
  let (t, hw) := matStamp hw c
  modCore hw c fun x => { x with ncmds := x.ncmds ++ [{ q with stamp := t }] }

/-- What a command that has faulted at its effect leaves as one that does not fire: NULL to its targets; of MBC and MBCW a
null-broadcast, with no NULL to T1 of MBCW, nor a second one where it was a null-broadcast itself (08 R241, 13 Table 13.9). -/
def giveUpCmd (hw : Hw) (c m : Nat) (q : MCmd) : Hw :=
  let t := [mkTok 0 q.site.tag .null]
  match q.body with
  | .mbc rb seg rows spec psn isNull isW =>
    let hw := requeue hw c m { q with body := .mbc rb seg rows spec psn true isW }
    if isNull then hw else if isW then streamOut hw q.site t else settle hw q.site (emitBoth hw q.site t)
  | _ => settle hw q.site (emitBoth hw q.site t)

/-- MSWAP_EFFECT (08 R244). -/
def execMswapEffect (core macr : Nat) (s : State) : Res State :=
  match headCmd s.hw core macr with
  | some (q, x) => match q.body with
    | .mswap =>
      let hw := setMacro s.hw core macr { x with active := x.shadow, shadow := x.active }
      macroEnd s core (settle hw q.site (emitBoth hw q.site [mkTok 0 q.site.tag .order]))
    | _ => .fault .notEnabled
  | none => .fault .notEnabled

/-- MCHK_EFFECT (08 R250). -/
def execMchkEffect (core macr : Nat) (s : State) : Res State :=
  match headCmd s.hw core macr with
  | some (q, x) => match q.body with
    | .mchk shadow =>
      let a := if shadow then x.shadow else x.active
      let r := (List.range 256).find? fun i => rowSum a i != tget a.ckRow 0 i
      let c := (List.range 512).find? fun j => colSum a j != tget a.ckCol 0 j
      if r.isNone && c.isNone then
        let hw := setMacro s.hw core macr x
        macroEnd s core (settle hw q.site (emitBoth hw q.site [mkTok 0 q.site.tag .data]))
      else
        let a := { a with bad := true }
        let hw := setMacro s.hw core macr (if shadow then { x with shadow := a } else { x with active := a })
        let d := macr + b2n shadow * 8 + b2n r.isSome * 16 + b2n c.isSome * 32 + r.getD 0 * 2 ^ 8 + c.getD 0 * 2 ^ 16
        macroEnd s core (lateFault hw q.site cCHECKSUM d (.macro_ macr q))
    | _ => .fault .notEnabled
  | none => .fault .notEnabled

/-- The 32 elements of block `b` of A in a row-buffer entry (08 R233). -/
def aBlock (c : Core) (rb start fa rows b : Nat) : List Nat :=
  let w := elemBits fa
  (List.range 32).map fun i =>
    let k := 32 * b + i
    if rows ≤ k then 0
    else if w = 4 then bits (tget c.rowbuf 0 (rb * 512 + start + k / 2)).toNat (4 * (k % 2)) 4
    else ofBytes ((List.range (w / 8)).map fun j => tget c.rowbuf 0 (rb * 512 + start + k * (w / 8) + j))

/-- Whether a row-buffer line that holds an element of block `b` of A is poisoned (08 R233). -/
def aPsn (c : Core) (rb start fa b : Nat) : Bool :=
  let w := elemBits fa
  (linesOf (start + b * 4 * w) (4 * w)).any fun l => tget c.rowPsn false (rb * 8 + l / 64)

/-- The partials of a broadcast for column `j` (01 R28, 08 R233). -/
def columnPartials (c : Core) (x : Macro) (rb seg rows : Nat) (psn : Bool) (j : Nat) : List Partial :=
  let fa := x.afmt.toNat
  let fw := x.active.wfmt.toNat
  let start := seg * 32 * elemBits fa
  (List.range (ceilDiv rows 32)).map fun b =>
    let (ea, aw) := toBlock fa (aBlock c rb start fa rows b)
    let eb := tget x.active.exps 0 (b * 512 + j)
    let nan := ea.isNone || (decide (2 ≤ fw) && eb == 0x80)
    let e : Int := if fw < 2 then 0 else eb.toInt
    let ws := (List.range 32).map fun i => wordValue fw e (tget x.active.words 0 ((32 * b + i) * 512 + j))
    let p := ((aw.zip ws).map fun y => y.1 * y.2).sum
    let bad := psn || x.cpsn || x.active.bad || aPsn c rb start fa b ||
      (List.range 32).any fun i => x.active.rowPsn.getLsbD (32 * b + i)
    { p := if nan then 0 else p, q := (ea.getD 0 - fracOf fa) + (e - fracOf fw), nan := nan, psn := bad }

/-- BROADCAST: A latched and converted, partials formed for every column, ORDER sent (08 R233, R245). -/
def execBroadcast (core macr : Nat) (s : State) : Res State :=
  match headCmd s.hw core macr with
  | some (q, x) => match q.body with
    | .mbc rb seg rows spec psn false isW =>
      let w := elemBits x.afmt.toNat
      let fail := fun (code d : Nat) =>
        macroEnd s core (lateFault (setMacro s.hw core macr x) q.site code d (.macro_ macr q))
      if 512 < seg * 32 * w + 32 * w then fail cILLFIELD (10 + 2 ^ 5 + spec.toNat % 2 ^ 48 * 2 ^ 16)
      else if 2048 < x.nbase + x.active.wcols then fail cILLFIELD (16 + 2 * 2 ^ 5 + macr * 2 ^ 8)
      else
        let parts := (List.range x.active.wcols).map fun j =>
          (x.nbase + j, columnPartials (coreAt s.hw core) x rb seg rows psn j)
        let o : MOut := { stamp := q.stamp, site := q.site, isW := isW, isNull := false, total := 0, psn := false, parts := parts }
        let hw := setMacro s.hw core macr { x with out := some o }
        let t := [mkTok 0 q.site.tag .order]
        macroEnd s core (if isW then streamOut hw q.site t else settle hw q.site (emitBoth hw q.site t))
    | _ => .fault .notEnabled
  | none => .fault .notEnabled

/-- NULL_BROADCAST: one contribution with no partial for each node reached (08 R241). -/
def execNullBroadcast (core macr : Nat) (s : State) : Res State :=
  match headCmd s.hw core macr with
  | some (q, x) => match q.body with
    | .mbc _ _ _ _ _ true isW =>
      if 2048 < x.nbase + x.active.wcols then
        macroEnd s core (lateFault (setMacro s.hw core macr x) q.site cILLFIELD (16 + 2 * 2 ^ 5 + macr * 2 ^ 8) (.macro_ macr q))
      else
        let o : MOut := { stamp := q.stamp, site := q.site, isW := isW, isNull := true, total := 0, psn := false
                          parts := (List.range x.active.wcols).map fun j => (x.nbase + j, []) }
        .next { s with hw := setMacro s.hw core macr { x with out := some o } }
    | _ => .fault .notEnabled
  | none => .fault .notEnabled

/-- Whether a node holds further contributions until its group releases (08 R237). -/
def nodeHolds (hw : Hw) (c n : Nat) : Bool :=
  let x := nodeAt hw c n
  match x.group with
  | none => false
  | some id => match (coreAt hw c).groups.find? fun g => g.id = id with
    | some g => x.count == g.c
    | none => false

/-- Whether a node is in order for a contribution issued at `stamp` and not frozen (08 R236, R252). -/
def nodeOpen (hw : Hw) (c stamp n : Nat) : Bool :=
  (nodeAt hw c n).stop.isNone && !broadcastBefore hw c stamp n 1 && !nodeCmdBefore hw c stamp n 1

/-- Adds the partials of one contribution to a node, in order; the first that faults, with its source, and the node
as it then stands. -/
def addAll (n : Node) : List Partial → Except (Nat × Partial × Node) Node
  | [] => .ok n
  | p :: r => match addPartial n p with
    | .ok n => addAll n r
    | .error (src, n) => .error (src, p, n)

/-- Delivers one contribution to a node: counted if it is armed, or the node's fault; with the partials that it took, all of
them or those before the one that faults (08 R237, R252). -/
def contribute (hw : Hw) (c macr : Nat) (n : Nat) (ps : List Partial) : Hw × Nat :=
  let old := nodeAt hw c n
  match addAll old ps with
  | .ok x => (setNode hw c n { x with count := if x.group.isSome then x.count + 1 else x.count }, ps.length)
  | .error (src, p, x) =>
    (nodeFault hw c n x (.partial_ macr) src macr (ofSigned 12 p.q) (ofSigned 36 p.p), x.parts - old.parts)

/-- Counts partials of a broadcast as delivered, with their poison (08 R245). -/
def delivered (o : MOut) (ps : List Partial) : MOut := { o with total := o.total + ps.length, psn := o.psn || ps.any (·.psn) }

/-- T1 of MBCW: the number of partials delivered and their poison (08 R245). -/
def tellMbcw (hw : Hw) (o : MOut) : Hw :=
  if o.isW && !o.told then doneOut hw o.site [mkTok 0 o.site.tag .data (BitVec.ofNat 64 o.total) 0 o.psn] else hw

/-- Whether the partials at a macro's output are held: a node they reach holds them for its group, and every other node does so
too or can take them (08 R237). -/
def outHeld (hw : Hw) (c : Nat) (o : MOut) : Bool :=
  let holds := fun (n : Nat) => nodeHolds hw c n && (nodeAt hw c n).stop.isNone && !nodeCmdBefore hw c o.stamp n 1
  (o.parts.any fun p => holds p.1) && o.parts.all fun p => holds p.1 || nodeOpen hw c o.stamp p.1

/-- CONTRIBUTION: the partials at a macro's output reach their nodes, all of them, or stand there held by groups that
have not released, and are told of to MBCW's T1 (01 R30, 08 R237, R245). -/
def execContribution (core macr : Nat) (s : State) : Res State :=
  let x := macroAt s.hw core macr
  match x.out with
  | none => .fault .notEnabled
  | some o =>
    if outHeld s.hw core o then
      if o.isW && !o.told then
        let all := o.parts.foldl (fun o p => delivered o p.2) o
        .next { s with hw := tellMbcw (setMacro s.hw core macr { x with out := some { o with told := true } }) all }
      else .fault .notEnabled
    else if !(o.parts.all fun p => nodeOpen s.hw core o.stamp p.1) then .fault .notEnabled
    else
      let (hw, o) := o.parts.foldl (fun (y : Hw × MOut) p =>
        let (hw, k) := contribute y.1 core macr p.1 p.2
        let o := delivered y.2 (p.2.take k)
        (hw, if k = p.2.length then o else { o with parts := o.parts ++ [p] })) (s.hw, { o with parts := [] })
      let x := macroAt hw core macr
      if o.parts.isEmpty then macroEnd s core (tellMbcw (setMacro hw core macr { x with out := none }) o)
      else macroEnd s core (setMacro hw core macr { x with out := some o })

/-- NODECLEAR: every frozen node of a core drops its offending partial with the rest of that contribution, or its
release; its group, or the node alone, is cleared (08 R252). -/
def nodeClear (hw : Hw) (c : Nat) : Hw :=
  let stopped := (coreAt hw c).nodes.filter fun x => x.2.stop.isSome
  let hw := stopped.foldl (fun hw y =>
    let n := y.1
    let x := nodeAt hw c n
    let hw := match y.2.stop with
      | some (.partial_ m) =>
        let mc := macroAt hw c m
        setMacro hw c m { mc with out := mc.out.map fun o => { o with parts := o.parts.filter fun p => p.1 != n } }
      | _ => hw
    let hw := setNode hw c n { x with stop := none }
    match x.group.bind fun id => (coreAt hw c).groups.find? fun g => g.id = id with
    | some g => clearRange hw c g.n0 g.cnt
    | none => setNode hw c n (clearNode (nodeAt hw c n))) hw
  matSettle (modCore hw c fun k => { k with matRec := {} }) c

end Sys2Proof.Machine
end

