-- ==== Sys2Proof/Machine/Tasks.lean ====
section
/-! DEFINITION. Task records, residency and lock-key queries: SPAWN, SPAWNI, PIN, UNPIN, RESQ, KEYQ (10 R258 to R260,
R282, R286 to R294). -/
namespace Sys2Proof.Machine

/-! ## Records (10 Table 10.1) -/

/-- A word of a record. -/
def recWord (r : List Word) (i : Nat) : Nat := (r.getD i 0).toNat
/-- TYPE. -/
def recType (r : List Word) : Nat := bits (recWord r 0) 52 12
/-- PRIO. -/
def recPrio (r : List Word) : Nat := bits (recWord r 0) 49 3
/-- TCOUNT. -/
def recTcount (r : List Word) : Nat := bits (recWord r 0) 45 4
/-- KCOUNT. -/
def recKcount (r : List Word) : Nat := bits (recWord r 0) 42 3
/-- WAITC. -/
def recWaitc (r : List Word) : Nat := bits (recWord r 0) 32 10
/-- DONEC. -/
def recDonec (r : List Word) : Nat := bits (recWord r 0) 22 10
/-- ARG. -/
def recArg (r : List Word) : Nat := bits (recWord r 0) 0 22
/-- Tile reference slot `i`. -/
def recTref (r : List Word) (i : Nat) : Nat := bits (recWord r (1 + i / 2)) (32 * (i % 2)) 32
/-- Key slot `i`. -/
def recKey (r : List Word) (i : Nat) : Nat := bits (recWord r (5 + i / 2)) (32 * (i % 2)) 32
/-- The used tile references. -/
def recTrefs (r : List Word) : List Nat := (List.range (recTcount r)).map (recTref r)
/-- The used keys as (value, exclusive), in ascending value (10 R277). -/
def recKeys (r : List Word) : List (BitVec 31 × Bool) :=
  let ks := (List.range (recKcount r)).map fun i => (BitVec.ofNat 31 (recKey r i), bit (recKey r i) 31)
  ks.foldl (fun l k => (l.filter fun x => x.1 < k.1) ++ [k] ++ l.filter fun x => !(decide (x.1 < k.1))) []

/-- Records that a cluster's dispatcher holds, from Counter-wait to Ready; one that waits to be taken elsewhere is held at its sender
(10 R282). -/
def heldRecords (hw : Hw) (cl : Nat) : Nat :=
  (hw.tasks.filter fun t => (if t.transit then t.sender else t.cl) = cl &&
    (t.state == .counterWait || t.state == .acquiring || t.state == .ready || t.state == .routing)).length

/-- Sends a record to the dispatcher of the firing core's cluster (10 R259, R282, R287): the firing waits while its
queue is full; its ORDER follows acceptance. -/
def sendRecord (f : Fire) (hw : Hw) (words : List Word) (psn : Bool) : Except Stop Hw :=
  let cl := clOf f.core
  if 4096 ≤ heldRecords hw cl then .error (.wait hw)
  else
    let r : RecMsg := { words := words, psn := psn, asid := f.asid, cc := cl, site := some f.site, port := none }
    .ok { expose hw f.core f.site.seq with recs := (expose hw f.core f.site.seq).recs ++ [r] }

/-- SPAWN. -/
def specSpawn : OpSpec := { op := 0x04C#9, arity := 2, oms := [0, 2], anyLs := true, kinds := kindsMem }
/-- SPAWN (10 R287): a poisoned address is used, and poisons the task (R260). -/
def execSpawn (w : Fields) (s : State) : Res State :=
  fire specSpawn
    { ls := .load, endMode := .fwdA, notFire := memNotFire .load
      poison := fun f m hw => passPoison f m (countIssued hw f.site f.w.ls.toNat)
      body := fun f m hw => do
        let (hw, a) ← formAddr hw f.core f.frame f.asid f.a f.b.value.toInt 64 0 true false
        if 4096 ≤ heldRecords hw (clOf f.core) then .error (.wait hw)
        else do
          let (hw, ws, psn) ← readRecord f m hw a
          let hw ← sendRecord f hw ws (psn || f.psn)
          .ok (countIssued hw f.site f.w.ls.toNat) } w s

/-- The constant of SPAWNI (10 Table 10.10). -/
def spawniOk (k : Word) : Bool := decide (k.toNat < 2 ^ 38) && bits k.toNat 35 2 != 3

/-- The record of SPAWNI (10 R288). -/
def spawniRecord (k a : Nat) : List Word :=
  let keyf := bits k 35 2
  let tr := bits k 37 1
  let tref := bits a 0 32
  let w0 := bits k 0 12 * 2 ^ 52 + bits k 12 3 * 2 ^ 49 + tr * 2 ^ 45 + (if keyf = 0 then 0 else 1) * 2 ^ 42 +
    bits k 25 10 * 2 ^ 32 + bits k 15 10 * 2 ^ 22 + bits a 32 22
  let key := match keyf with
    | 1 => bits a 0 31
    | 2 => 2 ^ 31 + bits a 0 31
    | _ => 0
  [BitVec.ofNat 64 w0, BitVec.ofNat 64 (if tr = 1 then tref else 0), 0, 0, 0, BitVec.ofNat 64 key, 0, 0]

/-- SPAWNI. -/
def specSpawni : OpSpec := { op := 0x04D#9, arity := 2, oms := [2], kinds := kindsMem, fieldFault := needK spawniOk }
/-- SPAWNI (10 R288). -/
def execSpawni (w : Fields) (s : State) : Res State :=
  fire specSpawni
    { endMode := .fwdA
      body := fun f _ hw =>
        let a := f.a.value.toNat
        let k := f.b.value.toNat
        if bits a 54 10 ≠ 0 || (!bit k 37 && bits a 0 32 != 0) then .error (outOfRange 0 f.a.value)
        else sendRecord f hw (spawniRecord k a) f.psn } w s

/-! ## Record checks (10 Table 10.2, R294) -/

/-- Cause 17: subcause, TYPE, word number, its low 32 bits or the failing slot (10 R294). -/
def recordDetail (sub type word v : Nat) : Nat := 17 + sub * 2 ^ 5 + type * 2 ^ 8 + word * 2 ^ 20 + v % 2 ^ 32 * 2 ^ 32

/-- The entry of a task type in an ASID (10 R261). -/
def typeAt (hw : Hw) (asid : BitVec 10) (t : Nat) : TType := tget hw.pkg.ttypes {} (asid.toNat * 4096 + t)

/-- The refusal of a record for an ASID, if it is refused: the first condition of 10 Table 10.2 that it fails. -/
def recordFault (hw : Hw) (asid : BitVec 10) (r : List Word) : Option Nat :=
  let ty := recType r
  let low := fun (i : Nat) => recWord r i
  if !(typeAt hw asid ty).valid then some (recordDetail 0 ty 0 (low 0))
  else if 8 < recTcount r || 6 < recKcount r then some (recordDetail 1 ty 0 (low 0))
  else
    let badT := (List.range 8).find? fun i => decide (recTcount r ≤ i) && recTref r i != 0
    let badK := (List.range 6).find? fun i => decide (recKcount r ≤ i) && recKey r i != 0
    match badT, badK with
    | some i, _ => some (recordDetail 2 ty (1 + i / 2) (recTref r i))
    | none, some i => some (recordDetail 2 ty (5 + i / 2) (recKey r i))
    | none, none =>
      let dup := (List.range (recKcount r)).find? fun i =>
        (List.range i).any fun j => recKey r i % 2 ^ 31 == recKey r j % 2 ^ 31
      match dup with
      | some i => some (recordDetail 3 ty (5 + i / 2) (recKey r i))
      | none =>
        match (List.range (recTcount r)).find? fun i => badTref hw asid (recTref r i) with
        | some i => some (recordDetail 4 ty (1 + i / 2) (recTref r i))
        | none =>
          if recWaitc r = recDonec r && recWaitc r ≠ 0x3FF then some (recordDetail 5 ty 0 (low 0)) else none

/-! ## PIN, UNPIN, RESQ (10 R289 to R292) -/

/-- The constant of PIN that needs no tile: unnamed bits, LOC, the offset of LOC 16 (10 R289). -/
def pinOk (b : Word) : Bool :=
  let n := b.toNat
  decide (n < 2 ^ 29) && decide (bits n 0 5 ≤ 16) && (bits n 0 5 != 16 || bits n 5 24 == 0)

/-- PIN. -/
def specPin : OpSpec :=
  { op := 0x059#9, arity := 2, oms := [0, 2], kinds := kindsMem
    fieldFault := fun w => if w.om = 2#3 then needK pinOk w else none }
/-- PIN (10 R289). -/
def execPin (w : Fields) (s : State) : Res State :=
  fire specPin
    { endMode := .fwdA
      body := fun f _ hw =>
        let tref := f.a.value.toNat
        let n := f.b.value.toNat
        let loc := bits n 0 5
        let off := bits n 5 24
        let cl := clOf f.core
        let tile := cl * 16 + loc
        if 2 ^ 32 ≤ tref then .error (outOfRange 0 f.a.value)
        else if !pinOk f.b.value then .error (outOfRange 1 f.b.value)
        else if loc < 16 && tget hw.pkg.tileOwner 0 tile ≠ f.asid then
          .error (protFault (ownPa hw (0x3F0000000000 + tile * 0x80000 + off)) 0 false 3)
        else if badTref hw f.asid tref then .error (.fault cILLFIELD (recordDetail 4 0 0 tref))
        else
          let size := (tileRec hw f.asid tref).bytes
          if 0x80000 < off + size then .error (outOfRange 1 f.b.value)
          else
            let (hw, made) := resMake (expose hw f.core f.site.seq) cl
              { state := .valid, pin := true, asid := f.asid, tref := BitVec.ofNat 32 tref, loc := loc, bytes := size
                offset := off, made := 0 }
            out f hw (if made then 0 else 1) } w s

/-- The constant of UNPIN (10 R290). -/
def unpinOk (b : Word) : Bool :=
  decide (b.toNat < 64) && (decide (bits b.toNat 0 5 ≤ 16) || bits b.toNat 0 5 == 31)

/-- UNPIN. -/
def specUnpin : OpSpec :=
  { op := 0x05A#9, arity := 2, oms := [0, 2], kinds := kindsMem
    fieldFault := fun w => if w.om = 2#3 then needK unpinOk w else none }
/-- UNPIN: the count of entries changed (10 R290). -/
def execUnpin (w : Fields) (s : State) : Res State :=
  fire specUnpin
    { endMode := .fwdA
      body := fun f _ hw =>
        let n := f.b.value.toNat
        let loc := bits n 0 5
        if 2 ^ 32 ≤ f.a.value.toNat then .error (outOfRange 0 f.a.value)
        else if !unpinOk f.b.value then .error (outOfRange 1 f.b.value)
        else
          let cl := clOf f.core
          let tref : BitVec 32 := f.a.value.extractLsb' 0 32
          let hit := fun (e : ResEntry) => e.asid = f.asid && e.tref = tref && (loc = 31 || e.loc = loc)
          let l := (clAt hw cl).res
          let hw := expose hw f.core f.site.seq
          if bit n 5 then
            out f (setRes hw cl (l.filter fun e => !hit e)) (BitVec.ofNat 64 (l.filter hit).length)
          else
            let new := l.map fun e => if hit e then { e with pin := false } else e
            out f (setRes hw cl new) (BitVec.ofNat 64 (l.filter fun e => hit e && e.pin).length) } w s

/-- The 128 bits of a residency entry (10 Table 10.5). -/
def resBits (e : ResEntry) : Nat :=
  let st := match e.state with
    | .filling => 1
    | .valid => 2
    | .stale => 3
  st * 2 ^ 126 + b2n e.pin * 2 ^ 125 + e.asid.toNat * 2 ^ 115 + e.tref.toNat * 2 ^ 83 + e.loc * 2 ^ 78 + e.bytes * 2 ^ 54 +
    e.offset * 2 ^ 30

/-- Valid resident bytes of a reference in a cluster. -/
def validBytes (hw : Hw) (cl : Nat) (asid : BitVec 10) (tref : Nat) : Nat := bytesIn (clAt hw cl).res (asid, BitVec.ofNat 32 tref)

/-- The cluster that the residency directory names for a reference: the most valid bytes, the lowest on a tie; none for a
reference that it does not hold (10 R273). -/
def directoryNames (hw : Hw) (asid : BitVec 10) (tref : Nat) : Option Nat :=
  if !hw.pkg.refDir.contains (asid, BitVec.ofNat 32 tref) then none
  else (List.range 32).foldl (fun (best : Option Nat) (k : Nat) =>
    let n := validBytes hw k asid tref
    match best with
    | none => if n = 0 then none else some k
    | some j => if validBytes hw j asid tref < n then some k else best) none

/-- The constant of RESQ (10 R292). -/
def resqOk (b : Word) : Bool :=
  let n := b.toNat
  decide (n < 2 ^ 10) && bits n 5 3 == 0 && bits n 8 2 != 3 && (bits n 8 2 != 1 || decide (bits n 0 5 ≤ 16))

/-- The two results of RESQ, on T0 and T1 (10 R292). -/
def resqAnswer (hw : Hw) (cl : Nat) (asid : BitVec 10) (tref n : Nat) : Nat × Nat :=
  let l := (clAt hw cl).res.filter fun e => e.asid = asid && e.tref.toNat = tref
  let sel := bits n 8 2
  if sel = 0 then
    let v := ((List.range 17).map fun i => if l.any fun e => e.loc = i && e.state == .valid then 2 ^ i else 0).sum
    (v, v)
  else if sel = 1 then
    let v := (l.find? fun e => e.loc = bits n 0 5).elim 0 resBits
    (v / 2 ^ 64, v % 2 ^ 64)
  else
    let v := (directoryNames hw asid tref).elim 32 fun k => k / 8 + k % 8 * 4
    (v, v)

/-- RESQ. -/
def specResq : OpSpec :=
  { op := 0x05B#9, arity := 2, oms := [0, 2], kinds := kindsMem
    fieldFault := fun w => if w.om = 2#3 then needK resqOk w else none }
/-- RESQ (10 R292). -/
def execResq (w : Fields) (s : State) : Res State :=
  fire specResq
    { endMode := .fwdA
      body := fun f _ hw =>
        if f.a.value.toNat / 2 ^ 32 ≠ 0 then .error (outOfRange 0 f.a.value)
        else if !resqOk f.b.value then .error (outOfRange 1 f.b.value)
        else do
          let r := resqAnswer hw (clOf f.core) f.asid f.a.value.toNat f.b.value.toNat
          let hw ← emit0 f hw [tokOf f .data (BitVec.ofNat 64 r.1) f.psn]
          emit1 f hw [tokOf f .data (BitVec.ofNat 64 r.2) f.psn] } w s

/-! ## KEYQ (10 R276, R293) -/

/-- The cluster whose slice holds a key (10 R276). -/
def sliceOf (v : Nat) : Nat :=
  let h := bits v 0 5 ^^^ bits v 5 5 ^^^ bits v 10 5 ^^^ bits v 15 5 ^^^ bits v 20 5 ^^^ bits v 25 5 ^^^ bits v 30 1
  bits h 3 2 * 8 + bits h 0 3

/-- The result of KEYQ (10 R293). A count that its field cannot hold reads as the field's greatest value: DESIGN CHOICE (log
75). -/
def keySnapshot (hw : Hw) (asid : BitVec 10) (v : Nat) (q : Bool) : Nat :=
  let c := clAt hw (sliceOf v)
  let free := 2048 - c.keys.length
  if q then free + min c.keyWait.length 4095 * 2 ^ 16
  else match c.keys.find? fun e => e.asid = asid && e.key.toNat = v with
    | none => if free = 0 then 2 ^ 26 + cKEYLIMIT * 2 ^ 32 else 0
    | some e =>
      let ex := e.holders.any (·.2)
      let sh := (e.holders.filter fun h => !h.2).length
      (if ex then 2 else if sh = 0 then 0 else 1) + min sh 2047 * 4 + min e.queue.length 4095 * 2 ^ 13 +
        b2n (e.queue.any (·.resv)) * 2 ^ 25

/-- The constant of KEYQ. -/
def keyqOk (b : Word) : Bool := decide (b.toNat < 2)
/-- KEYQ. -/
def specKeyq : OpSpec :=
  { op := 0x05C#9, arity := 2, oms := [0, 2], kinds := kindsMem
    fieldFault := fun w => if w.om = 2#3 then needK keyqOk w else none }
/-- KEYQ (10 R293). -/
def execKeyq (w : Fields) (s : State) : Res State :=
  fire specKeyq
    { endMode := .fwdA
      body := fun f _ hw =>
        if 2 ^ 32 ≤ f.a.value.toNat then .error (outOfRange 0 f.a.value)
        else if !keyqOk f.b.value then .error (outOfRange 1 f.b.value)
        else out f hw (BitVec.ofNat 64 (keySnapshot hw f.asid (bits f.a.value.toNat 0 31) (f.b.value == 1))) } w s

end Sys2Proof.Machine
end

