-- ==== Sys2Proof/Machine/Sync.lean ====
section
/-! DEFINITION. Completion counters and WAITA: CNTINIT, CNTDEC, CNTWAIT, WAITA (11 R309 to R312, R316, R320 to R324). -/
namespace Sys2Proof.Machine

/-- Cluster of a counter reference, as a global number (11 R309). -/
def crefCl (r : Nat) : Nat := bits r 13 2 * 8 + bits r 10 3
/-- Counter of a counter reference (11 R309). -/
def crefIdx (r : Nat) : Nat := bits r 0 10

/-- The fault of a counter outside the frame's partition (11 R324). -/
def crefFault (r : Nat) : Stop := .fault cPROT (bits r 0 15 + 8 * 2 ^ 52)

/-- Whether a counter reference names a counter of the partition of a core (11 R320). -/
def crefMine (hw : Hw) (core r : Nat) : Bool :=
  (partOfCl hw (clOf core)).isSome && partOfCl hw (crefCl r) == partOfCl hw (clOf core)

/-- The checks of a counter reference on port a (11 R309, R316, R320). -/
def crefCheck (f : Fire) (hw : Hw) : Except Stop Unit :=
  if f.a.value.toNat / 2 ^ 15 ≠ 0 then .error (outOfRange 0 f.a.value)
  else if !crefMine hw f.core f.a.value.toNat then .error (crefFault f.a.value.toNat)
  else .ok ()

/-! ## Counters at their clusters (11 R310) -/

/-- Counter `i` of a cluster. -/
def cntAt (hw : Hw) (cl i : Nat) : Counter := tget (clAt hw cl).ctrs {} i
/-- Writes counter `i` of a cluster. -/
def setCnt (hw : Hw) (cl i : Nat) (x : Counter) : Hw := modCl hw cl fun c => { c with ctrs := tput c.ctrs {} i x }

/-- The status of a released CNTWAIT (11 R322). -/
def cntStatus (x : Counter) : Word := BitVec.ofNat 64 (b2n x.fault + b2n x.uflow * 2)

/-- Releases a CNTWAIT of a site (11 R322). -/
def releaseWait (hw : Hw) (x : Counter) (s : Site) : Hw := settle hw s (emitBoth hw s [mkTok 0 s.tag .data (cntStatus x)])

/-- After an operation: a counter at 0 releases every posted CNTWAIT and every task in Counter-wait on it (11 R310,
10 R265). -/
def settleCnt (hw : Hw) (cl i : Nat) : Hw :=
  let x := cntAt hw cl i
  if x.v ≠ 0 then hw
  else
    let mine := fun (y : CntWait) => y.idx = i && !y.returned
    let go := (clAt hw cl).waits.filter mine
    let hw := modCl hw cl fun c => { c with waits := c.waits.filter fun y => !mine y }
    let hw := go.foldl (fun hw y => releaseWait hw x y.site) hw
    let wakes := fun (t : Task) => t.state == .counterWait && t.cc = cl && recWaitc t.words = i
    { hw with tasks := hw.tasks.map fun t => if wakes t then { t with state := .routing } else t }

/-- A decrement at a counter (11 R310). -/
def decCnt (hw : Hw) (cl i : Nat) (d : Nat) (fault : Bool) : Hw :=
  let x := cntAt hw cl i
  let x := if d ≤ x.v.toNat then { x with v := x.v - BitVec.ofNat 32 d } else { x with v := 0, uflow := true }
  settleCnt (setCnt hw cl i { x with fault := x.fault || fault }) cl i

/-- An initialisation at a counter (11 R320). -/
def initCnt (hw : Hw) (cl i : Nat) (n : BitVec 32) (fault : Bool) : Hw :=
  settleCnt (setCnt hw cl i { v := n, fault := fault, uflow := false }) cl i

/-- A CNTWAIT that reaches its counter: released at once at 0, posted, or returned for a full pool (11 R310). -/
def postWait (hw : Hw) (cl i : Nat) (s : Site) : Hw :=
  let x := cntAt hw cl i
  if x.v = 0 then releaseWait hw x s
  else
    let full := decide (512 ≤ ((clAt hw cl).waits.filter fun y => !y.returned).length)
    modCl hw cl fun c => { c with waits := c.waits ++ [{ idx := i, site := s, returned := full, due := hw.now + 16 }] }

/-! ## The instructions -/

/-- Posts an operation towards the counter that port a names (11 R310). -/
def postCnt (f : Fire) (hw : Hw) (body : CntOpBody) : Hw :=
  let hw := expose hw f.core f.site.seq
  let op : CntOp := { cl := crefCl f.a.value.toNat, idx := crefIdx f.a.value.toNat, body := body, src := siteSrc f.site }
  { hw with cntOps := hw.cntOps ++ [op] }

/-- The kinds of a counter instruction's ports (11 R316, R321). -/
def kindsCnt (p : Nat) : List Kind := if p = 2 then [.data, .null, .order, .paddr, .fault] else kindsMem p

/-- The value of CNTINIT (11 R320). -/
def initOk (b : Word) : Bool := decide (b.toNat < 2 ^ 32)
/-- The decrement of CNTDEC (11 R321). -/
def decOk (b : Word) : Bool := decide (1 ≤ b.toNat ∧ b.toNat < 2 ^ 32)
/-- A constant at port b that must satisfy a condition. -/
def needKb (ok : Word → Bool) (w : Fields) : Option Nat := if w.om = 2#3 then needK ok w else none

/-- CNTINIT. -/
def specCntinit : OpSpec :=
  { op := 0x04E#9, arity := 2, oms := [0, 2], xfOk := scopeXf, kinds := kindsMem, fieldFault := needKb initOk }
/-- CNTINIT: its ORDER follows the application (11 R320). -/
def execCntinit (w : Fields) (s : State) : Res State :=
  fire specCntinit
    { endMode := .fwdA
      body := fun f m hw =>
        if tokPsn f.a then passPoison f m hw
        else if !initOk f.b.value then .error (outOfRange 1 f.b.value)
        else do
          crefCheck f hw
          .ok (postCnt f hw (.init (f.b.value.extractLsb' 0 32) (tokPsn f.b) (some f.site))) } w s

/-- CNTDEC. -/
def specCntdec : OpSpec :=
  { op := 0x04F#9, arity := 3, oms := [0, 2], xfOk := scopeXf, kinds := kindsCnt, fieldFault := needKb decOk }
/-- CNTDEC: the accesses that its tokens certify have performed when they arrive (11 R301, R321). -/
def execCntdec (w : Fields) (s : State) : Res State :=
  fire specCntdec
    { endMode := .fwdA, ownNull := true
      body := fun f m hw =>
        if f.a.kind = .null || f.b.kind = .null then passNull f m hw
        else if tokPsn f.a then passPoison f m hw
        else if !decOk f.b.value then .error (outOfRange 1 f.b.value)
        else do
          crefCheck f hw
          let bad := f.c.kind == .fault || tokPsn f.b || tokPsn f.c
          .ok (postCnt f hw (.dec (f.b.value.extractLsb' 0 32) bad (some f.site))) } w s

/-- CNTWAIT. -/
def specCntwait : OpSpec := { op := 0x050#9, arity := 1, xfOk := scopeXf, kinds := kindsMem }
/-- CNTWAIT (11 R322). -/
def execCntwait (w : Fields) (s : State) : Res State :=
  fire specCntwait
    { endMode := .fwdA
      body := fun f m hw =>
        if tokPsn f.a then passPoison f m hw
        else do
          crefCheck f hw
          .ok (postCnt f hw (.wait f.site)) } w s

/-- WAITA. -/
def specWaita : OpSpec :=
  { op := 0x051#9, arity := 3, oms := [0, 2, 3, 4], fnOk := fun n => decide (n < 32), xfOk := scopeXf, kinds := kindsMem
    fieldFault := fun w =>
      let v : Word := if w.om = 4#3 then (w.k.extractLsb' 24 24).signExtend 64 else w.k.signExtend 64
      if (w.om = 3#3 || w.om = 4#3) && v.toNat / 2 ^ 40 ≠ 0 then some (kBad 2 v) else none }
/-- WAITA: posts at the home's monitor table (11 R312, R323). -/
def execWaita (w : Fields) (s : State) : Res State :=
  fire specWaita
    { endMode := .fwdA
      body := fun f m hw =>
        if tokPsn f.a then passPoison f m hw
        else do
          let wd := widthOf f.w
          let (hw, a) ← formAddr hw f.core f.frame f.asid f.a 0 wd 2 true true
          scopeCheck hw a (scopeOf f.w)
          if f.c.value.toNat / 2 ^ 40 ≠ 0 then .error (outOfRange 2 f.c.value)
          else
            let cond := f.w.fn.extractLsb' 3 2
            let y := zx (8 * wd) f.b.value
            .ok (postAccess (expose hw f.core f.site.seq)
              (accessOf f hw 0 (.monitor cond y f.c.value.toNat (sxOf f.w)) a wd)) } w s

end Sys2Proof.Machine
end

