-- ==== Sys2Proof/Machine/Halyard.lean ====
section
/-! DEFINITION. The halyard instructions HCOPY, HGATH, HSCAT, HRED, HFILL (13 R347 to R349, R351, R354). -/
namespace Sys2Proof.Machine

/-! ## The descriptor (13 Table 13.5) -/

/-- LEN. -/
def halLen (d : List Word) : Nat := bits (dWord d 2) 0 32
/-- Rows or elements. -/
def halCount (d : List Word) : Nat := bits (dWord d 2) 32 32 + 1
/-- A stride, 0 meaning LEN. -/
def halStride (d : List Word) (dst : Bool) : Int :=
  let n := toSigned 32 (bits (dWord d 3) (if dst then 32 else 0) 32)
  if n = 0 then halLen d else n
/-- CREF. -/
def halCref (d : List Word) : Nat := bits (dWord d 5) 0 15
/-- CEN. -/
def halCen (d : List Word) : Bool := bit (dWord d 5) 15
/-- ROP. -/
def halRop (d : List Word) : Nat := bits (dWord d 5) 16 4
/-- RFMT. -/
def halFmt (d : List Word) : Nat := bits (dWord d 5) 20 4
/-- TREN. -/
def halTren (d : List Word) : Bool := bit (dWord d 5) 24
/-- Bytes of an element of RFMT. -/
def halWidth (d : List Word) : Nat := (fmtOf (halFmt d)).width / 8

/-- Whether HRED takes an operator and format (13 R351). -/
def hredOk (rop fmt : Nat) : Bool :=
  match rop with
  | 0 => decide (4 ≤ fmt ∧ fmt ≤ 10)
  | 1 | 2 => decide (fmt ≤ 10)
  | 3 => decide (fmt ≤ 7)
  | _ => false

/-- The further limits of HRED as (word, broken) (13 R351). -/
def hredLimits (d : List Word) : List (Nat × Bool) :=
  if !hredOk (halRop d) (halFmt d) then [(5, true)]
  else
    let w := halWidth d
    [(0, dWord d 0 % w != 0), (1, dWord d 1 % w != 0), (2, halLen d % w != 0),
     (3, bits (dWord d 3) 0 32 % w != 0 || bits (dWord d 3) 32 32 % w != 0)]

/-- The limits of a descriptor as (word, broken), in word order (13 R349, R354). -/
def halLimits (op : Nat) (d : List Word) : List (Nat × Bool) :=
  let w5 := dWord d 5
  let indexed := op = 1 || op = 2
  [(0, op != 4 && bits (dWord d 0) 48 16 != 0),
   (1, bits (dWord d 1) 48 16 != 0),
   (2, halLen d == 0 || bits (dWord d 2) 52 12 != 0),
   (3, op == 4 && bits (dWord d 3) 0 32 != 0),
   (4, if indexed then bits (dWord d 4) 48 16 != 0 || dWord d 4 % 4 != 0 else dWord d 4 != 0),
   (5, bits w5 25 39 != 0 || (op != 3 && bits w5 16 8 != 0) || (op != 0 && bit w5 24)),
   (6, bits (dWord d 6) 48 16 != 0 || dWord d 6 % 32 != 0),
   (7, bits (dWord d 7) 32 32 != 0 || (!halTren d && dWord d 7 != 0))] ++
    (if op = 3 then hredLimits d else [])

/-- The number of the lowest word that breaks a limit. -/
def badHal (op : Nat) (d : List Word) : Option Nat :=
  argMin id (((halLimits op d).filter (·.2)).map (·.1))

/-! ## The residency entry of HCOPY (13 R354, 10 R269) -/

/-- Where the engine would find a VA now, without a translation of its own. -/
def peekPa (m : Mem) (hw : Hw) (s : Site) (va : Nat) : Option Nat :=
  if inWindow va then
    match windowResolve hw (coreOf s.elem) s.frame va 1 with
    | .ok l => some (ownPa hw l)
    | .error _ => none
  else
    let die := dieOf (coreOf s.elem)
    match (holderTlb hw die (64 + clOf (coreOf s.elem) % 8)).find? fun x => xlCovers x s.asid va with
    | some x => some (x.pa + (va - x.va))
    | none => match (dieAt hw die).dir.find? fun e => xlCovers e.x s.asid va with
      | some e => some (e.x.pa + (va - e.x.va))
      | none => match walk m hw die s.asid va true with
        | .ok (x, _, _) => some (x.pa + (va - x.va))
        | .error _ => none

/-- The tile of this cluster, as LOC, that holds every destination row of a copy, and the offset of DST in it. -/
def copyTile (m : Mem) (hw : Hw) (s : Site) (d : List Word) : Option (Nat × Nat) :=
  match peekPa m hw s (dWord d 1) with
  | none => none
  | some pa =>
    let l := paLocal pa
    let t := tileOf l
    if paLC pa ≠ ownLC hw || !inAperture l || t / 16 ≠ clOf (coreOf s.elem) || 2 ^ 19 < halLen d then none
    else
      let inTile := fun (va : Nat) => match peekPa m hw s va with
        | some p => decide (paLC p = ownLC hw) && inAperture (paLocal p) && decide (tileOf (paLocal p) = t)
        | none => false
      let row := fun (r : Nat) =>
        let b := ofSigned 48 ((dWord d 1 : Int) + r * halStride d true)
        (List.range ((b + halLen d - 1) / 4096 - b / 4096 + 1)).all fun i => inTile (max b ((b / 4096 + i) * 4096))
      if (List.range (halCount d)).all row then some (t % 16, bits l 0 19) else none

/-- Makes the residency entry of a copy that asks for one, as it is accepted; with its stamp. -/
def copyEntry (m : Mem) (hw : Hw) (s : Site) (op : Nat) (d : List Word) : Hw × Option Nat :=
  if op ≠ 0 || !halTren d then (hw, none)
  else match copyTile m hw s d with
    | none => (hw, none)
    | some (loc, off) =>
      let e : ResEntry :=
        { state := .filling, pin := false, asid := s.asid, tref := BitVec.ofNat 32 (dWord d 7), loc := loc
          bytes := halLen d * halCount d, offset := off, made := 0 }
      let n := hw.ids
      let (hw, made) := resMake hw (clOf (coreOf s.elem)) e
      (hw, if made then some n else none)

/-! ## The instructions (13 R348, R349) -/

/-- Kinds of a halyard instruction (13 R348). -/
def kindsHal (p : Nat) : List Kind :=
  if p = 0 then [.data, .paddr, .null, .endm] else [.data, .null, .order, .paddr, .fault]

/-- What a halyard instruction accepts (13 R348). -/
def halSpec (op : BitVec 9) : OpSpec :=
  { op := op, arity := 2, oms := [0, 2], anyLs := true, xfOk := scopeXf, kinds := kindsHal
    fieldFault := fun w => if w.om = 2#3 then needK (fun k => k == 0) w else none }

/-- DATA 0 with poison: nothing is requested. -/
def halPoison (f : Fire) (m : Mem) (hw : Hw) : Except Stop Hw := passPoison f m (countIssued hw f.site f.w.ls.toNat)

/-- Hands a checked descriptor to the engine (13 R349). -/
def halAccept (op : Nat) (f : Fire) (m : Mem) (hw : Hw) (d : List Word) : Except Stop Hw :=
  match badHal op d with
  | some i => .error (badField i (d.getD i 0))
  | none =>
    if halCen d && !crefMine hw f.core (halCref d) then .error (crefFault (halCref d))
    else
      let cl := clOf f.core
      let hw := countIssued (expose hw f.core f.site.seq) f.site f.w.ls.toNat
      let (hw, entry) := copyEntry m hw f.site op d
      let (n, hw) := stamp hw
      let r : HalReq :=
        { id := n, op := op, desc := d, site := f.site, scope := scopeOf f.w, gen := genOfCl hw cl, entry := entry }
      emit1 f (modCl hw cl fun c => { c with hal := c.hal ++ [r] }) [tokOf f .order]

/-- The effect of a halyard instruction without a NULL (13 R349). -/
def halBody (op : Nat) (f : Fire) (m : Mem) (hw : Hw) : Except Stop Hw :=
  if f.b.kind = .fault then fwd f (countIssued hw f.site f.w.ls.toNat) f.b f.tag
  else if tokPsn f.a then halPoison f m hw
  else do
    let (hw, a) ← formAddr hw f.core f.frame f.asid f.a 0 64 4 true false
    if 16 ≤ (clAt hw (clOf f.core)).hal.length then .error (.wait hw)
    else do
      let (hw, d, psn) ← readRecord f m hw a
      if psn then halPoison f m hw else halAccept op f m hw d

/-- The meaning of a halyard instruction: the FAULT of an order port passes before a NULL (13 R349). -/
def halMeaning (op : Nat) : Meaning :=
  { ls := .load, endMode := .fwdA, notFire := memNotFire .load, poison := halPoison, body := halBody op
    onNull := fun f m hw => if f.b.kind = .fault then fwd f hw f.b f.tag else passNull f m hw }

/-- HCOPY. -/
def specHcopy : OpSpec := halSpec 0x1CA#9
/-- HCOPY (13 R348, R349). -/
def execHcopy (w : Fields) (s : State) : Res State := fire specHcopy (halMeaning 0) w s
/-- HGATH. -/
def specHgath : OpSpec := halSpec 0x1CB#9
/-- HGATH (13 R348, R349). -/
def execHgath (w : Fields) (s : State) : Res State := fire specHgath (halMeaning 1) w s
/-- HSCAT. -/
def specHscat : OpSpec := halSpec 0x1CC#9
/-- HSCAT (13 R348, R349). -/
def execHscat (w : Fields) (s : State) : Res State := fire specHscat (halMeaning 2) w s
/-- HRED. -/
def specHred : OpSpec := halSpec 0x1CD#9
/-- HRED (13 R348, R349, R351). -/
def execHred (w : Fields) (s : State) : Res State := fire specHred (halMeaning 3) w s
/-- HFILL. -/
def specHfill : OpSpec := halSpec 0x1CE#9
/-- HFILL (13 R348, R349). -/
def execHfill (w : Fields) (s : State) : Res State := fire specHfill (halMeaning 4) w s

end Sys2Proof.Machine
end

