-- ==== Sys2Proof/Machine/Service.lean ====
section
/-! DEFINITION. TRAP, SVC and BRK (13 R356 to R358). -/
namespace Sys2Proof.Machine

/-- A service number or breakpoint code (13 R358). -/
def svcK (k : Word) : Bool := decide (k.toNat < 64)

/-- The service core that serves a cluster now: c div 2, or the next of the die that is not held in reset (13 R356). -/
def scOf (hw : Hw) (cl : Nat) : Nat :=
  let held := fun (s : Nat) => (tget (dieAt hw (cl / 8)).scs {} s).reset
  let s := cl % 8 / 2
  ([s, (s + 1) % 4, (s + 2) % 4, (s + 3) % 4].find? fun x => !held x).getD s

/-- Whether an inbox and what is on its way to it leave room for one more token (13 R356). -/
def inboxRoom (hw : Hw) (die sc : Nat) : Bool :=
  decide ((tget (dieAt hw die).scs {} sc).inbox.length + (hw.svc.filter fun m => m.die = die && m.sc = sc).length < 512)

/-- A request token of a firing (13 R357). -/
def svcRequest (reply : Bool) (f : Fire) (hw : Hw) : Hw :=
  let n := bits f.w.k.toNat 0 6
  let t : Token := { f.a with kind := .service, aux := BitVec.ofNat 7 (64 + n), psn := false, rank := 0, cont := 0, tag := f.tag }
  let task := (spaceOwner hw f.core f.frame f.tag).map fun o => (ctxAt (coreAt hw o.1) o.2).task
  let m : SvcMsg :=
    { die := dieOf f.core, sc := scOf hw (clOf f.core), tok := t, site := some f.site, reply := reply, asid := f.asid, task := task }
  let hw := expose hw f.core f.site.seq
  { hw with svc := hw.svc ++ [m] }

/-- What TRAP, SVC and BRK accept (13 R358). -/
def svcSpec (op : BitVec 9) : OpSpec :=
  { op := op, arity := 2, oms := [2], kinds := fun _ => [.data, .paddr, .null, .endm], fieldFault := needK svcK }

/-- END of TRAP, SVC and BRK: their one operand besides the constant (13 R358, 03 R94). -/
def svcMeaning (go : Fire → Hw → Except Stop Hw) : Meaning :=
  { body := fun f m hw => if tokPsn f.a then passPoison f m hw else go f hw }

/-- Sends a request; the firing waits while its service core's inbox is full (13 R356). -/
def svcSend (reply : Bool) (f : Fire) (hw : Hw) : Except Stop Hw :=
  if inboxRoom hw (dieOf f.core) (scOf hw (clOf f.core)) then .ok (svcRequest reply f hw) else .error (.wait hw)

/-- TRAP. -/
def specTrap : OpSpec := svcSpec 0x056#9
/-- TRAP: ORDER follows the entry of its request into an inbox (13 R358). -/
def execTrap (w : Fields) (s : State) : Res State :=
  fire specTrap (svcMeaning (svcSend false)) w s

/-- SVC. -/
def specSvc : OpSpec := svcSpec 0x057#9
/-- SVC: the reply comes back at SVC_REPLY (13 R358). -/
def execSvc (w : Fields) (s : State) : Res State :=
  fire specSvc (svcMeaning (svcSend true)) w s

/-- DBG of an ASID on a core's die (13 Table 13.2). -/
def dbgOn (hw : Hw) (core : Nat) (asid : BitVec 10) : Bool :=
  (tget (dieAt hw (dieOf core)).xlAsid 0 asid.toNat).getLsbD 62

/-- BRK. -/
def specBrk : OpSpec := svcSpec 0x058#9
/-- BRK: passes A, or freezes its element with CODE NONE as a breakpoint (13 R358). -/
def execBrk (w : Fields) (s : State) : Res State :=
  fire specBrk (svcMeaning fun f hw =>
    if dbgOn hw f.core f.asid then .error (.fault 0 (bits f.w.k.toNat 0 6 + 2 ^ 8)) else fwd f hw f.a f.tag) w s

end Sys2Proof.Machine
end

