-- ==== Sys2Proof/Machine/Frames.lean ====
section
/-! DEFINITION. Frames and configuration messages (02 R43, R44, 06 R162, R164): IWORD_LO, IWORD_HI, BHDR_LO, BHDR_HI,
ROUTE, KSET. -/
namespace Sys2Proof.Machine

/-! ## Taking effect -/

/-- Clears what elements of a core hold in a frame: words, halves and waiting operands (06 R162). -/
def clearSlots (hw : Hw) (c f : Nat) (words : Bool) : Hw :=
  (List.range 32).foldl (fun hw e5 =>
    let x := elemAt hw (c * 32 + e5)
    let other := fun (s : Nat) => s / 4 != f
    let x := { x with ops := x.ops.filter fun o => other o.slot }
    setElem hw (c * 32 + e5) (if words then { x with words := tkeep other x.words, lo := tkeep other x.lo } else x)) hw

/-- Empties the slots of a frame: words and halves. -/
def clearWords (hw : Hw) (c f : Nat) : Hw :=
  (List.range 32).foldl (fun hw e5 =>
    let x := elemAt hw (c * 32 + e5)
    let other := fun (s : Nat) => s / 4 != f
    setElem hw (c * 32 + e5) { x with words := tkeep other x.words, lo := tkeep other x.lo }) hw

/-- Forgets the counts of arrivals, firings, openings and commits of a frame, which begin anew when its header takes
effect (06 R165). -/
def clearCounts (hw : Hw) (c f : Nat) : Hw :=
  modCore hw c fun x =>
    { x with arrived := tkeep (fun k => k / 4 / 2 ^ 20 % 32 / 4 != f) x.arrived
             firedN := tkeep (fun k => k / 2 ^ 20 % 32 / 4 != f) x.firedN
             opened := tkeep (fun k => k / 2 ^ 20 % 8 != f) x.opened
             committed := tkeep (fun k => k / 2 ^ 20 % 8 != f) x.committed
             past := x.past.filter fun a => a.frame != f
             lsDone := x.lsDone.filter fun y => y.frame != f }

/-- The first configuration message for a Free frame makes it Loading (06 Table 6.2): what waits at its slots goes if another
ASID had it (06 R162). DESIGN CHOICE (log 87): its owner is ASID 0 until the loader names one; the spec names none for a frame
that firmware loads by messages. -/
def startLoad (hw : Hw) (c f : Nat) : Hw :=
  let fr := frameAt (coreAt hw c) f
  if fr.state = .free then
    let hw := if fr.asid = 0 then hw else clearSlots hw c f false
    modCore hw c fun x => setFrame x f { fr with state := .loading, chain := 0, asid := 0 }
  else hw

/-- A fault of a core for a configuration message (02 R43, R44): the element that the message names freezes. -/
def cfgFault (hw : Hw) (m : CfgMsg) (code detail : Nat) (why : FaultFrom := .none) : Hw :=
  let e := contElem m.tok.cont
  let s := contSlot m.tok.cont
  freeze hw e s m.tok.tag (wordOp (tget (elemAt hw e).words 0 s)) why code detail m.tok.psn (Kind.code m.tok.kind) (contPort m.tok.cont)

/-- Whether a word's OP is of class 6 (02 Table 2.15). -/
def isMemOp (w : BitVec 128) : Bool := (wordOp w).toNat / 64 == 6

/-- An IWORD_HI takes effect (02 R44, 06 R164). -/
def putWord (hw : Hw) (m : CfgMsg) : Hw :=
  let e := contElem m.tok.cont
  let s := contSlot m.tok.cont
  let x := elemAt hw e
  match tfind x.lo s with
  | none => cfgFault hw m cILLFIELD 9
  | some lo =>
    let w : BitVec 128 := m.tok.value ++ lo
    let hw := setElem hw e { x with words := tput x.words 0 s w, lo := tdel x.lo s }
    let fr := frameAt (coreAt hw (coreOf e)) (s / 4)
    if fr.state = .loading && isMemOp w then
      modCore hw (coreOf e) fun c => setFrame c (s / 4) { fr with chain := fr.chain ||| BitVec.ofNat 32 (2 ^ (wordFields w).ls.toNat) }
    else hw

/-- A BHDR_HI takes effect: the frame's state follows the path that loads it (06 Table 6.2). DESIGN CHOICE (log 87): the sender
of this message alone decides whether the frame counts as loaded by firmware (02 R73), whoever sent its words. -/
def putHeader (hw : Hw) (m : CfgMsg) : Hw :=
  let c := contCore m.tok.cont
  let f := contFrame m.tok.cont
  let fr := frameAt (coreAt hw c) f
  match fr.lo with
  | none => cfgFault hw m cILLFIELD 9
  | some lo =>
    let st : FrameState := if fr.loadTask then .transient else .resident
    let fw := match m.src with
      | .firmware => true
      | _ => false
    let fr := { fr with header := m.tok.value ++ lo, lo := none, state := st, loadTask := false, firmware := fw }
    clearCounts (modCore hw c fun x => setFrame x f fr) c f

/-- A configuration message takes effect (02 R44). -/
def applyCfg (hw : Hw) (m : CfgMsg) : Hw :=
  let e := contElem m.tok.cont
  let c := contCore m.tok.cont
  let s := contSlot m.tok.cont
  let f := contFrame m.tok.cont
  let v := m.tok.value
  let hw := if m.tok.aux = 6#7 then hw else startLoad hw c f
  let x := elemAt hw e
  let fr := frameAt (coreAt hw c) f
  match m.tok.aux.toNat with
  | 1 => setElem hw e { x with lo := tins x.lo s v }
  | 2 => putWord hw m
  | 3 => modCore hw c fun y => setFrame y f { fr with lo := some v }
  | 4 => putHeader hw m
  | 5 => modCore hw c fun y => setFrame y f { fr with routes := tput fr.routes 0 (bits v.toNat 32 8) (v.extractLsb' 0 32) }
  | _ =>
    let w := tget x.words 0 s
    if wordOp w = 0#9 then cfgFault hw m cEMPTY 0 (.config m)
    else setElem hw e { x with words := tput x.words 0 s (w.extractLsb' 48 80 ++ v.extractLsb' 0 48) }

/-- Whether a frame of a core holds an uncommitted activation. -/
def frameBusy (hw : Hw) (c f : Nat) : Bool := !(actsOf (coreAt hw c) f).isEmpty

/-- The held messages of a frame take effect, once it holds no uncommitted activation (02 R44). -/
def drainHeld (hw : Hw) (c f : Nat) : Hw :=
  let fr := frameAt (coreAt hw c) f
  if fr.held.isEmpty || frameBusy hw c f then hw
  else fr.held.foldl applyCfg (modCore hw c fun x => setFrame x f { fr with held := [] })

/-- The held messages of every frame of a core that may take effect do. -/
def drainCore (hw : Hw) (c : Nat) : Hw := (List.range 8).foldl (fun hw f => drainHeld hw c f) hw

/-! ## Acceptance (02 R43) -/

/-- Whether a message's continuation is as Table 2.4 states. -/
def cfgPlace (t : Token) : Bool :=
  match t.aux.toNat with
  | 1 | 2 | 6 => contPort t.cont == 0
  | _ => contE t.cont == 0 && contS t.cont == 0 && contPort t.cont == 0

/-- Whether the bits of VALUE that Table 2.4 does not use are 0. -/
def cfgUnused (t : Token) : Bool :=
  match t.aux.toNat with
  | 5 => bits t.value.toNat 40 24 == 0
  | 6 => bits t.value.toNat 48 16 == 0
  | _ => true

/-- Whether a source may send a code to a core (02 Table 2.4). -/
def cfgSource (m : CfgMsg) : Bool :=
  match m.src with
  | .ingress _ => m.tok.aux = 6#7
  | _ => decide (1 ≤ m.tok.aux.toNat ∧ m.tok.aux.toNat ≤ 6)

/-- A message reaches its core: a fault for one that R43 does not allow; held behind an uncommitted activation or
behind a held message (R44); or taking effect. -/
def takeCfg (hw : Hw) (m : CfgMsg) : Hw :=
  let c := contCore m.tok.cont
  let f := contFrame m.tok.cont
  let fr := frameAt (coreAt hw c) f
  if !(cfgSource m && cfgPlace m.tok && cfgUnused m.tok) then cfgFault hw m cILLFIELD 9
  else if !fr.held.isEmpty || (m.tok.aux != 6#7 && frameBusy hw c f) then
    modCore hw c fun x => setFrame x f { fr with held := fr.held ++ [m] }
  else applyCfg hw m

/-! ## Events -/

/-- The position of a configuration message of a port among the tokens on their way. -/
def cfgFlight (hw : Hw) (m : CfgMsg) : Option Nat :=
  match m.src with
  | .ingress p => posOf (fun (x : Flight) => x.src == .port p && x.tok == m.tok) hw.net
  | _ => none

/-- A configuration message of one code, which a frozen element takes too (03 R98). One from an ingress port stands among
the tokens on their way, in the order of its stream towards the element (02 R44), and is dropped and counted if its
partition is of another generation now (15 R396). -/
def cfgEvent (ok : Bool) (m : CfgMsg) (s : State) : Res State :=
  let e := contElem m.tok.cont
  if m.tok.kind ≠ .config || !ok then .fault .notEnabled
  else match m.src with
    | .ingress p =>
      (match cfgFlight s.hw m with
      | none => .fault .notEnabled
      | some n =>
        let hw := { s.hw with net := dropAt s.hw.net n }
        let stale := (s.hw.net[n]?).any fun y => y.gen != genOfCl hw (clOf (coreOf e))
        if (s.hw.net.take n).any fun y => y.src == .port p && contElem y.tok.cont = e then .fault .notEnabled
        else if stale then .next { s with hw := modPkg hw fun g => { g with stale := g.stale + 1 } }
        else .next { s with hw := takeCfg hw m })
    | _ => .next { s with hw := takeCfg s.hw m }

/-- IWORD_LO (02 R44). A message whose code names nothing for a core, which faults the core (02 R43), comes here too. -/
def execIwordLo (m : CfgMsg) (s : State) : Res State :=
  cfgEvent (decide (m.tok.aux = 1#7 ∨ m.tok.aux = 0#7 ∨ 7 ≤ m.tok.aux.toNat)) m s
/-- IWORD_HI (02 R44). -/
def execIwordHi (m : CfgMsg) (s : State) : Res State := cfgEvent (m.tok.aux == 2#7) m s
/-- BHDR_LO (02 R44). -/
def execBhdrLo (m : CfgMsg) (s : State) : Res State := cfgEvent (m.tok.aux == 3#7) m s
/-- BHDR_HI (02 R44, R57). -/
def execBhdrHi (m : CfgMsg) (s : State) : Res State := cfgEvent (m.tok.aux == 4#7) m s
/-- ROUTE (02 R44). -/
def execRoute (m : CfgMsg) (s : State) : Res State := cfgEvent (m.tok.aux == 5#7) m s
/-- KSET (02 R44). -/
def execKset (m : CfgMsg) (s : State) : Res State := cfgEvent (m.tok.aux == 6#7) m s

end Sys2Proof.Machine
end

