-- ==== Sys2Proof/Machine/Discard.lean ====
section
/-! DEFINITION. Discarding work: uncommitted activations (13 R367 steps 3 and 5), tasks (10 R265), a region's current
configuration (13 R360), and what a core or cluster loses when it changes hands (15 R395, R397). -/
namespace Sys2Proof.Machine

/-! ## Outstanding operations of sites that are gone -/

/-- Whether an operation towards a counter survives its site: waits are freed, others stay without their output. -/
def orphanCnt (dead : Site → Bool) (o : CntOp) : Option CntOp :=
  match o.body with
  | .wait s => if dead s then none else some o
  | .init n b (some s) => some (if dead s then { o with body := .init n b none } else o)
  | .dec d b (some s) => some (if dead s then { o with body := .dec d b none } else o)
  | _ => some o

/-- Whether a spread unit answers to a site. -/
def spreadSite : SpreadUnit → Site
  | .wring s .. => s
  | .spread s .. => s

/-- Drops what a core has of sites that are gone at a time: generators, sessions. A frame that loses a stopped generator has
moved (11 R315). -/
def dropCoreSites (now : Nat) (dead : Site → Bool) (x : Core) : Core :=
  let stops := (x.gens.filter fun g => g.2.state == .stopped).filterMap fun g => g.2.site.filter dead
  { x with gens := x.gens.filter fun g => !g.2.site.any dead
           spread := x.spread.filter fun u => !dead (spreadSite u.2)
           rport := x.rport.filter fun u => !dead u.2.site
           moved := stops.foldl (fun t s => tput t 0 s.frame now) x.moved }

/-- A site whose outputs go nowhere. -/
def muteSite (s : Site) : Site := { s with t0 := 0, t1 := 0 }

/-- Drops a cluster's monitor entries and posted waits of sites that are gone (11 R312, 13 R360, R367). -/
def dropClWaits (dead : Site → Bool) (x : Cluster) : Cluster :=
  { x with mons := x.mons.filter fun e => e.remote.isSome || !dead e.site
           waits := x.waits.filter fun w => !dead w.site }

/-- Drops what clusters have of sites that are gone: monitor entries, posted waits, queued SWITCH requests; halyard
requests run on without their completion token (13 R360, R367). -/
def dropClSites (dead : Site → Bool) (x : Cluster) : Cluster :=
  let x := dropClWaits dead x
  { x with hal := x.hal.map fun r => if dead r.site then { r with site := muteSite r.site } else r
           rcs := x.rcs.map fun r => (r.1, { r.2 with swq := r.2.swq.filter fun q => !dead q.2.2 }) }

/-- Whether an access on its way is a WAITA's. -/
def isWaita (a : Access) : Bool :=
  match a.kind with
  | .monitor .. => true
  | _ => false

/-- Frees the WAITAs and CNTWAITs of sites, posted or on their way to the cluster that would post them (13 R360). -/
def dropWaits (hw : Hw) (dead : Site → Bool) : Hw :=
  { hw with cls := hw.cls.map fun k => (k.1, dropClWaits dead k.2)
            acc := hw.acc.filter fun a => !(isWaita a && dead a.site)
            cntOps := hw.cntOps.filter fun o => match o.body with
              | .wait s => !dead s
              | _ => true }

/-- The residency entry that a WRING unit fills (10 R269). -/
def spreadFills : SpreadUnit → Option Nat
  | .wring _ _ _ _ _ _ _ _ made => made.map (·.2)
  | .spread .. => none

/-- Residency entries that wait for a WRING or HCOPY that is gone become stale, as those of a failed copy do (10 R269). -/
def staleOrphans (hw : Hw) : Hw :=
  let live := (hw.cores.map fun x => x.2.spread.filterMap fun u => spreadFills u.2).flatten ++
    (hw.cls.map fun k => k.2.hal.filterMap (·.entry)).flatten
  { hw with cls := hw.cls.map fun k => (k.1, { k.2 with res := k.2.res.map fun e =>
      if e.state == .filling && !(live.contains e.made) then { e with state := .stale, notice := false } else e }) }

/-- Whether an access only reads. -/
def readsOnly : AccKind → Bool
  | .store | .atomic .. => false
  | _ => true

/-- The accesses on their way without the reads of sites that are gone; their stores and atomics still perform, and what comes
back of them is dropped (06 R171, 13 R367 step 3, R368). -/
def dropAccesses (dead : Site → Bool) (l : List Access) : List Access :=
  (l.filter fun a => !(readsOnly a.kind && dead a.site)).map fun a => if dead a.site then { a with site := muteSite a.site } else a

/-- Drops the outstanding operations of sites of a core that are gone (13 R367 step 3); what has been requested of
another unit stays requested, without its output. -/
def dropSites (hw : Hw) (c : Nat) (gone : Site → Bool) : Hw :=
  let dead := fun (s : Site) => decide (coreOf s.elem = c) && gone s
  let hw := staleOrphans (forgetFails (modCore hw c (dropCoreSites hw.now dead)) (dieOf c) (c % 64))
  { hw with
    cls := hw.cls.map fun k => (k.1, dropClSites dead k.2)
    acc := dropAccesses dead hw.acc
    cntOps := hw.cntOps.filterMap (orphanCnt dead)
    svc := hw.svc.map fun m => match m.site with
      | some s => if dead s then { m with site := none, reply := false } else m
      | none => m
    replies := hw.replies.filter fun r => !dead r.site
    recs := hw.recs.map fun r => match r.site with
      | some s => if dead s then { r with site := none } else r
      | none => r
    scratch := hw.scratch.filter fun x => !(decide (coreOf x.elem = c) && gone
      { elem := x.elem, frame := x.slot / 4, slot := x.slot, tag := x.tag, occ := 0, seq := none, asid := 0, op := 0, t0 := 0, t1 := 0 }) }

/-! ## Activations -/

/-- The first discarded occurrence of a frame and tag. -/
def deadFrom (dead : List Act) (f : Nat) (tag : BitVec 20) : Option Nat :=
  argMin id ((dead.filter fun a => a.frame = f && a.tag = tag).map (·.occ))

/-- A table of counts keyed by `keyAct`, `keySlot` or `keyPort` (`w` values below the tag and `s` above it as slots
per element), taken back to the first discarded occurrence. -/
def takeBack (dead : List Act) (div slots : Nat) (t : Tab Nat) : Tab Nat :=
  t.filterMap fun x =>
    let n := x.1 / div
    match deadFrom dead (n / 2 ^ 20 % (8 * slots) / slots) (BitVec.ofNat 20 n) with
    | some k => if min x.2 k = 0 then none else some (x.1, min x.2 k)
    | none => some x

/-- Whether occurrence `k` of a frame and tag is one that discarded activations take with them: the first of them, or a later
one. -/
def goesWith (dead : List Act) (f : Nat) (tag : BitVec 20) (k : Nat) : Bool := (deadFrom dead f tag).any fun n => decide (n ≤ k)

/-- The occurrence that the `n`-th waiting operand of an element belongs to: as many are before it at its port as have fired and
wait (06 R165). -/
def operandOcc (hw : Hw) (e n : Nat) (o : Operand) : Nat :=
  firedCount hw e o.slot o.tok.tag + (((elemAt hw e).ops.take n).filter fun y =>
    y.slot = o.slot && y.tok.tag = o.tok.tag && contPort y.tok.cont = contPort o.tok.cont).length

/-- The elements of a core with the operands of discarded activations gone; those of earlier occurrences stay. -/
def dropOps (hw : Hw) (c : Nat) (dead : List Act) : Hw :=
  (List.range 32).foldl (fun hw e5 =>
    let e := c * 32 + e5
    let x := elemAt hw e
    let kept := ((List.range x.ops.length).zip x.ops).filter fun o => !goesWith dead (o.2.slot / 4) o.2.tok.tag (operandOcc hw e o.1 o.2)
    setElem hw e { x with ops := kept.map (·.2) }) hw

/-- Discards the uncommitted activations of a core that satisfy `p` (13 R367 step 3): their records with the staged
writes, their buffered stores, their queued and waiting operands, and what is outstanding. -/
def discardActs (hw : Hw) (c : Nat) (p : Act → Bool) : Hw :=
  let x := coreAt hw c
  let dead := x.acts.filter p
  if dead.isEmpty then hw
  else
    let gone := fun (q : Nat) => dead.any fun a => a.seq = q
    let goneSite := fun (s : Site) => match s.seq with
      | some q => gone q
      | none => goesWith dead s.frame s.tag s.occ
    let hw := dropOps (dropSites hw c goneSite) c dead
    let hw := modCore hw c fun x =>
      { x with acts := x.acts.filter fun a => !p a
               stores := x.stores.filter fun (b : Buffered) => !gone b.seq
               lsq := x.lsq.filter fun y => !(dead.any fun a => a.frame = y.frame && a.tag = y.tag && a.occ = y.occ)
               lsDone := x.lsDone.filter fun y => !(dead.any fun a => a.frame = y.frame && a.tag = y.tag && a.occ = y.occ)
               opened := takeBack dead 1 1 x.opened
               firedN := takeBack dead 1 4 x.firedN
               arrived := takeBack dead 4 4 x.arrived }
    drainCore hw c

/-! ## Frames of tasks (06 R162) -/

/-- A task's frame becomes Cached as its last uncommitted activation goes. -/
def cacheFrame (hw : Hw) (c f : Nat) : Hw :=
  let x := coreAt hw c
  let fr := frameAt x f
  if fr.state = .transient && (actsOf x f).isEmpty then setCore hw c (setFrame x f { fr with state := .cached, cachedAt := hw.now })
  else hw

/-- The frame that a task has been given for the block it is about to run becomes Cached, if no other task is to run that block
there: the task will not start it. DESIGN CHOICE (log 95): 06 Table 6.2 has no event for this. -/
def giveUpFrame (hw : Hw) (c n : Nat) : Hw :=
  let x := coreAt hw c
  let k := ctxAt x n
  match k.next with
  | none => hw
  | some nx => (List.range 8).foldl (fun hw f =>
    let fr := frameAt x f
    let wanted := x.ctxs.any fun y => y.1 != n && y.2.asid = k.asid && y.2.next.any fun z => z.block = nx.block
    if fr.asid = k.asid && fr.block = nx.block && !wanted then cacheFrame hw c f else hw) hw

/-- Discards activations of a core; a task's frame that loses its last one so becomes Cached, as at a commit (log 95). -/
def discardAndCache (hw : Hw) (c : Nat) (p : Act → Bool) : Hw :=
  (((coreAt hw c).acts.filter p).map (·.frame)).eraseDups.foldl (fun hw f => cacheFrame hw c f) (discardActs hw c p)

/-! ## Tasks (10 R265, 13 Table 13.9) -/

/-- The entry of a key in its slice. -/
def keyAt (hw : Hw) (asid : BitVec 10) (k : BitVec 31) : Option KeyEntry :=
  (clAt hw (sliceOf k.toNat)).keys.find? fun e => e.asid = asid && e.key = k

/-- Writes a key's entry; an entry without holder and request is freed. -/
def putKey (hw : Hw) (e : KeyEntry) : Hw :=
  modCl hw (sliceOf e.key.toNat) fun c =>
    let l := c.keys.filter fun x => !(x.asid = e.asid && x.key = e.key)
    { c with keys := if e.holders.isEmpty && e.queue.isEmpty then l else l ++ [e] }

/-- A slice receives the release of a key: the task's holding and its waiting requests are gone (10 R267, R278). -/
def receiveRelease (hw : Hw) (task : Nat) (asid : BitVec 10) (k : BitVec 31) : Hw :=
  let hw := modCl hw (sliceOf k.toNat) fun c =>
    { c with keyWait := c.keyWait.filter fun r => !(r.task = task && r.asid = asid && r.key = k) }
  match keyAt hw asid k with
  | none => hw
  | some e => putKey hw { e with holders := e.holders.filter (fun h => h.1 != task), queue := e.queue.filter fun r => r.task != task }

/-- The keys that a task holds or waits for. -/
def taskKeys (t : Task) : List (BitVec 31) := (t.held.map (·.1) ++ t.want.toList).eraseDups

/-- Releases every key that a task holds or waits for: their slices receive the releases in this step (10 R267, R276, R281), and
each grants from its queue's head at its KEY_RELEASE (R278). -/
def releaseKeys (hw : Hw) (t : Task) : Hw :=
  let hw := (taskKeys t).foldl (fun hw k => receiveRelease hw t.id t.asid k) hw
  { hw with keyMsgs := hw.keyMsgs ++ (taskKeys t).map fun k => .release t.id t.asid k }

/-- Frees a task context, with the tag spaces that it owns (06 R167) and the PX marks its task set (13 R340). -/
def freeCtx (hw : Hw) (c n : Nat) : Hw :=
  let task := (ctxAt (coreAt hw c) n).task
  let drop := fun (t : Tab Space) => t.filter fun x => x.2.owner != some (c, n)
  let unmark := fun (x : Xlat) => if x.px && x.pxTask == some task then { x with px := false, pxTask := none } else x
  let hw := { hw with
    cls := hw.cls.map fun k => (k.1, { k.2 with spaces := drop k.2.spaces
                                                rcs := k.2.rcs.map fun r => (r.1, { r.2 with spaces := drop r.2.spaces }) })
    cores := hw.cores.map fun x => (x.1, { x.2 with tlb := x.2.tlb.map unmark }) }
  modCore hw c fun x => setCtx x n {}

/-- Whether a frame and tag of a core belong to a task: the space's owner is the task's context (06 R167). -/
def ofTask (hw : Hw) (t : Task) (c f : Nat) (tag : BitVec 20) : Bool := spaceOwner hw c f tag == some (t.core, t.ctx)

/-- Ends what committed activations of a discarded task have outstanding: sessions close without further writes (07 R223),
waits and monitor entries are freed (11 R312), loads are dropped, and halyard requests end, so that none runs beside an owner
of the key that is issued again (14 R374; log 76). Stores and atomics still perform. -/
def endTaskSites (hw : Hw) (dead : Site → Bool) : Hw :=
  let hw := dropWaits hw dead
  staleOrphans { hw with
    cores := hw.cores.map fun x => (x.1, dropCoreSites hw.now dead x.2)
    cls := hw.cls.map fun k =>
      let x := dropClSites dead k.2
      (k.1, { x with hal := x.hal.filter fun r => !dead r.site })
    acc := dropAccesses dead hw.acc
    cntOps := hw.cntOps.filterMap (orphanCnt dead) }

/-- Drops the operands of a task's tags, and the tokens on their way to them (13 R367, 14 R374). -/
def dropTaskToks (hw : Hw) (t : Task) : Hw :=
  let gone := fun (cont : BitVec 30) (tag : BitVec 20) => ofTask hw t (contCore cont) (contFrame cont) tag
  { hw with
    net := hw.net.filter fun x => !(contLC x.tok.cont = ownLC hw && gone x.tok.cont x.tok.tag)
    elems := hw.elems.map fun e => (e.1, { e.2 with ops := e.2.ops.filter fun o => !ofTask hw t (coreOf e.1) (o.slot / 4) o.tok.tag }) }

/-- Discards what runs of a task: its uncommitted activations on every core, what its committed ones have outstanding, and
the tokens under its tags (10 R265, 13 R359, 14 R374). -/
def discardRun (hw0 : Hw) (t : Task) : Hw :=
  let hw := (hw0.cores.map (·.1)).foldl (fun hw c =>
    discardAndCache hw c fun a => ofTask hw0 t c a.frame a.tag || (c = t.core && a.ctx == some t.ctx)) hw0
  dropTaskToks (endTaskSites hw fun s => ofTask hw0 t (coreOf s.elem) s.frame s.tag) t

/-- A task leaves as Gone by a discard: its activations are discarded, its keys released, DONEC decremented with
FAULT (10 R265). -/
def discardTask (hw : Hw) (t : Task) : Hw :=
  let hw :=
    if t.state = .running || t.state = .parked || t.state = .retiring then
      freeCtx (giveUpFrame (discardRun hw t) t.core t.ctx) t.core t.ctx
    else hw
  let hw := releaseKeys hw t
  let hw := { hw with tasks := hw.tasks.filter fun u => u.id != t.id }
  if recDonec t.words = 0x3FF then hw else decCnt hw t.cc (recDonec t.words) 1 true

/-! ## Regions (13 R360) -/

/-- Clears the PX marks that frames of a region set (13 R340). -/
def unmarkFrames (frames : BitVec 8) (x : Core) : Core :=
  { x with tlb := x.tlb.map fun y => if y.px && frames.getLsbD y.pxFrame then { y with px := false, pxTask := none } else y }

/-- Whether a site lies in the configuration frames of a region. -/
def inRegion (k : Nat) (r : Region) (s : Site) : Bool :=
  (regionCores (k / 8) r).contains (coreOf s.elem) && r.frames.getLsbD s.frame

/-- Clears an element's waiting operands in some frames, and its fault if it faulted there (13 R360 step 2). -/
def clearElem (frames : BitVec 8) (x : Elem) : Elem :=
  let x := { x with ops := x.ops.filter fun o => !frames.getLsbD (o.slot / 4) }
  if x.fault.valid && frames.getLsbD x.fault.frame.toNat then { x with fault := {}, why := .none } else x

/-- What REGIONABORT does to one core of a region. -/
def abortCore (hw : Hw) (k : Nat) (r : Region) (c : Nat) : Hw :=
  let hw := nodeClear (discardActs hw c fun a => r.frames.getLsbD a.frame) c
  let hw := (List.range 32).foldl (fun hw e5 => setElem hw (c * 32 + e5) (clearElem r.frames (elemAt hw (c * 32 + e5)))) hw
  let mine := fun (s : Site) => inRegion k r s
  let genIn := fun (g : Gen) => match g.site with
    | some s => mine s
    | none => false
  modCore hw c fun x =>
    { x with gens := x.gens.filter fun g => !genIn g.2
             spread := x.spread.filter fun u => !mine (spreadSite u.2)
             rport := x.rport.filter fun u => !mine u.2.site
             eps := x.eps.filter fun e => !r.frames.getLsbD e.2.frame
             log := x.log.filter fun l => !r.frames.getLsbD l.frame
             logLost := x.logLost.filter fun l => !r.frames.getLsbD l.1 }


/-- REGIONABORT: resets the current configuration of a region (13 R360). -/
def regionAbort (hw : Hw) (k i : Nat) : Hw :=
  let r := tget (clAt hw k).rcs {} i
  let hw := (regionCores (k / 8) r).foldl (fun hw c => modCore (abortCore hw k r c) c (unmarkFrames r.frames)) hw
  let hw := staleOrphans (dropWaits hw (inRegion k r))
  modCl hw k fun cl =>
    let r := tget cl.rcs {} i
    { cl with copies := tput cl.copies {} i {}
              rcs := tput cl.rcs {} i { r with spaces := [], allocq := [], swq := [], quiets := [], period := r.period + 1 } }

/-! ## Zeroing (15 R395) -/

/-- A core without what a new owner must not find: arrays, nodes, row buffer, hold registers (15 R395). -/
def zeroCore (x : Core) : Core :=
  { x with macros := [], nodes := [], groups := [], ncmds := [], rowbuf := [], rowPsn := [], matRec := {}
           ctxs := x.ctxs.map fun c => (c.1, { c.2 with hold := [] }) }

/-- Zeroes a core on its change of owner: also its memory tiles, matching stores and overflow share (15 R395). -/
def passCore (m : Mem) (hw : Hw) (c : Nat) : Mem × Hw :=
  let (m, hw) := homeZero m hw (tileBase c 0) (2 ^ 20)
  let hw := modCore hw c zeroCore
  (m, (List.range 32).foldl (fun hw e5 =>
    setElem hw (c * 32 + e5) { elemAt hw (c * 32 + e5) with ops := [], fault := {}, why := .none }) hw)

/-- Zeroes a cluster on its change of partition: its cores, and its counters, monitor table, residency table and
dispatcher queue emptied, of records that are being routed too (15 R395). -/
def passCluster (m : Mem) (hw : Hw) (k : Nat) : Mem × Hw :=
  let (m, hw) := (List.range 8).foldl (fun (x : Mem × Hw) i => passCore x.1 x.2 (k * 8 + i)) (m, hw)
  let hw := setRes (modCl hw k fun cl => { cl with ctrs := [], waits := [], mons := [] }) k []
  (m, { hw with tasks := hw.tasks.filter fun t => !(t.cl = k && [TaskState.counterWait, .routing, .acquiring, .ready].contains t.state)
                recs := hw.recs.filter fun r => r.cc != k })

/-! ## Partition reset (15 R397) -/

/-- The clusters of a partition, by number. -/
def partClusters (p : Part) : List Nat := (List.range 32).filter fun k => p.clusters.getLsbD k

/-- Step 2 of R397 for one cluster: nothing of its activations, engines, channels, waits and counters is left. -/
def stopCluster (hw : Hw) (k : Nat) : Hw :=
  let hw := (List.range 8).foldl (fun hw i =>
    let hw := discardActs hw (k * 8 + i) fun _ => true
    let hw := modCore hw (k * 8 + i) fun x =>
      { x with acts := [], stores := [], releaseQ := [], relHeld := false, relRec := {}, lsq := [], lsDone := [], gens := [], spread := []
               rport := [], eps := [], ctxs := [], log := [], logLost := [] }
    (List.range 8).foldl (fun hw f => cacheFrame hw (k * 8 + i) f) hw) hw
  modCl hw k fun cl =>
    { cl with hal := [], mons := [], waits := [], ctrs := [], spaces := [], allocq := [], copies := [], qstall := []
              rcs := cl.rcs.map fun r => (r.1, { r.2 with spaces := [], allocq := [], swq := [], quiets := [] }) }

/-- Frees the keys of some ASIDs in every slice (10 R276). -/
def freeKeys (hw : Hw) (mine : BitVec 10 → Bool) : Hw :=
  { hw with cls := hw.cls.map fun k => (k.1, { k.2 with keys := k.2.keys.filter fun e => !mine e.asid
                                                        keyWait := k.2.keyWait.filter fun q => !mine q.asid }) }

/-- The units of some clusters that await a reply of another package: accesses that have been sent, halyard requests. -/
def awaited (hw : Hw) (ks : List Nat) : List Nat :=
  ((hw.acc.filter fun a => a.sent && ks.contains (clOf a.core)).map (·.id)) ++
    ks.flatMap fun k => (clAt hw k).hal.flatMap fun r => r.asked.map (·.1) ++ r.pending

/-- How many requests, replies and messages are on their way within the package. -/
def onTheWay (hw : Hw) : Nat :=
  (hw.acc.filter fun a => !a.sent).length + hw.cntOps.length + hw.svc.length + hw.replies.length + hw.chan.length + hw.recs.length + hw.keyMsgs.length

/-- A port put into the error state by its partition's reset: tokens of earlier writes that it has not taken are discarded,
and still advance SEQ (15 R385, R397). -/
def portReset (x : Port) : Port :=
  { x with err := true, hold := .none, words := [], queue := [], seq := x.seq + BitVec.ofNat 32 x.queue.length }

/-- The ingress ports of a partition, by number (15 R383). -/
def portsOf (g : Pkg) (p : Nat) : List Nat := (List.range 64).filter fun q => (tget g.ports {} q).part.toNat = p

/-- The reset of a partition (15 R397). The requests and replies of its old generation that are on their way in the package are
dropped at once and counted, a reply of another package as it arrives (15 R396; log 64). -/
def partReset (m : Mem) (hw : Hw) (p : Nat) : Mem × Hw :=
  let x := tget hw.pkg.parts {} p
  let ks := partClusters x
  let mine := fun (c : Nat) => ks.contains (clOf c)
  let ofPart := fun (a : BitVec 10) => partOfAsid hw a == some p
  let late := awaited hw ks
  let hw := modPkg hw fun g => { g with parts := tput g.parts {} p { x with gen := x.gen + 1 }, late := g.late ++ late, acked := g.acked.filter fun a => !mine a.core }
  let before := onTheWay hw
  let hw := { hw with
    acc := hw.acc.filter fun a => !mine a.core
    cntOps := hw.cntOps.filter fun o => !ks.contains o.cl
    svc := hw.svc.filter fun q => match q.site with
      | some s => !mine (coreOf s.elem)
      | none => true
    replies := hw.replies.filter fun r => !mine (coreOf r.site.elem)
    chan := hw.chan.filter fun q => !(mine q.src.1 || mine q.dst.1)
    recs := hw.recs.filter fun r => !ofPart r.asid
    keyMsgs := hw.keyMsgs.filter fun q => match q with
      | .try_ r => !ofPart r.asid
      | .request r => !ofPart r.asid
      | .reply r _ _ => !ofPart r.asid
      | .release _ a _ => !ofPart a
    tasks := hw.tasks.filter fun t => !ofPart t.asid }
  let hw := modPkg hw fun g => { g with stale := g.stale + BitVec.ofNat 64 (before - onTheWay hw) }
  let hw := freeKeys (ks.foldl stopCluster (dropWaits hw fun s => mine (coreOf s.elem))) ofPart
  let hw := modPkg hw fun g =>
    { g with ports := (portsOf g p).foldl (fun t q => tput t {} q (portReset (tget t {} q))) g.ports, events := tput g.events 0 p (tget g.events 0 p + 1), pre := tdel g.pre p }
  ks.foldl (fun (y : Mem × Hw) k => passCluster y.1 y.2 k) (m, hw)

end Sys2Proof.Machine
end

