-- ==== Sys2Proof/Machine/Firmware.lean ====
section
/-! DEFINITION. What the entries reserved to firmware accept (02 R73): CHKPT (16 R419), SYSRD and SYSWR (15 R403). -/
namespace Sys2Proof.Machine

/-- The check that a reserved entry is fired in a frame that firmware loaded (02 R73). A word whose predicate does not let it
fire is not fired (03 R84). -/
def firmwareOnly (f : Fire) (hw : Hw) : Except Stop Unit :=
  if (frameAt (coreAt hw f.core) f.frame).firmware || (!anyEnd f.data && predOf f.w.pr f.p == .notFire) then .ok ()
  else .error (.fault cPROT (f.site.op.toNat * 2 ^ 16 + 14 * 2 ^ 52))

/-- Kinds of the firmware entries' ports (15 R403, R404, 16 R419). -/
def kindsFw (_ : Nat) : List Kind := [.data, .null, .endm]

/-- CHKPT, whose K names the operation (16 R419). -/
def specChkpt : OpSpec :=
  { op := 0x1CF#9, arity := 2, oms := [2], kinds := kindsFw, fieldFault := needK fun k => decide (k.toNat < 4) }
/-- CHKPT BEGIN. -/
def specChkptBegin : OpSpec := specChkpt
/-- CHKPT RESTORE. -/
def specChkptRestore : OpSpec := specChkpt
/-- CHKPT ABANDON. -/
def specChkptAbandon : OpSpec := specChkpt
/-- CHKPT QUERY. -/
def specChkptQuery : OpSpec := specChkpt
/-- SYSRD. -/
def specSysrd : OpSpec := { op := 0x1D0#9, arity := 2, oms := [0, 2], kinds := kindsFw }
/-- SYSWR. -/
def specSyswr : OpSpec := { op := 0x1D1#9, arity := 3, oms := [0, 3], kinds := kindsFw }

end Sys2Proof.Machine
end

