-- ==== Sys2Proof/Machine/Special.lean ====
section
/-! DEFINITION. The special functions of class 4 (spec 05 R143, R146): each value is worked out in fixed point
far beyond the precision of any format, and rounded once. Results that Table 5.2 makes exact are taken
apart first; every other result is irrational, so no fixed-point value meets a rounding boundary. -/
namespace Sys2Proof.Machine

/-- Bits after the point of the fixed-point values. -/
def sfBits : Nat := 640

/-- 1 in fixed point. -/
def sfOne : Nat := 2 ^ sfBits

/-- The sum of 1 / ((2k+1) x n^(2k+1)) over `fuel` terms from `t` = 1/n^(2k+1) in fixed point, times `sgn`^k. -/
def atanSeries (n2 : Nat) (alt : Bool) : Nat → Nat → Nat → Bool → Int
  | 0, _, _, _ => 0
  | fuel + 1, t, k, neg =>
    let term : Int := (t / (2 * k + 1) : Nat)
    (if neg then -term else term) + atanSeries n2 alt fuel (t / n2) (k + 1) (alt && !neg)

/-- ln 2 = 2 atanh(1/3) in fixed point. -/
def sfLn2 : Nat := (2 * atanSeries 9 false 210 (sfOne / 3) 0 false).toNat

/-- pi = 16 atan(1/5) - 4 atan(1/239) in fixed point. -/
def sfPi : Nat :=
  (16 * atanSeries 25 true 145 (sfOne / 5) 0 false - 4 * atanSeries 57121 true 45 (sfOne / 239) 0 false).toNat

/-- The sum of y^k / k! over `fuel` terms from the k-th term `t`, in fixed point. -/
def expSeries (y : Nat) : Nat → Nat → Nat → Nat
  | 0, _, _ => 0
  | fuel + 1, t, k => t + expSeries y fuel (t * y / sfOne / (k + 1)) (k + 1)

/-- e^y for 0 <= y < 1 in fixed point. -/
def sfExp (y : Nat) : Nat := expSeries y 140 sfOne 0

/-- The alternating sum of y^(2k+1) / (2k+1)! over `fuel` terms from the term `t` of degree `d`. -/
def sinSeries (y2 : Nat) : Nat → Nat → Nat → Bool → Int
  | 0, _, _, _ => 0
  | fuel + 1, t, d, neg =>
    (if neg then -(t : Int) else t) + sinSeries y2 fuel (t * y2 / sfOne / ((d + 1) * (d + 2))) (d + 2) (!neg)

/-- sin(pi x t) for 0 <= t <= 1/2 in fixed point. -/
def sfSinPi (t : Nat) : Nat :=
  let y := t * sfPi / sfOne
  (sinSeries (y * y / sfOne) 90 y 1 false).toNat

/-- A number m x 2^e in fixed point (e at least -sfBits). -/
def toFix (m : Nat) (e : Int) : Nat := m * pow2 (e + sfBits)

/-- rnd(2^fx) (05 Table 5.2). -/
def fexp2V (f : FFmt) (mode : Nat) (sat : Bool) : FVal → Nat
  | .nan => f.nan
  | .inf neg => if neg then withSign f false 0 else encInf f false false
  | .num neg m e =>
    if m = 0 then fround f mode sat false 1 0
    else if 20 < (bitLen m : Int) + e then
      -- beyond 2^19 every power lies beyond the largest, or below half the smallest, number of any format
      if neg then fround f mode sat false 1 (-100000) true else fround f mode sat false 1 100000
    else if 0 ≤ e then
      fround f mode sat false 1 (smant neg (m * pow2 e))
    else
      let d := pow2 (-e)
      let x := smant neg m
      let k := x / (d : Int)
      let r := (x % (d : Int)).toNat
      if r = 0 then fround f mode sat false 1 k
      else fround f mode sat false (sfExp (toFix r e * sfLn2 / sfOne)) (k - sfBits) true

/-- log2 of m x 2^e, m > 0, in signed fixed point. -/
def sfLog2 (m : Nat) (e : Int) : Int :=
  let b := Nat.log2 m
  let one := 2 ^ b
  let z := (m - one) * sfOne / (m + one)
  let ln := 2 * atanhSeries (z * z / sfOne) 220 z 0
  (e + b) * sfOne + ln * sfOne / sfLn2
where
  /-- The sum of z^(2k+1) / (2k+1) from the power `t` of degree 2k+1. -/
  atanhSeries (z2 : Nat) : Nat → Nat → Nat → Nat
    | 0, _, _ => 0
    | fuel + 1, t, k => t / (2 * k + 1) + atanhSeries z2 fuel (t * z2 / sfOne) (k + 1)

/-- rnd(log2 fx) (05 Table 5.2). -/
def flog2V (f : FFmt) (mode : Nat) (sat : Bool) : FVal → Nat
  | .nan => f.nan
  | .inf neg => if neg then f.nan else encInf f false false
  | .num neg m e =>
    if m = 0 then encInf f false true
    else if neg then f.nan
    else if m = 2 ^ Nat.log2 m then
      let k := e + Nat.log2 m
      fround f mode sat (decide (k < 0)) k.natAbs 0
    else
      let v := sfLog2 m e
      fround f mode sat (decide (v < 0)) v.natAbs (-sfBits) true

/-- rnd(tanh fx) (05 Table 5.2). -/
def ftanhV (f : FFmt) (mode : Nat) (sat : Bool) : FVal → Nat
  | .nan => f.nan
  | .inf neg => fround f mode sat neg 1 0
  | .num neg m e =>
    if m = 0 then withSign f neg 0
    else if (bitLen m : Int) + e < -60 then
      -- between fx (1 - 2^-64) and fx: no number of any format lies between
      fround f mode sat neg (m * 2 ^ 64 - 1) (e - 64) true
    else if 7 < (bitLen m : Int) + e then fround f mode sat neg (2 ^ 64 - 1) (-64) true
    else
      let y := 2 * toFix m e
      let k := y / sfLn2
      let ex := sfExp (y % sfLn2) * 2 ^ k
      fround f mode sat neg ((ex - sfOne) * sfOne / (ex + sfOne)) (-sfBits) true

/-- m x 2^e (e < 0) modulo 2, as a number of units 2^e. -/
def modTwo (m : Nat) (e : Int) : Nat := m % pow2 (1 - e)

/-- rnd(sin(pi fx)) (05 Table 5.2): of an integer a zero with the sign of fx. -/
def fsinV (f : FFmt) (mode : Nat) (sat : Bool) : FVal → Nat
  | .nan => f.nan
  | .inf _ => f.nan
  | .num neg m e =>
    if 0 ≤ e then withSign f neg 0
    else
      let one := pow2 (-e)
      let r := modTwo m e
      let hi := decide (one ≤ r)
      let t := if hi then r - one else r
      if t = 0 then withSign f neg 0
      else
        let t := if one < 2 * t then one - t else t
        let sg := neg != hi
        if 2 * t = one then fround f mode sat sg 1 0
        else fround f mode sat sg (sfSinPi (toFix t e)) (-sfBits) true

/-- rnd(cos(pi fx)) (05 Table 5.2). -/
def fcosV (f : FFmt) (mode : Nat) (sat : Bool) : FVal → Nat
  | .nan => f.nan
  | .inf _ => f.nan
  | .num _ m e =>
    if 0 ≤ e then fround f mode sat (e = 0 && m % 2 == 1) 1 0
    else
      let one := pow2 (-e)
      let r := modTwo m e
      let r := if one < r then 2 * one - r else r   -- cos is even about 0 and about 1
      if 2 * r = one then withSign f false 0
      else if r = 0 then fround f mode sat false 1 0
      else if r = one then fround f mode sat true 1 0
      else
        let sg := decide (one < 2 * r)
        let t := if sg then 2 * r - one else one - 2 * r   -- units of 2^(e-1) from the quarter turn
        fround f mode sat sg (sfSinPi (toFix t (e - 1))) (-sfBits) true

end Sys2Proof.Machine
end

