-- ==== Sys2Proof/Machine/Float.lean ====
section
/-! DEFINITION. Class 4: floating point, special functions and conversions (05 R140 to R148). -/
namespace Sys2Proof.Machine

/-- The format that FN[4:3] selects (05 R142). -/
def fpFmt (f : Fire) : FFmt :=
  match bits f.w.fn.toNat 3 2 with
  | 0 => f32
  | 1 => f16
  | _ => bf16
/-- The rounding mode: FN[1:0]. -/
def fpMode (f : Fire) : Nat := bits f.w.fn.toNat 0 2
/-- SAT: FN[2]. -/
def fpSat (f : Fire) : Bool := f.w.fn.getLsbD 2
/-- The value of an operand in a format. -/
def fv (g : FFmt) (t : Token) : FVal := fdec g t.value.toNat

/-- What a class 4 entry accepts (05 R140, R142): FN[4:3] below 3, K zero-extended. -/
def fpSpec (op : BitVec 9) (arity : Nat) (oms : List Nat) : OpSpec :=
  { op := op, arity := arity, oms := oms, fnOk := fun n => decide (n / 8 < 3), zxK := true }

/-- An entry whose floating result is a pattern. -/
def fpu (g : Fire → Nat) : Meaning := alu fun f => BitVec.ofNat 64 (g f)
/-- A rounding binary entry. -/
def fpBin (g : FFmt → Nat → Bool → FVal → FVal → Nat) : Meaning :=
  fpu fun f => g (fpFmt f) (fpMode f) (fpSat f) (fv (fpFmt f) f.a) (fv (fpFmt f) f.b)
/-- A rounding unary entry. -/
def fpUn (g : FFmt → Nat → Bool → FVal → Nat) : Meaning :=
  fpu fun f => g (fpFmt f) (fpMode f) (fpSat f) (fv (fpFmt f) f.a)
/-- A comparison. -/
def fpCmp (g : Option Ordering → Bool) : Meaning := alu fun f => boolW (g (fcmp (fv (fpFmt f) f.a) (fv (fpFmt f) f.b)))

/-- FADD. -/
def specFadd : OpSpec := fpSpec 0x100#9 2 [0, 1, 2]
/-- FADD (05 Table 5.1). -/
def execFadd (w : Fields) (s : State) : Res State := fire specFadd (fpBin fadd) w s
/-- FSUB. -/
def specFsub : OpSpec := fpSpec 0x101#9 2 [0, 1, 2]
/-- FSUB (05 Table 5.1). -/
def execFsub (w : Fields) (s : State) : Res State := fire specFsub (fpBin fun g r z x y => fadd g r z x (negV y)) w s
/-- FMUL. -/
def specFmul : OpSpec := fpSpec 0x102#9 2 [0, 1, 2]
/-- FMUL (05 Table 5.1). -/
def execFmul (w : Fields) (s : State) : Res State := fire specFmul (fpBin fmul) w s
/-- OM 4 is for F16 and BF16 only (05 R144). -/
def fmaBad (w : Fields) : Bool := w.om = 4#3 && bits w.fn.toNat 3 2 == 0
/-- FFMA. -/
def specFfma : OpSpec := { fpSpec 0x103#9 3 [0, 1, 2, 3, 4] with omBad := fmaBad }
/-- FFMA: one rounding (05 Table 5.1). -/
def execFfma (w : Fields) (s : State) : Res State :=
  fire specFfma (fpu fun f => ffma (fpFmt f) (fpMode f) (fpSat f) (fv (fpFmt f) f.a) (fv (fpFmt f) f.b) (fv (fpFmt f) f.c)) w s
/-- FFMS. -/
def specFfms : OpSpec := { fpSpec 0x104#9 3 [0, 1, 2, 3, 4] with omBad := fmaBad }
/-- FFMS: one rounding (05 Table 5.1). -/
def execFfms (w : Fields) (s : State) : Res State :=
  fire specFfms (fpu fun f => ffma (fpFmt f) (fpMode f) (fpSat f) (fv (fpFmt f) f.a) (fv (fpFmt f) f.b) (negV (fv (fpFmt f) f.c))) w s
/-- FMIN. -/
def specFmin : OpSpec := fpSpec 0x105#9 2 [0, 1, 2]
/-- FMIN (05 R145). -/
def execFmin (w : Fields) (s : State) : Res State :=
  fire specFmin (fpu fun f => fminmax (fpFmt f) false f.a.value.toNat f.b.value.toNat) w s
/-- FMAX. -/
def specFmax : OpSpec := fpSpec 0x106#9 2 [0, 1, 2]
/-- FMAX (05 R145). -/
def execFmax (w : Fields) (s : State) : Res State :=
  fire specFmax (fpu fun f => fminmax (fpFmt f) true f.a.value.toNat f.b.value.toNat) w s

/-- The magnitude bits of a pattern with a sign bit, or the canonical NaN of a NaN (05 R145). -/
def signed (g : FFmt) (x : Nat) (neg : Bool) : Nat :=
  if (fdec g x).isNan then g.nan else x % 2 ^ (g.width - 1) + b2n neg * 2 ^ (g.width - 1)
/-- FABS. -/
def specFabs : OpSpec := fpSpec 0x107#9 1 [0]
/-- FABS (05 R145). -/
def execFabs (w : Fields) (s : State) : Res State := fire specFabs (fpu fun f => signed (fpFmt f) f.a.value.toNat false) w s
/-- FNEG. -/
def specFneg : OpSpec := fpSpec 0x108#9 1 [0]
/-- FNEG (05 R145). -/
def execFneg (w : Fields) (s : State) : Res State :=
  fire specFneg (fpu fun f => signed (fpFmt f) f.a.value.toNat (!bit f.a.value.toNat ((fpFmt f).width - 1))) w s
/-- FCPYS. -/
def specFcpys : OpSpec := fpSpec 0x109#9 2 [0, 1, 2]
/-- FCPYS (05 R145). -/
def execFcpys (w : Fields) (s : State) : Res State :=
  fire specFcpys (fpu fun f => signed (fpFmt f) f.a.value.toNat (bit f.b.value.toNat ((fpFmt f).width - 1))) w s
/-- FCMPEQ. -/
def specFcmpeq : OpSpec := fpSpec 0x10A#9 2 [0, 1, 2]
/-- FCMPEQ (05 R144). -/
def execFcmpeq (w : Fields) (s : State) : Res State := fire specFcmpeq (fpCmp fun o => o == some .eq) w s
/-- FCMPLT. -/
def specFcmplt : OpSpec := fpSpec 0x10B#9 2 [0, 1, 2]
/-- FCMPLT (05 R144). -/
def execFcmplt (w : Fields) (s : State) : Res State := fire specFcmplt (fpCmp fun o => o == some .lt) w s
/-- FCMPLE. -/
def specFcmple : OpSpec := fpSpec 0x10C#9 2 [0, 1, 2]
/-- FCMPLE (05 R144). -/
def execFcmple (w : Fields) (s : State) : Res State := fire specFcmple (fpCmp fun o => o == some .lt || o == some .eq) w s
/-- FCMPUN. -/
def specFcmpun : OpSpec := fpSpec 0x10D#9 2 [0, 1, 2]
/-- FCMPUN (05 R144). -/
def execFcmpun (w : Fields) (s : State) : Res State := fire specFcmpun (fpCmp fun o => o.isNone) w s
/-- FRCP. -/
def specFrcp : OpSpec := fpSpec 0x10E#9 1 [0]
/-- FRCP (05 Table 5.1, 5.2). -/
def execFrcp (w : Fields) (s : State) : Res State := fire specFrcp (fpUn frcpV) w s
/-- FRSQ. -/
def specFrsq : OpSpec := fpSpec 0x10F#9 1 [0]
/-- FRSQ (05 Table 5.1, 5.2). -/
def execFrsq (w : Fields) (s : State) : Res State := fire specFrsq (fpUn frsqV) w s
/-- FSQRT. -/
def specFsqrt : OpSpec := fpSpec 0x110#9 1 [0]
/-- FSQRT (05 Table 5.1, 5.2). -/
def execFsqrt (w : Fields) (s : State) : Res State := fire specFsqrt (fpUn fsqrtV) w s
/-- FDIV. -/
def specFdiv : OpSpec := fpSpec 0x111#9 2 [0, 1, 2]
/-- FDIV (05 Table 5.1, R146). -/
def execFdiv (w : Fields) (s : State) : Res State := fire specFdiv (fpBin fdivV) w s
/-- FEXP2. -/
def specFexp2 : OpSpec := fpSpec 0x112#9 1 [0]
/-- FEXP2 (05 Table 5.1, 5.2). -/
def execFexp2 (w : Fields) (s : State) : Res State := fire specFexp2 (fpUn fexp2V) w s
/-- FLOG2. -/
def specFlog2 : OpSpec := fpSpec 0x113#9 1 [0]
/-- FLOG2 (05 Table 5.1, 5.2). -/
def execFlog2 (w : Fields) (s : State) : Res State := fire specFlog2 (fpUn flog2V) w s
/-- FTANH. -/
def specFtanh : OpSpec := fpSpec 0x114#9 1 [0]
/-- FTANH (05 Table 5.1, 5.2). -/
def execFtanh (w : Fields) (s : State) : Res State := fire specFtanh (fpUn ftanhV) w s
/-- FSIN. -/
def specFsin : OpSpec := fpSpec 0x115#9 1 [0]
/-- FSIN, its argument in half-turns (05 Table 5.1, 5.2). -/
def execFsin (w : Fields) (s : State) : Res State := fire specFsin (fpUn fsinV) w s
/-- FCOS. -/
def specFcos : OpSpec := fpSpec 0x116#9 1 [0]
/-- FCOS, its argument in half-turns (05 Table 5.1, 5.2). -/
def execFcos (w : Fields) (s : State) : Res State := fire specFcos (fpUn fcosV) w s

/-- The integral value nearest a value, in its format (05 R147). -/
def frndV (g : FFmt) (mode : Nat) (sat : Bool) (v : FVal) : Nat :=
  match v with
  | .num neg m e => fround g mode sat neg (roundInt mode neg m e) 0
  | _ => fenc g mode sat v
/-- FRND. -/
def specFrnd : OpSpec := fpSpec 0x117#9 1 [0]
/-- FRND (05 R147). -/
def execFrnd (w : Fields) (s : State) : Res State := fire specFrnd (fpUn frndV) w s

/-- rnd(fx x 2^k) (05 R147). -/
def fscaleV (g : FFmt) (mode : Nat) (sat : Bool) (v : FVal) (k : Int) : Nat :=
  match v with
  | .num neg m e => fround g mode sat neg m (e + k)
  | _ => fenc g mode sat v
/-- FSCALE. -/
def specFscale : OpSpec := fpSpec 0x118#9 2 [0, 1, 2]
/-- FSCALE: k is the low 32 bits of B, signed (05 R147). -/
def execFscale (w : Fields) (s : State) : Res State :=
  fire specFscale (fpu fun f => fscaleV (fpFmt f) (fpMode f) (fpSat f) (fv (fpFmt f) f.a) (sw 32 f.b)) w s

/-- The exponent that FGETE returns (05 R147). -/
def fgeteV : FVal → Int
  | .num _ m e => if m = 0 then -(2 ^ 31) else e + (Nat.log2 m : Int)
  | _ => 2 ^ 31 - 1
/-- FGETE. -/
def specFgete : OpSpec := fpSpec 0x119#9 1 [0]
/-- FGETE (05 R147). -/
def execFgete (w : Fields) (s : State) : Res State := fire specFgete (alu fun f => BitVec.ofInt 64 (fgeteV (fv (fpFmt f) f.a))) w s

/-- Source format code of a format pair (02 Table 2.9). -/
def srcCode (w : Fields) : Nat := bits w.xf.toNat 4 4
/-- Destination format code of a format pair (02 Table 2.9). -/
def dstCode (w : Fields) : Nat := bits w.xf.toNat 0 4
/-- What a conversion accepts (05 R142, R148): FN[4:3] = 00, XF[11:8] = 0, the pairs of Table 5.3. -/
def cvtSpec (op : BitVec 9) (pair : Nat → Nat → Bool) : OpSpec :=
  { op := op, arity := 1, fnOk := fun n => decide (n < 8), zxK := true
    xfOk := fun x => decide (x / 256 = 0) && pair (bits x 4 4) (bits x 0 4) }
/-- Whether a code is of a floating format. -/
def isFlt (c : Nat) : Bool := decide (8 ≤ c ∧ c < 14)
/-- The converted value of A (05 R148, 01 R23), extended as R15 states. -/
def cvt (f : Fire) (sat : Bool) : Word :=
  extFmt (fmtOf (dstCode f.w)) (convert (fmtOf (srcCode f.w)) (fmtOf (dstCode f.w)) (fpMode f) sat f.a.value.toNat)
/-- CVTF. -/
def specCvtf : OpSpec := cvtSpec 0x11A#9 fun a b => isFlt a && isFlt b && a != b
/-- CVTF (05 R148). -/
def execCvtf (w : Fields) (s : State) : Res State := fire specCvtf (alu fun f => cvt f (fpSat f)) w s
/-- CVTFI. -/
def specCvtfi : OpSpec := cvtSpec 0x11B#9 fun a b => isFlt a && decide (b < 8)
/-- CVTFI: saturation always applies (05 R148). -/
def execCvtfi (w : Fields) (s : State) : Res State := fire specCvtfi (alu fun f => cvt f true) w s
/-- CVTIF. -/
def specCvtif : OpSpec := cvtSpec 0x11C#9 fun a b => decide (a < 8) && isFlt b
/-- CVTIF (05 R148). -/
def execCvtif (w : Fields) (s : State) : Res State := fire specCvtif (alu fun f => cvt f (fpSat f)) w s

/-- The class bit of a value (05 R147). -/
def fclassV (g : FFmt) : FVal → Nat
  | .nan => 2 ^ 8
  | .inf neg => if neg then 2 ^ 0 else 2 ^ 7
  | .num neg m _ =>
    if m = 0 then (if neg then 2 ^ 3 else 2 ^ 4)
    else if m < 2 ^ g.frac then (if neg then 2 ^ 2 else 2 ^ 5)
    else (if neg then 2 ^ 1 else 2 ^ 6)
/-- FCLASS. -/
def specFclass : OpSpec := fpSpec 0x11D#9 1 [0]
/-- FCLASS (05 R147). -/
def execFclass (w : Fields) (s : State) : Res State := fire specFclass (fpu fun f => fclassV (fpFmt f) (fv (fpFmt f) f.a)) w s

end Sys2Proof.Machine
end

