-- ==== Sys2Proof/Machine/Lanes.lean ====
section
/-! DEFINITION. Class 5: packed lanes, sparse bitmaps, keys and digits (05 R149 to R158). -/
namespace Sys2Proof.Machine

/-- Lane width that FN[1:0] selects (05 R149). -/
def laneW (fn : Nat) : Nat := 8 * 2 ^ (fn % 4)
/-- Lane width of a firing. -/
def lw (f : Fire) : Nat := laneW f.w.fn.toNat
/-- Lane i of a value, unsigned (01 R16). -/
def lane (w : Nat) (v : Word) (i : Nat) : Nat := bits v.toNat (w * i) w
/-- Lane i, signed. -/
def laneS (w : Nat) (v : Word) (i : Nat) : Int := toSigned w (lane w v i)
/-- A value of lanes of width w, each wrapped (05 R141). -/
def lanesN (w n : Nat) (g : Nat → Nat) : Word :=
  BitVec.ofNat 64 ((List.range n).map fun i => g i % 2 ^ w * 2 ^ (w * i)).sum
/-- 64 / w lanes. -/
def lanes (w : Nat) (g : Nat → Nat) : Word := lanesN w (64 / w) g

/-- What a class 5 entry accepts: FN[4:3] = 00; which lane codes, and whether FN[2] may be set (05 R149). -/
def lnSpec (op : BitVec 9) (arity : Nat) (oms : List Nat) (codes : List Nat := [0, 1, 2, 3]) (fn2 : Bool := false) : OpSpec :=
  { op := op, arity := arity, oms := oms
    fnOk := fun n => decide (n < 8) && codes.contains (n % 4) && (fn2 || decide (n < 4)) }

/-- A lane-wise entry on signed lanes; the result lane is wrapped. -/
def lnS (g : Nat → Int → Int → Int) : Meaning :=
  alu fun f => lanes (lw f) fun i => ofSigned (lw f) (g (lw f) (laneS (lw f) f.a.value i) (laneS (lw f) f.b.value i))
/-- A lane-wise entry on unsigned lanes. -/
def lnU (g : Nat → Nat → Nat → Nat) : Meaning :=
  alu fun f => lanes (lw f) fun i => g (lw f) (lane (lw f) f.a.value i) (lane (lw f) f.b.value i)

/-- VADD. -/
def specVadd : OpSpec := lnSpec 0x140#9 2 [0, 1, 2]
/-- VADD (05 Table 5.4). -/
def execVadd (w : Fields) (s : State) : Res State := fire specVadd (lnS fun _ x y => x + y) w s
/-- VSUB. -/
def specVsub : OpSpec := lnSpec 0x141#9 2 [0, 1, 2]
/-- VSUB (05 Table 5.4). -/
def execVsub (w : Fields) (s : State) : Res State := fire specVsub (lnS fun _ x y => x - y) w s
/-- VMUL. -/
def specVmul : OpSpec := lnSpec 0x142#9 2 [0, 1, 2]
/-- VMUL (05 Table 5.4). -/
def execVmul (w : Fields) (s : State) : Res State := fire specVmul (lnS fun _ x y => x * y) w s
/-- VMULH. -/
def specVmulh : OpSpec := lnSpec 0x143#9 2 [0, 1, 2]
/-- VMULH (05 Table 5.4). -/
def execVmulh (w : Fields) (s : State) : Res State := fire specVmulh (lnS fun w x y => x * y / (2 ^ w : Int)) w s
/-- VADDS. -/
def specVadds : OpSpec := lnSpec 0x144#9 2 [0, 1, 2]
/-- VADDS (05 Table 5.4). -/
def execVadds (w : Fields) (s : State) : Res State := fire specVadds (lnS fun w x y => satS w (x + y)) w s
/-- VSUBS. -/
def specVsubs : OpSpec := lnSpec 0x145#9 2 [0, 1, 2]
/-- VSUBS (05 Table 5.4). -/
def execVsubs (w : Fields) (s : State) : Res State := fire specVsubs (lnS fun w x y => satS w (x - y)) w s
/-- VMIN. -/
def specVmin : OpSpec := lnSpec 0x146#9 2 [0, 1, 2]
/-- VMIN (05 Table 5.4). -/
def execVmin (w : Fields) (s : State) : Res State := fire specVmin (lnS fun _ x y => if x ≤ y then x else y) w s
/-- VMAX. -/
def specVmax : OpSpec := lnSpec 0x147#9 2 [0, 1, 2]
/-- VMAX (05 Table 5.4). -/
def execVmax (w : Fields) (s : State) : Res State := fire specVmax (lnS fun _ x y => if x ≤ y then y else x) w s
/-- VAVG. -/
def specVavg : OpSpec := lnSpec 0x148#9 2 [0, 1, 2]
/-- VAVG: floor((x + y + 1) / 2) (05 Table 5.4). -/
def execVavg (w : Fields) (s : State) : Res State := fire specVavg (lnS fun _ x y => (x + y + 1) / 2) w s
/-- VSHL. -/
def specVshl : OpSpec := lnSpec 0x149#9 2 [0, 1, 2]
/-- VSHL (05 Table 5.4). -/
def execVshl (w : Fields) (s : State) : Res State := fire specVshl (lnU fun w x m => if w ≤ m then 0 else x * 2 ^ m) w s
/-- VSHR. -/
def specVshr : OpSpec := lnSpec 0x14A#9 2 [0, 1, 2]
/-- VSHR (05 Table 5.4). -/
def execVshr (w : Fields) (s : State) : Res State := fire specVshr (lnU fun w x m => if w ≤ m then 0 else x / 2 ^ m) w s
/-- VSAR. -/
def specVsar : OpSpec := lnSpec 0x14B#9 2 [0, 1, 2]
/-- VSAR (05 Table 5.4). -/
def execVsar (w : Fields) (s : State) : Res State :=
  fire specVsar (lnU fun w x m =>
    let sx := toSigned w x
    ofSigned w (if w ≤ m then (if sx < 0 then -1 else 0) else sx / (2 ^ m : Int))) w s
/-- VCMPEQ. -/
def specVcmpeq : OpSpec := lnSpec 0x14C#9 2 [0, 1, 2]
/-- VCMPEQ: all ones where equal (05 Table 5.4). -/
def execVcmpeq (w : Fields) (s : State) : Res State := fire specVcmpeq (lnU fun w x y => if x = y then 2 ^ w - 1 else 0) w s
/-- VCMPLT. -/
def specVcmplt : OpSpec := lnSpec 0x14D#9 2 [0, 1, 2]
/-- VCMPLT: all ones where less, signed (05 Table 5.4). -/
def execVcmplt (w : Fields) (s : State) : Res State := fire specVcmplt (lnS fun _ x y => if x < y then -1 else 0) w s
/-- VSEL. -/
def specVsel : OpSpec := lnSpec 0x14E#9 3 [0, 1, 2, 3, 4]
/-- VSEL: (x AND z) OR (y AND NOT z) (05 Table 5.4). -/
def execVsel (w : Fields) (s : State) : Res State :=
  fire specVsel (alu fun f => (f.a.value &&& f.c.value) ||| (f.b.value &&& ~~~f.c.value)) w s
/-- VSPLAT. -/
def specVsplat : OpSpec := lnSpec 0x14F#9 1 [0]
/-- VSPLAT: lane 0 in every lane (05 Table 5.4). -/
def execVsplat (w : Fields) (s : State) : Res State := fire specVsplat (alu fun f => lanes (lw f) fun _ => lane (lw f) f.a.value 0) w s
/-- VSHUF. -/
def specVshuf : OpSpec := lnSpec 0x150#9 2 [0, 1, 2] [0]
/-- VSHUF (05 R151). -/
def execVshuf (w : Fields) (s : State) : Res State :=
  fire specVshuf (alu fun f => lanes 8 fun i =>
    let sel := lane 8 f.b.value i
    if bit sel 7 then 0 else lane 8 f.a.value (sel % 8)) w s
/-- VPACK. -/
def specVpack : OpSpec := lnSpec 0x151#9 2 [0, 1, 2] [1, 2, 3] true
/-- VPACK: lanes narrowed, with saturation under FN[2] (05 R151). -/
def execVpack (w : Fields) (s : State) : Res State :=
  fire specVpack (alu fun f =>
    let w := lw f
    let n := 64 / w
    let narrow := fun (v : Nat) => if f.w.fn.getLsbD 2 then ofSigned (w / 2) (satS (w / 2) (toSigned w v)) else v
    lanesN (w / 2) (2 * n) fun i => narrow (if i < n then lane w f.a.value i else lane w f.b.value (i - n))) w s
/-- Lanes widened from lane h on (05 R151). -/
def unpack (f : Fire) (h : Nat) : Word :=
  lanesN (2 * lw f) (64 / lw f / 2) fun i => ofSigned (2 * lw f) (laneS (lw f) f.a.value (h + i))
/-- VUNPKL. -/
def specVunpkl : OpSpec := lnSpec 0x152#9 1 [0] [0, 1, 2]
/-- VUNPKL (05 R151). -/
def execVunpkl (w : Fields) (s : State) : Res State := fire specVunpkl (alu fun f => unpack f 0) w s
/-- VUNPKH. -/
def specVunpkh : OpSpec := lnSpec 0x153#9 1 [0] [0, 1, 2]
/-- VUNPKH (05 R151). -/
def execVunpkh (w : Fields) (s : State) : Res State := fire specVunpkh (alu fun f => unpack f (64 / lw f / 2)) w s

/-- One level of the pairwise tree (01 R25). -/
def pairUp {α : Type} (g : α → α → α) : List α → List α
  | a :: b :: r => g a b :: pairUp g r
  | l => l
/-- The pairwise tree over at most eight lanes (01 R25). -/
def tree {α : Type} (g : α → α → α) (l : List α) : List α := pairUp g (pairUp g (pairUp g l))
/-- A lane reduction, sign-extended (05 R152). -/
def reduce (g : Nat → Int → Int → Int) : Meaning :=
  alu fun f =>
    let w := lw f
    let l := (List.range (64 / w)).map fun i => laneS w f.a.value i
    BitVec.ofInt 64 ((tree (g w) l).headD 0)
/-- VREDADD. -/
def specVredadd : OpSpec := lnSpec 0x154#9 1 [0]
/-- VREDADD: each partial sum wrapped (05 R152). -/
def execVredadd (w : Fields) (s : State) : Res State :=
  fire specVredadd (reduce fun w x y => toSigned w (ofSigned w (x + y))) w s
/-- VREDMAX. -/
def specVredmax : OpSpec := lnSpec 0x155#9 1 [0]
/-- VREDMAX (05 R152). -/
def execVredmax (w : Fields) (s : State) : Res State := fire specVredmax (reduce fun _ x y => if x ≤ y then y else x) w s
/-- VREDMIN. -/
def specVredmin : OpSpec := lnSpec 0x156#9 1 [0]
/-- VREDMIN (05 R152). -/
def execVredmin (w : Fields) (s : State) : Res State := fire specVredmin (reduce fun _ x y => if x ≤ y then x else y) w s

/-- The floating lane format: .L16 BF16, .L32 F32 (05 R149). -/
def lnFmt (f : Fire) : FFmt := if f.w.fn.toNat % 4 = 1 then bf16 else f32
/-- A floating lane as a value. -/
def lnV (f : Fire) (t : Token) (i : Nat) : FVal := fdec (lnFmt f) (lane (lnFmt f).width t.value i)
/-- What a floating lane entry accepts (05 R149, 02 R56): .L16 and .L32, SAT in FN[2], K zero-extended. -/
def fltSpec (op : BitVec 9) (arity : Nat) (oms : List Nat) : OpSpec := { lnSpec op arity oms [1, 2] true with zxK := true }

/-- VDOT. K is zero-extended in the .L32 form alone; its extension is settled in the meaning (02 R56). -/
def specVdot : OpSpec :=
  { op := 0x157#9, arity := 3, oms := [0, 1, 2, 3, 4]
    fnOk := fun n => decide (n < 8) && decide (n % 4 < 3) && (decide (n % 4 = 2) || decide (n < 4)) }
/-- An operand of VDOT.L32: a constant is zero-extended (02 R56). -/
def vdotTok (f : Fire) (p : Nat) (t : Token) : Token :=
  if omToken f.w.om.toNat p then t else kTok (kOf { specVdot with zxK := true } f.w p)
/-- The value of VDOT (05 R153). -/
def vdotV (f : Fire) : Word :=
  match f.w.fn.toNat % 4 with
  | 0 =>
    let sum := ((List.range 8).map fun i => laneS 8 f.a.value i * laneS 8 f.b.value i).sum
    resS 32 (sw 32 f.c + sum)
  | 1 =>
    let sum := ((List.range 4).map fun i => laneS 16 f.a.value i * laneS 16 f.b.value i).sum
    BitVec.ofInt 64 (f.c.value.toInt + sum)
  | _ =>
    let a := vdotTok f 0 f.a
    let b := vdotTok f 1 f.b
    let c := vdotTok f 2 f.c
    let sat := f.w.fn.getLsbD 2
    let pr := fun (i : Nat) => fdec f32 (fmul f32 0 sat (fdec f32 (lane 32 a.value i)) (fdec f32 (lane 32 b.value i)))
    let sm := fdec f32 (fadd f32 0 sat (pr 0) (pr 1))
    BitVec.ofNat 64 (fadd f32 0 sat sm (fdec f32 (lane 32 c.value 0)))
/-- VDOT (05 R153). -/
def execVdot (w : Fields) (s : State) : Res State := fire specVdot (alu vdotV) w s

/-- A floating lane-wise entry, RNE. -/
def lnF (g : Fire → Nat → Nat) : Meaning := alu fun f => lanes (lnFmt f).width (g f)
/-- VFMA. -/
def specVfma : OpSpec := fltSpec 0x158#9 3 [0, 1, 2, 3, 4]
/-- VFMA: one rounding per lane (05 R154). -/
def execVfma (w : Fields) (s : State) : Res State :=
  fire specVfma (lnF fun f i => ffma (lnFmt f) 0 (f.w.fn.getLsbD 2) (lnV f f.a i) (lnV f f.b i) (lnV f f.c i)) w s
/-- VFADD. -/
def specVfadd : OpSpec := fltSpec 0x159#9 2 [0, 1, 2]
/-- VFADD (05 R154). -/
def execVfadd (w : Fields) (s : State) : Res State :=
  fire specVfadd (lnF fun f i => fadd (lnFmt f) 0 (f.w.fn.getLsbD 2) (lnV f f.a i) (lnV f f.b i)) w s
/-- VFMUL. -/
def specVfmul : OpSpec := fltSpec 0x15A#9 2 [0, 1, 2]
/-- VFMUL (05 R154). -/
def execVfmul (w : Fields) (s : State) : Res State :=
  fire specVfmul (lnF fun f i => fmul (lnFmt f) 0 (f.w.fn.getLsbD 2) (lnV f f.a i) (lnV f f.b i)) w s
/-- VFMAX. -/
def specVfmax : OpSpec := fltSpec 0x15B#9 2 [0, 1, 2]
/-- VFMAX (05 R154). -/
def execVfmax (w : Fields) (s : State) : Res State :=
  fire specVfmax (lnF fun f i =>
    fminmax (lnFmt f) true (lane (lnFmt f).width f.a.value i) (lane (lnFmt f).width f.b.value i)) w s

/-- The lane code of a width; E2M1 takes the least (05 R154). -/
def laneCode (w : Nat) : Nat := if w ≤ 8 then 0 else if w = 16 then 1 else if w = 32 then 2 else 3
/-- VCVT: its pair differs and is below 14; FN[1:0] is the lane code of the wider format (05 R154). -/
def specVcvt : OpSpec :=
  { op := 0x15C#9, arity := 1, fnOk := fun n => decide (n < 8), zxK := true
    xfOk := fun x => decide (x / 256 = 0) && decide (bits x 4 4 < 14) && decide (bits x 0 4 < 14) && bits x 4 4 != bits x 0 4
    fnBad := fun w => decide (srcCode w < 14 ∧ dstCode w < 14) &&
      w.fn.toNat % 4 != laneCode (Nat.max (fmtOf (srcCode w)).width (fmtOf (dstCode w)).width) }
/-- VCVT (05 R154). -/
def execVcvt (w : Fields) (s : State) : Res State :=
  fire specVcvt (alu fun f =>
    let src := fmtOf (srcCode f.w)
    let dst := fmtOf (dstCode f.w)
    lanesN dst.width (64 / Nat.max src.width dst.width) fun i =>
      convert src dst 0 (f.w.fn.getLsbD 2) (lane src.width f.a.value i)) w s

/-! ## Sparse bitmaps, keys and digits -/

/-- PFXC. -/
def specPfxc : OpSpec := { op := 0x15D#9, arity := 2, oms := [0, 1, 2], fnOk := fun n => n == 3 }
/-- PFXC: T0 the running offset, T1 the next (05 R155). DESIGN CHOICE (log 91): where both targets name one continuation, T0's token
goes first. -/
def execPfxc (w : Fields) (s : State) : Res State :=
  fire specPfxc
    { endMode := .own, ownNull := true
      body := fun f m hw =>
        if f.b.kind = .data && (f.a.kind = .data || f.a.kind = .paddr) then do
          let hw ← emit0 f hw [tokOf f .data f.b.value f.psn]
          emit1 f hw [tokOf f .data (f.b.value + BitVec.ofNat 64 (popN 64 f.a.value.toNat)) f.psn]
        else if f.b.kind = .data && (f.a.kind = .null || f.a.kind = .endm) then do
          let hw ← emit0 f hw [{ f.a with tag := f.tag, psn := false }]
          emit1 f hw [tokOf f .data f.b.value f.psn]
        else if anyEnd f.data then (if endsAgree f.data then passEnd f m hw else .error (illegal 6))
        else if (nullAux f.data).isSome then passNull f m hw
        else do
          let hw ← emit0 f hw [tokOf f .data f.b.value f.psn]
          emit1 f hw [tokOf f .data (f.b.value + BitVec.ofNat 64 (popN 64 f.a.value.toNat)) f.psn] } w s

/-- The tokens of ISECT's stream from bit j on, with `fuel` bits left, and the run of zeros behind (05 R156). -/
def isectToks (f : Fire) (x y m : Nat) : Nat → Nat → Nat → List Token
  | 0, _, run => if run = 0 then [] else nulls f.tag run
  | fuel + 1, j, run =>
    if bit m j then
      (if run = 0 then [] else nulls f.tag run) ++
        tokOf f .data (BitVec.ofNat 64 (j + popN 64 (x % 2 ^ j) * 2 ^ 8 + popN 64 (y % 2 ^ j) * 2 ^ 16)) ::
          isectToks f x y m fuel (j + 1) 0
    else isectToks f x y m fuel (j + 1) (run + 1)

/-- The positions an operand of ISECT stands for: AUX k of a NULL, 0 of a value (05 R156). -/
def isectK (t : Token) : Nat := if t.kind = .null then t.aux.toNat else 0
/-- The fault of ISECT on operands that stand for different positions: it names the port of the larger k, or
of the NULL when they are equal (05 R156). -/
def isectFault (f : Fire) : Stop :=
  let ka := isectK f.a
  let kb := isectK f.b
  let port := if ka = kb then (if f.a.kind = .null then 0 else 1) else if kb < ka then 0 else 1
  outOfRange port (BitVec.ofNat 64 (if port = 0 then ka else kb))
/-- ISECT. -/
def specIsect : OpSpec := { op := 0x15E#9, arity := 2, oms := [0, 1, 2], fnOk := fun n => n == 3 }
/-- ISECT: the positions where both bitmaps are set, as a stream (05 R156); T1's token leaves with the first of T0's (05 Table
5.6). DESIGN CHOICE (log 70): a NULL beside a poisoned value faults as the mismatch it is. DESIGN CHOICE (log 91): where both targets
name one continuation, T1's tokens go before T0's. -/
def execIsect (w : Fields) (s : State) : Res State :=
  fire specIsect
    { ownNull := true
      body := fun f _ hw =>
        if f.a.kind = .null || f.b.kind = .null then
          if f.a.kind = .null && f.b.kind = .null && f.a.aux = f.b.aux then do
            let k := f.a.aux.toNat
            let hw ← emit1 f hw (List.replicate (k + 1) (tokOf f .data 0))
            emit0 f hw (nulls f.tag (64 * (k + 1)))
          else .error (isectFault f)
        else if f.psn then do
          let hw ← emit1 f hw [tokOf f .data 0 true]
          emit0 f hw [tokOf f .data 0 true]
        else do
          let x := f.a.value.toNat
          let y := f.b.value.toNat
          let hw ← emit1 f hw [tokOf f .data (BitVec.ofNat 64 (popN 64 (x &&& y)))]
          emit0 f hw (isectToks f x y (x &&& y) 64 0 0) } w s

/-- The format that OBT and OBTI take: 9 or 10 with .L16, 8 with .L32 (05 R157). -/
def obtFmt (fn : Nat) (b : Word) : Option FFmt :=
  if b.toNat = 9 ∧ fn = 1 then some f16
  else if b.toNat = 10 ∧ fn = 1 then some bf16
  else if b.toNat = 8 ∧ fn = 2 then some f32
  else none
/-- What OBT and OBTI accept. -/
def obtSpec (op : BitVec 9) : OpSpec :=
  { lnSpec op 2 [0, 2] [1, 2] with
    fieldFault := fun w =>
      let k := kOf (lnSpec op 2 [2]) w 1
      if omToken w.om.toNat 1 || (obtFmt w.fn.toNat k).isSome then none else some (kBad 1 k) }
/-- A key transform of each lane. -/
def obt (g : FFmt → Nat → Nat) : Meaning :=
  aluChk fun f =>
    match obtFmt f.w.fn.toNat f.b.value with
    | none => .error (outOfRange 1 f.b.value)
    | some t => .ok (lanes t.width fun i => g t (lane t.width f.a.value i))
/-- OBT. -/
def specObt : OpSpec := obtSpec 0x15F#9
/-- OBT (05 R157, 01 R33). -/
def execObt (w : Fields) (s : State) : Res State := fire specObt (obt obtKey) w s
/-- OBTI. -/
def specObti : OpSpec := obtSpec 0x160#9
/-- OBTI (05 R157, 01 R33). -/
def execObti (w : Fields) (s : State) : Res State := fire specObti (obt obtVal) w s

/-- Whether DIGIT's specification lies within w bits (05 R158). -/
def digitOk (w : Nat) (y : Word) : Bool :=
  let p := bits y.toNat 0 6
  let d := bits y.toNat 8 4
  decide (1 ≤ d ∧ d ≤ 8 ∧ p + d ≤ w)
/-- DIGIT. -/
def specDigit : OpSpec :=
  { lnSpec 0x161#9 3 [0, 1, 2, 3, 4] [1, 2, 3] with
    fieldFault := fun w =>
      let k := kOf (lnSpec 0x161#9 3 [0]) w 1
      if omToken w.om.toNat 1 || digitOk (laneW w.fn.toNat) k then none else some (kBad 1 k) }
/-- DIGIT: one radix digit of a key in the selected bin (05 R158). -/
def execDigit (w : Fields) (s : State) : Res State :=
  fire specDigit
    { onNull := nullOrPoison
      body := fun f _ hw =>
        let w := lw f
        let p := bits f.b.value.toNat 0 6
        let d := bits f.b.value.toNat 8 4
        if !digitOk w f.b.value then .error (outOfRange 1 f.b.value)
        else if tokPsn f.a || uw w f.a / 2 ^ (p + d) == uw w f.c / 2 ^ (p + d) then
          out f hw (BitVec.ofNat 64 (uw w f.a / 2 ^ p % 2 ^ d))
        else emitAll f hw [tokOf f .null] } w s

end Sys2Proof.Machine
end

