-- ==== Sys2Proof/Machine/Specs.lean ====
section
/-! DEFINITION. Which entry an instruction is, and which of an element's operand sets are complete (03 R75, R77). -/
namespace Sys2Proof.Machine

/-- The entry of an instruction word; none for an event. -/
def specOf : Instr → Option OpSpec
  | .mov _ => some specMov
  | .const _ => some specConst
  | .fan _ => some specFan
  | .steer _ => some specSteer
  | .merge _ => some specMerge
  | .gate _ => some specGate
  | .sink _ => some specSink
  | .nullgen _ => some specNullgen
  | .isnull _ => some specIsnull
  | .coalesce _ => some specCoalesce
  | .endm _ => some specEndm
  | .endrank _ => some specEndrank
  | .skip _ => some specSkip
  | .chsend _ => some specChsend
  | .chrecv _ => some specChrecv
  | .credit _ => some specCredit
  | .chopen _ => some specChopen
  | .chclose _ => some specChclose
  | .packt _ => some specPackt
  | .talloc _ => some specTalloc
  | .tfree _ => some specTfree
  | .tnext _ => some specTnext
  | .tidx _ => some specTidx
  | .tset _ => some specTset
  | .tget _ => some specTget
  | .tcall _ => some specTcall
  | .tret _ => some specTret
  | .read _ => some specRead
  | .readHoldAtOpen _ => some specReadHoldAtOpen
  | .write _ => some specWrite
  | .exit _ => some specExit
  | .exitx _ => some specExitx
  | .spawn _ => some specSpawn
  | .spawni _ => some specSpawni
  | .cntinit _ => some specCntinit
  | .cntdec _ => some specCntdec
  | .cntwait _ => some specCntwait
  | .waita _ => some specWaita
  | .switch _ => some specSwitch
  | .quiet _ => some specQuiet
  | .getid _ => some specGetid
  | .cycle _ => some specCycle
  | .trap _ => some specTrap
  | .svc _ => some specSvc
  | .brk _ => some specBrk
  | .pin _ => some specPin
  | .unpin _ => some specUnpin
  | .resq _ => some specResq
  | .keyq _ => some specKeyq
  | .add _ => some specAdd
  | .sub _ => some specSub
  | .rsub _ => some specRsub
  | .neg _ => some specNeg
  | .abs _ => some specAbs
  | .adds _ => some specAdds
  | .subs _ => some specSubs
  | .mul _ => some specMul
  | .mulh _ => some specMulh
  | .mulhz _ => some specMulhz
  | .div _ => some specDiv
  | .divz _ => some specDivz
  | .rem _ => some specRem
  | .remz _ => some specRemz
  | .min _ => some specMin
  | .max _ => some specMax
  | .minz _ => some specMinz
  | .maxz _ => some specMaxz
  | .and _ => some specAnd
  | .or _ => some specOr
  | .xor _ => some specXor
  | .andn _ => some specAndn
  | .orn _ => some specOrn
  | .not _ => some specNot
  | .shl _ => some specShl
  | .shr _ => some specShr
  | .sar _ => some specSar
  | .rol _ => some specRol
  | .ror _ => some specRor
  | .clz _ => some specClz
  | .ctz _ => some specCtz
  | .popc _ => some specPopc
  | .brev _ => some specBrev
  | .bswap _ => some specBswap
  | .ext _ => some specExt
  | .extz _ => some specExtz
  | .ins _ => some specIns
  | .sext _ => some specSext
  | .zext _ => some specZext
  | .lea _ => some specLea
  | .packw _ => some specPackw
  | .cmpeq _ => some specCmpeq
  | .cmpne _ => some specCmpne
  | .cmplt _ => some specCmplt
  | .cmple _ => some specCmple
  | .cmpltz _ => some specCmpltz
  | .cmplez _ => some specCmplez
  | .testz _ => some specTestz
  | .testnz _ => some specTestnz
  | .sel _ => some specSel
  | .bound _ => some specBound
  | .clamp _ => some specClamp
  | .pand _ => some specPand
  | .por _ => some specPor
  | .pnot _ => some specPnot
  | .fadd _ => some specFadd
  | .fsub _ => some specFsub
  | .fmul _ => some specFmul
  | .ffma _ => some specFfma
  | .ffms _ => some specFfms
  | .fmin _ => some specFmin
  | .fmax _ => some specFmax
  | .fabs _ => some specFabs
  | .fneg _ => some specFneg
  | .fcpys _ => some specFcpys
  | .fcmpeq _ => some specFcmpeq
  | .fcmplt _ => some specFcmplt
  | .fcmple _ => some specFcmple
  | .fcmpun _ => some specFcmpun
  | .frcp _ => some specFrcp
  | .frsq _ => some specFrsq
  | .fsqrt _ => some specFsqrt
  | .fdiv _ => some specFdiv
  | .fexp2 _ => some specFexp2
  | .flog2 _ => some specFlog2
  | .ftanh _ => some specFtanh
  | .fsin _ => some specFsin
  | .fcos _ => some specFcos
  | .frnd _ => some specFrnd
  | .fscale _ => some specFscale
  | .fgete _ => some specFgete
  | .cvtf _ => some specCvtf
  | .cvtfi _ => some specCvtfi
  | .cvtif _ => some specCvtif
  | .fclass _ => some specFclass
  | .vadd _ => some specVadd
  | .vsub _ => some specVsub
  | .vmul _ => some specVmul
  | .vmulh _ => some specVmulh
  | .vadds _ => some specVadds
  | .vsubs _ => some specVsubs
  | .vmin _ => some specVmin
  | .vmax _ => some specVmax
  | .vavg _ => some specVavg
  | .vshl _ => some specVshl
  | .vshr _ => some specVshr
  | .vsar _ => some specVsar
  | .vcmpeq _ => some specVcmpeq
  | .vcmplt _ => some specVcmplt
  | .vsel _ => some specVsel
  | .vsplat _ => some specVsplat
  | .vshuf _ => some specVshuf
  | .vpack _ => some specVpack
  | .vunpkl _ => some specVunpkl
  | .vunpkh _ => some specVunpkh
  | .vredadd _ => some specVredadd
  | .vredmax _ => some specVredmax
  | .vredmin _ => some specVredmin
  | .vdot _ => some specVdot
  | .vfma _ => some specVfma
  | .vfadd _ => some specVfadd
  | .vfmul _ => some specVfmul
  | .vfmax _ => some specVfmax
  | .vcvt _ => some specVcvt
  | .pfxc _ => some specPfxc
  | .isect _ => some specIsect
  | .obt _ => some specObt
  | .obti _ => some specObti
  | .digit _ => some specDigit
  | .ld _ => some specLd
  | .st _ => some specSt
  | .ldacq _ => some specLdacq
  | .strel _ => some specStrel
  | .fence _ => some specFence
  | .pref _ => some specPref
  | .xlate _ => some specXlate
  | .leap _ => some specLeap
  | .aadd _ => some specAadd
  | .asub _ => some specAsub
  | .amin _ => some specAmin
  | .amax _ => some specAmax
  | .aminz _ => some specAminz
  | .amaxz _ => some specAmaxz
  | .aand _ => some specAand
  | .aor _ => some specAor
  | .axor _ => some specAxor
  | .axchg _ => some specAxchg
  | .acas _ => some specAcas
  | .afadd _ => some specAfadd
  | .aincw _ => some specAincw
  | .stream _ => some specStream
  | .strmkQuery _ => some specStrmkQuery
  | .strmkCancel _ => some specStrmkCancel
  | .strmkDrain _ => some specStrmkDrain
  | .wring w => some (specWring w)
  | .spread _ => some specSpread
  | .rport _ => some specRport
  | .ldrb _ => some specLdrb
  | .mcfg _ => some specMcfg
  | .mldb _ => some specMldb
  | .mswap _ => some specMswap
  | .mbc _ => some specMbc
  | .mbcw _ => some specMbcw
  | .accset _ => some specAccset
  | .acccnt _ => some specAcccnt
  | .accrd _ => some specAccrd
  | .accclr _ => some specAccclr
  | .mchk _ => some specMchk
  | .hcopy _ => some specHcopy
  | .hgath _ => some specHgath
  | .hscat _ => some specHscat
  | .hred _ => some specHred
  | .hfill _ => some specHfill
  | .chkptBegin _ => some specChkptBegin
  | .chkptRestore _ => some specChkptRestore
  | .chkptAbandon _ => some specChkptAbandon
  | .chkptQuery _ => some specChkptQuery
  | .sysrd _ => some specSysrd
  | .syswr _ => some specSyswr
  | _ => none

/-- The entry and fields of the word in a slot of an element; none for EMPTY or a word that decodes to nothing. -/
def slotSpec (hw : Hw) (e slot : Nat) : Option (OpSpec × Fields) :=
  let w := tget (elemAt hw e).words 0 slot
  match decode w with
  | .ok i => (specOf i).map fun sp => (sp, wordFields w)
  | .error _ => none

/-- Whether an element has a complete operand set for a slot under a tag (03 R75). -/
def setReady (hw : Hw) (e slot : Nat) (tag : BitVec 20) : Bool :=
  match slotSpec hw e slot with
  | none => false
  | some (sp, w) => (headsAt (elemAt hw e) slot tag (setPorts sp w)).isSome && !(setPorts sp w).isEmpty

/-- The slots and tags with waiting operands of an element, in order of first arrival. -/
def waitingSets (x : Elem) : List (Nat × BitVec 20) := (x.ops.map fun o => (o.slot, o.tok.tag)).eraseDups

/-- The operands of an element at a slot, tag and port, in order of arrival. -/
def portQueue (x : Elem) (slot : Nat) (tag : BitVec 20) (p : Nat) : List Operand :=
  x.ops.filter fun o => o.slot = slot && o.tok.tag = tag && contPort o.tok.cont = p

/-- How many complete sets wait at a slot under a tag (03 R75). -/
def completeSets (hw : Hw) (e slot : Nat) (tag : BitVec 20) : Nat :=
  match slotSpec hw e slot with
  | none => 0
  | some (sp, w) => (argMin id ((setPorts sp w).map fun p => (portQueue (elemAt hw e) slot tag p).length)).getD 0

/-- Whether an operand waits as part of a set that is not complete (11 R315): behind the complete ones of its slot and tag. -/
def waitsAlone (hw : Hw) (e : Nat) (o : Operand) : Bool :=
  !(((portQueue (elemAt hw e) o.slot o.tok.tag (contPort o.tok.cont)).take (completeSets hw e o.slot o.tok.tag)).any fun y => y.stamp = o.stamp)

end Sys2Proof.Machine
end

