-- ==== Sys2Proof/Machine/Quiet.lean ====
section
/-! DEFINITION. Configuration periods and the quiescence tree: quiet regions (06 R185), QUIESCENCE_PROBE, REGION_SWITCH,
QUIET_REQUEST_TAKEN and QUIESCENCE_STALL (06 R190, R191, 11 R314, R315). -/
namespace Sys2Proof.Machine

/-! ## Quiet -/

/-- Whether a site is of a frame of a core. -/
def siteAt (c f : Nat) (s : Site) : Bool := decide (coreOf s.elem = c ∧ s.frame = f)

/-- Whether a token in flight goes to a frame of a core of this package. -/
def bound (hw : Hw) (c f : Nat) (x : Flight) : Bool :=
  decide (contLC x.tok.cont = ownLC hw ∧ contCore x.tok.cont = c ∧ contFrame x.tok.cont = f)

/-- Whether a macro has a command or a broadcast of a frame under way. -/
def macroBusy (c f : Nat) (x : Macro) : Bool :=
  (x.queue.any fun q => siteAt c f q.site) || (match x.out with
    | some o => siteAt c f o.site
    | none => false)

/-- Whether an engine opened from a frame has something outstanding (06 R185). -/
def engineBusy (hw : Hw) (c f : Nat) : Bool :=
  let x := coreAt hw c
  (x.gens.any fun g => match g.2.site with
    | some s => siteAt c f s
    | none => false) ||
  (x.spread.any fun u => siteAt c f (spreadSite u.2)) || (x.rport.any fun u => siteAt c f u.2.site) ||
  (x.eps.any fun e => e.2.frame = f && e.2.state != .closed &&
    (!e.2.buf.isEmpty || (hw.chan.any fun m => m.src = (c, e.1) || m.dst = (c, e.1)))) ||
  ((clAt hw (clOf c)).hal.any fun r => siteAt c f r.site) || (x.macros.any fun m => macroBusy c f m.2)

/-- Whether the stores of a frame's committed activations have performed (06 R185). -/
def storesDone (hw : Hw) (c f : Nat) : Bool :=
  !((coreAt hw c).releaseQ.any fun (b : Buffered) => b.site.frame = f) && !(hw.acc.any fun a => siteAt c f a.site)

/-- Whether some element of a core is frozen. -/
def coreFrozen (hw : Hw) (c : Nat) : Bool := (List.range 32).any fun e5 => frozen hw (c * 32 + e5)

/-- Whether an operand waits on a core in a frame. -/
def opsIn (hw : Hw) (c f : Nat) : Bool := (List.range 32).any fun e5 => (elemAt hw (c * 32 + e5)).ops.any fun o => o.slot / 4 = f

/-- Whether a frame of a core is quiet (06 R185). -/
def frameQuiet (hw : Hw) (c f : Nat) : Bool :=
  (actsOf (coreAt hw c) f).isEmpty && !opsIn hw c f && !(hw.net.any (bound hw c f)) && !coreFrozen hw c &&
    storesDone hw c f && !engineBusy hw c f

/-- Whether a region of cluster `k` is quiet (06 R185). -/
def regionQuiet (hw : Hw) (k : Nat) (r : Region) : Bool :=
  r.valid && (regionCores (k / 8) r).all fun c => frameQuiet hw c r.cur.toNat

/-- PENDING of an element, as it reports it: some operand waits here, or it is frozen (03 Table 3.1, R103). -/
def pendingFlag (hw : Hw) (e : Nat) : Bool := frozen hw e || !(elemAt hw e).ops.isEmpty
/-- FIRED of an element, as it reports it: some issue since the last sample, and 0 while it is frozen (03 Table 3.1, R103). -/
def firedFlag (hw : Hw) (e : Nat) : Bool := (elemAt hw e).fired && !frozen hw e

/-- Whether no element of some cores reports FIRED (11 R314). -/
def stayedQuiet (hw : Hw) (cs : List Nat) : Bool := cs.all fun c => (List.range 32).all fun e5 => !firedFlag hw (c * 32 + e5)

/-- Samples the elements of a core: their FIRED flags start anew (03 Table 3.1, 11 R314). -/
def sampleCore (hw : Hw) (c : Nat) : Hw :=
  (List.range 32).foldl (fun hw e5 => if (elemAt hw (c * 32 + e5)).fired then
    setElem hw (c * 32 + e5) { elemAt hw (c * 32 + e5) with fired := false } else hw) hw

/-- The frame for which a node stopped: of the broadcast whose partial it refused, or of its armed group (08 R252). -/
def stopFrame (x : Core) (n : Node) : Option Nat :=
  match n.stop with
  | none => none
  | some (.partial_ m) => (tget x.macros {} m).out.map (·.site.frame)
  | some .release => (n.group.bind fun id => x.groups.find? fun g => g.id = id).map (·.site.frame)

/-- Whether a generator of a frame is stopped at a fault. -/
def genStopped (f : Nat) (g : Gen) : Bool := g.state == .stopped && g.site.any fun s => s.frame = f

/-- Whether a unit of a frame of a core is frozen or stopped (11 R315). -/
def unitStopped (hw : Hw) (c f : Nat) : Bool :=
  ((List.range 32).any fun e5 => frozen hw (c * 32 + e5) && (elemAt hw (c * 32 + e5)).fault.frame.toNat = f) ||
    ((coreAt hw c).gens.any fun g => genStopped f g.2) || ((coreAt hw c).nodes.any fun n => stopFrame (coreAt hw c) n.2 == some f)

/-- Whether an element is frozen at a breakpoint, and at no fault (13 R358). -/
def atBreak (x : Elem) : Bool :=
  match x.why with
  | .brk .. => true
  | _ => false

/-- Whether a unit of a frame of a core stopped at a fault: those of `unitStopped` but for breakpoints, and a release queue held
at a store of the frame (13 R346, R361). -/
def unitFaulted (hw : Hw) (c f : Nat) : Bool :=
  ((List.range 32).any fun e5 => frozen hw (c * 32 + e5) && (elemAt hw (c * 32 + e5)).fault.frame.toNat = f &&
      !atBreak (elemAt hw (c * 32 + e5))) ||
    ((coreAt hw c).gens.any fun g => genStopped f g.2) || ((coreAt hw c).nodes.any fun n => stopFrame (coreAt hw c) n.2 == some f) ||
    ((coreAt hw c).relHeld && (coreAt hw c).releaseQ.any fun (b : Buffered) => b.site.frame = f)

/-- Whether an instruction word may wait with its operand set complete (03 R107): hold registers, SWITCH, QUIET, channels, tags,
SPAWN, services, and what goes to memory, an engine or a macro. -/
def mayWait (w : BitVec 128) : Bool :=
  let op := (wordOp w).toNat
  decide (0x180 ≤ op) || decide (0x00E ≤ op ∧ op ≤ 0x012) || decide (0x040 ≤ op ∧ op ≤ 0x048) ||
    [0x04C, 0x04D, 0x052, 0x053, 0x056, 0x057].contains op

/-- Whether the targets of a slot have room for what it sends under a tag (00 R9). -/
def slotRoom (hw : Hw) (e slot : Nat) (tag : BitVec 20) : Bool :=
  match slotSpec hw e slot with
  | none => true
  | some (sp, w) =>
    let s := siteOf hw sp w e slot tag 0
    targetRoom hw s s.t0 && targetRoom hw s s.t1

/-- Whether a complete set of a slot can only wait: for room at its targets (00 R9) or under R107. -/
def setHeld (hw : Hw) (e slot : Nat) (tag : BitVec 20) : Bool :=
  mayWait (tget (elemAt hw e).words 0 slot) || !slotRoom hw e slot tag

/-- Whether a firing issues in some frames of a core: an element that is not frozen has fired since it was sampled last, or has a
complete set that does not wait (13 R362). -/
def firingIssues (hw : Hw) (c : Nat) (frames : BitVec 8) : Bool :=
  (List.range 32).any fun e5 => firedFlag hw (c * 32 + e5) ||
    (!frozen hw (c * 32 + e5) && (waitingSets (elemAt hw (c * 32 + e5))).any fun s =>
      frames.getLsbD (s.1 / 4) && setReady hw (c * 32 + e5) s.1 s.2 && !setHeld hw (c * 32 + e5) s.1 s.2)

/-- Whether a generator of a core goes on: it is neither idle nor stopped, and can emit or read. -/
def genGoes (hw : Hw) (c g : Nat) : Bool :=
  let x := genAt hw c g
  x.state != .idle && x.state != .stopped && ((genEmit hw c g).isSome || (genIssue hw c g).isSome)

/-- Whether a token waits at the stream port of a session's site, whose element is not frozen. -/
def sessionGoes (hw : Hw) (s : Site) : Bool := !frozen hw s.elem && (headAt (elemAt hw s.elem) s.slot s.tag 2).isSome

/-- Whether every access that a frame of a core started has performed, but for those of stopped units (13 R362). -/
def accessesDone (hw : Hw) (c f : Nat) : Bool :=
  let x := coreAt hw c
  !(hw.acc.any fun a => siteAt c f a.site) && (x.relHeld || !(x.releaseQ.any fun (b : Buffered) => b.site.frame = f)) &&
    !(x.gens.any fun g => (g.2.site.any fun s => s.frame = f) && genGoes hw c g.1) &&
    !(x.spread.any fun u => siteAt c f (spreadSite u.2) && (match u.2 with
      | .wring .. => true
      | .spread s .. => sessionGoes hw s)) &&
    !(x.rport.any fun u => siteAt c f u.2.site && sessionGoes hw u.2.site) &&
    !((clAt hw (clOf c)).hal.any fun r => siteAt c f r.site) &&
    ((x.nodes.any fun n => n.2.stop.isSome) || !(x.macros.any fun m => macroBusy c f m.2)) &&
    !(hw.cntOps.any fun o => match o.body with
      | .init _ _ s => s.any (siteAt c f)
      | .dec _ _ s => s.any (siteAt c f)
      | .wait s => siteAt c f s) &&
    !(hw.replies.any fun y => siteAt c f y.site)

/-- Whether an element of a core is frozen at a breakpoint in a frame (13 R358). -/
def breakStopped (hw : Hw) (c f : Nat) : Bool :=
  (List.range 32).any fun e5 => atBreak (elemAt hw (c * 32 + e5)) && frozen hw (c * 32 + e5) &&
    (elemAt hw (c * 32 + e5)).fault.frame.toNat = f

/-- Whether a region is starved at a fault (13 R362). That no firing issues is held to exactly where a save may come
(`saveEvents`): here a set that may wait under R107 counts as one that does. -/
def regionStarved (hw : Hw) (k : Nat) (r : Region) : Bool :=
  let fs := (List.range 8).filter fun f => r.frames.getLsbD f
  let cs := regionCores (k / 8) r
  r.valid && (cs.any fun c => fs.any fun f => unitFaulted hw c f) && cs.all fun c =>
    !firingIssues hw c r.frames && fs.all fun f =>
      !breakStopped hw c f && !(hw.net.any (bound hw c f)) && accessesDone hw c f

/-! ## Events -/

/-- A region controller. -/
def rcAt (hw : Hw) (k i : Nat) : Region := tget (clAt hw k).rcs {} i
/-- Writes a region controller. -/
def setRc (hw : Hw) (k i : Nat) (r : Region) : Hw := modCl hw k fun c => { c with rcs := tput c.rcs {} i r }

/-- The cores of a region, while it is valid. -/
def probed (cl : Nat) (r : Region) : List Nat := if r.valid then regionCores (cl / 8) r else []

/-- QUIESCENCE_PROBE: the reporters' elements are sampled, and the controller's decision follows: quiet, if every reporter has
stayed quiet since its last report (11 R314). -/
def execQuiescenceProbe (cl rc : Nat) (s : State) : Res State :=
  let r := rcAt s.hw cl rc
  let still := stayedQuiet s.hw (probed cl r)
  let q := regionQuiet s.hw cl r && still
  if r.quiet = q && still then .fault .notEnabled
  else .next { s with hw := setRc ((probed cl r).foldl sampleCore s.hw) cl rc { r with quiet := q } }

/-- REGION_SWITCH: the head request of a quiet region (06 R190). -/
def execRegionSwitch (cl rc : Nat) (s : State) : Res State :=
  let r := rcAt s.hw cl rc
  match r.swq with
  | [] => .fault .notEnabled
  | (f, t, site) :: rest =>
    if !r.quiet || !regionQuiet s.hw cl r then .fault .notEnabled
    else
      let hw := setRc s.hw cl rc { r with swq := rest, period := r.period + 1, cur := f, quiet := false }
      let hw := (regionCores (cl / 8) r).foldl (fun hw c => modCore hw c (unmarkFrames r.frames)) hw
      .next { s with hw := settle hw site (do
        let hw ← emitTo hw site (siteSrc site) site.t0 t true
        emitTo hw site (siteSrc site) site.t1 t true) }

/-- QUIET_REQUEST_TAKEN: the controller fixes the set of the other cores (06 R191). -/
def execQuietRequestTaken (cl rc : Nat) (s : State) : Res State :=
  let r := rcAt s.hw cl rc
  let fresh := fun (q : QuietReq) => q.taken.isNone
  match r.quiets.find? fresh with
  | none => .fault .notEnabled
  | some q =>
    let others := (regionCores (cl / 8) r).filter fun c => c != coreOf q.elem
    let set := others.flatMap fun c => ((coreAt s.hw c).acts.filter fun a => a.frame = r.cur.toNat).map fun a => (c, a.seq)
    .next { s with hw := setRc s.hw cl rc { r with quiets := mapFirst fresh (fun q => { q with taken := some set }) r.quiets } }

/-! ## The stall watch (11 R315) -/

/-- The frames that watch `i` of a cluster covers, as (core, frame). -/
def watched (hw : Hw) (cl i : Nat) : List (Nat × Nat) :=
  if i < 4 then
    let r := rcAt hw cl i
    if r.valid then (regionCores (cl / 8) r).map fun c => (c, r.cur.toNat) else []
  else
    let c := cl * 8 + (i - 4)
    ((List.range 8).filter fun f => (regionOf hw c f).isNone).map fun f => (c, f)

/-- The waiting operands of incomplete sets in some frames, as (element, operand). -/
def lonely (hw : Hw) (fs : List (Nat × Nat)) : List (Nat × Operand) :=
  fs.flatMap fun x => (List.range 32).flatMap fun e5 =>
    ((elemAt hw (x.1 * 32 + e5)).ops.filter fun o => o.slot / 4 = x.2 && waitsAlone hw (x.1 * 32 + e5) o).map fun o => (x.1 * 32 + e5, o)

/-- When some frames last saw progress. -/
def lastMove (hw : Hw) (fs : List (Nat × Nat)) : Nat :=
  fs.foldl (fun n x => max n (tget (coreAt hw x.1).moved 0 x.2)) 0

/-- The record of a stall (11 Table 11.5). -/
def stallRecord (hw : Hw) (cl i : Nat) (ops : List (Nat × Operand)) : QStall :=
  let frames := (List.range 8).foldl (fun (b : BitVec 8) f =>
    if ops.any fun o => o.2.slot / 4 = f then b ||| BitVec.ofNat 8 (2 ^ f) else b) 0
  let base : QStall :=
    { valid := true, kind := decide (4 ≤ i), cl := cl, unit := BitVec.ofNat 3 (if i < 4 then i else i - 4), frames := frames
      period := if i < 4 then (rcAt hw cl i).period else 0, pend := BitVec.ofNat 15 (min ops.length 32767) }
  match argMin (fun (o : Nat × Operand) => o.2.stamp) ops with
  | none => base
  | some (e, o) =>
    { base with oldtag := o.tok.tag, elem := BitVec.ofNat 5 e, frame := BitVec.ofNat 3 (o.slot / 4), slot := BitVec.ofNat 2 o.slot
                port := BitVec.ofNat 2 (contPort o.tok.cont) }

/-- Bits [127:64] of a stall record (11 Table 11.5). -/
def qstallHigh (q : QStall) : Nat :=
  b2n q.valid * 2 ^ 63 + b2n q.kind * 2 ^ 62 + q.cl * 2 ^ 57 + q.unit.toNat * 2 ^ 54 + q.frames.toNat * 2 ^ 46 + q.period.toNat
/-- Bits [63:0] of a stall record (11 Table 11.5). -/
def qstallLow (q : QStall) : Nat :=
  q.oldtag.toNat * 2 ^ 44 + q.elem.toNat * 2 ^ 39 + q.frame.toNat * 2 ^ 36 + q.slot.toNat * 2 ^ 34 + q.port.toNat * 2 ^ 32 +
    q.pend.toNat * 2 ^ 17

/-- QUIESCENCE_STALL: a watch has counted 65,536 cycles (11 R315). -/
def execQuiescenceStall (cl i : Nat) (s : State) : Res State :=
  let fs := watched s.hw cl i
  let ops := lonely s.hw fs
  let q := tget (clAt s.hw cl).qstall {} i
  let since := max (lastMove s.hw fs) (tget (clAt s.hw cl).qsince 0 i)
  if 12 ≤ i || q.valid || ops.isEmpty || (fs.any fun x => unitStopped s.hw x.1 x.2) || decide (s.hw.now < since + 65536) then
    .fault .notEnabled
  else
    let r := stallRecord s.hw cl i ops
    let hw := modCl s.hw cl fun c => { c with qstall := tput c.qstall {} i r }
    .next { s with hw := report hw cl cSTALL (qstallHigh r) }

end Sys2Proof.Machine
end

