-- ==== Sys2Proof/Machine/Preempt.lean ====
section
/-! DEFINITION. Pre-emption (13 R362 to R370): soft and hard, the drain, saving and restoring an ASID's work. -/
namespace Sys2Proof.Machine

/-! ## Who is held -/

/-- The pre-emption of a partition. -/
def preAt (hw : Hw) (p : Nat) : Preempt := tget hw.pkg.pre {} p
/-- Writes the pre-emption of a partition. -/
def setPre (hw : Hw) (p : Nat) (x : Preempt) : Hw := modPkg hw fun g => { g with pre := tput g.pre {} p x }

/-- Whether an activation of a core is of an ASID. -/
def actOf (hw : Hw) (a : BitVec 10) (c : Nat) (x : Act) : Bool := (frameAt (coreAt hw c) x.frame).asid = a

/-- The uncommitted activations of some ASIDs, as (core, activation). -/
def actsOfAsid (hw : Hw) (p : BitVec 10 → Bool) : List (Nat × Act) :=
  hw.cores.flatMap fun c => (c.2.acts.filter fun x => p (frameAt c.2 x.frame).asid).map fun x => (c.1, x)

/-! ## Discarding (13 R367 steps 3 to 5) -/

/-- The block at which a running task resumes: of its first uncommitted activation in chain order, else its successor
(13 R364, R367 step 6). -/
def resumeBlock (hw : Hw) (t : Task) : Option (BitVec 20) :=
  let c := coreAt hw t.core
  match c.acts.find? fun a => a.ctx == some t.ctx && isTaskSpace (tagSpace a.tag) with
  | some a => some (frameAt c a.frame).block
  | none => (ctxAt c t.ctx).next.map (·.block)

/-- Notes the resume block of every running task of some ASIDs, once. -/
def noteResume (hw : Hw) (p : BitVec 10 → Bool) : Hw :=
  let note := fun (t : Task) => if p t.asid && t.state == .running && t.resume.isNone then { t with resume := resumeBlock hw t } else t
  { hw with tasks := hw.tasks.map note }

/-- Whether a sideband names one of some activations. -/
def sideIn (dead : List (Nat × Act)) (s : Option ActRef) : Bool :=
  match s with
  | some r => dead.any fun d => d.1 = r.core && d.2.seq = r.seq
  | none => false

/-- Keeps the log records and tokens in flight of some ASIDs that no discarded activation sent (13 R367 step 4). -/
def keepLogs (hw : Hw) (p : BitVec 10 → Bool) (dead : List (Nat × Act)) : Hw :=
  let hw : Hw := { hw with cores := hw.cores.map fun (c : Nat × Core) => (c.1, { c.2 with log := c.2.log.filter fun l =>
    !(p (frameAt c.2 l.frame).asid && sideIn dead l.side) }) }
  { hw with net := hw.net.filter fun x => !sideIn dead x.side }

/-- The pool of tag spaces that serves a frame, as its region controller, or its cluster (03 R85, R102). -/
def poolOf (hw : Hw) (c f : Nat) : Nat × Option Nat :=
  match regionOf hw c f with
  | some (k, i, _) => (k, some i)
  | none => (clOf c, none)

/-- A pool's tag spaces as discarded activations of it leave them (13 R367 step 5): those that they allocated are free, those
that they made freeing are live, and each is back at the index of its oldest discarded activation, the one farthest behind. -/
def spacesBack (dead : List (Nat × Act)) (t : Tab Space) : Tab Space :=
  let has := fun (o : Option (Nat × Nat)) => o.any fun k => dead.any fun d => d.1 = k.1 && d.2.seq = k.2
  t.filterMap fun x =>
    if has x.2.maker then none
    else
      let y := if has x.2.freer then { x.2 with freeing := false, tfree := none, freer := none } else x.2
      let behind := fun (i : Nat) => (y.cur + y.size - i % y.size) % y.size
      let old := (dead.filter fun d => tagSpace d.2.tag = x.1).map fun d => tagIndex d.2.tag
      match argMin (fun i => y.size - behind i) old with
      | some i => some (x.1, { y with cur := i })
      | none => some (x.1, y)

/-- Gives every pool's tag spaces back what discarded activations did to them, and forgets their QUIET requests. -/
def poolsBack (hw : Hw) (dead : List (Nat × Act)) : Hw :=
  let of_ := fun (k : Nat) (i : Option Nat) => dead.filter fun d => poolOf hw d.1 d.2.frame == (k, i)
  let lost := fun (q : QuietReq) => dead.any fun d => d.1 = coreOf q.elem && d.2.frame = q.slot / 4 && d.2.tag = q.tag
  { hw with cls := hw.cls.map fun k => (k.1,
      { k.2 with spaces := spacesBack (of_ k.1 none) k.2.spaces
                 rcs := k.2.rcs.map fun r => (r.1, { r.2 with spaces := spacesBack (of_ k.1 (some r.1)) r.2.spaces
                                                              quiets := r.2.quiets.filter fun q => !lost q }) }) }

/-- Discards every uncommitted activation of some ASIDs, except on cores and frames that `but` spares
(13 R367 steps 3 to 5). -/
def discardAsids (hw : Hw) (p : BitVec 10 → Bool) (but : Nat → Act → Bool) : Hw :=
  let dead := (actsOfAsid hw p).filter fun d => !but d.1 d.2
  let hw := noteResume hw p
  let hw := poolsBack (keepLogs hw p dead) dead
  (dead.map (·.1)).eraseDups.foldl (fun hw c => discardAndCache hw c fun x => dead.any fun d => d.1 = c && d.2.seq = x.seq) hw

/-! ## Saving (13 R369) -/

/-- The frame of a key of a table keyed by `keyAct`. -/
def actKeyFrame (k : Nat) : Nat := k / 2 ^ 20 % 8
/-- The frame of a key of a table keyed by `keySlot`. -/
def slotKeyFrame (k : Nat) : Nat := k / 2 ^ 20 % 32 / 4

/-- What a core holds of some frames (`keep` true) or of the others. -/
def coreOfFrames (fr : BitVec 8) (keep : Bool) (x : Core) : Core :=
  let on := fun (f : Nat) => fr.getLsbD f == keep
  let genOn := fun (g : Gen) => match g.site with
    | some s => on s.frame
    | none => !keep
  { x with
    frames := tkeep on x.frames
    acts := x.acts.filter fun a => on a.frame
    arrived := tkeep (fun k => on (slotKeyFrame (k / 4))) x.arrived
    firedN := tkeep (fun k => on (slotKeyFrame k)) x.firedN
    opened := tkeep (fun k => on (actKeyFrame k)) x.opened
    committed := tkeep (fun k => on (actKeyFrame k)) x.committed
    stores := x.stores.filter fun (b : Buffered) => on b.site.frame
    lsq := x.lsq.filter fun y => on y.frame
    lsDone := x.lsDone.filter fun y => on y.frame
    gens := x.gens.filter fun g => genOn g.2
    spread := x.spread.filter fun u => on (spreadSite u.2).frame
    rport := x.rport.filter fun u => on u.2.site.frame
    eps := x.eps.filter fun e => on e.2.frame
    rowbuf := if keep then x.rowbuf else []
    rowPsn := if keep then x.rowPsn else []
    macros := if keep then x.macros else []
    nodes := if keep then x.nodes else []
    groups := if keep then x.groups else []
    ncmds := if keep then x.ncmds else []
    matRec := if keep then x.matRec else {}
    log := x.log.filter fun l => on l.frame
    logLost := x.logLost.filter fun l => on l.1 }

/-- A store that is translated again at its release; a window access keeps its tile (07 R198). -/
def untranslatedStore (b : Buffered) : Buffered := if inWindow b.va then b else { b with stale := true }

/-- Lists the entries of one table in another. -/
def tabJoin {α : Type} (t u : Tab α) : Tab α := u.foldl (fun t x => tins t x.1 x.2) t

/-- A table as it was saved, or the present one where nothing was: the macros, nodes and row buffer of a core go with the region of
it that is saved first. -/
def savedOr {α : Type} (x y : List α) : List α := if y.isEmpty then x else y

/-- What a save held of a core, with its translations gone: its stores, sessions and matrix loads are translated again, since only PX
entries are saved (13 Table 13.11, R346). -/
def untranslated (x : Core) : Core :=
  let old := fun (r : TileRange) => { r with stale := true }
  let unit := fun (u : SpreadUnit) => match u with
    | .wring s r w cols sx row col run made => .wring s (old r) w cols sx row col run made
    | .spread s r w cols row col dead marked => .spread s (old r) w cols row col dead marked
  let cmd := fun (m : MCmd) => match m.body with
    | .mldb r par psn => { m with body := .mldb (old r) par psn }
    | _ => m
  { x with stores := x.stores.map untranslatedStore
           spread := x.spread.map fun y => (y.1, unit y.2)
           rport := x.rport.map fun y => (y.1, { y.2 with range := old y.2.range })
           macros := x.macros.map fun y => (y.1, { y.2 with queue := y.2.queue.map cmd }) }

/-- A core with saved frames back in it (13 R370). -/
def coreJoin (x y : Core) : Core :=
  { x with
    frames := tabJoin x.frames y.frames, acts := x.acts ++ y.acts
    arrived := tabJoin x.arrived y.arrived, firedN := tabJoin x.firedN y.firedN
    opened := tabJoin x.opened y.opened, committed := tabJoin x.committed y.committed
    stores := x.stores ++ y.stores, lsq := x.lsq ++ y.lsq, lsDone := x.lsDone ++ y.lsDone, gens := tabJoin x.gens y.gens
    spread := tabJoin x.spread y.spread, rport := tabJoin x.rport y.rport, eps := tabJoin x.eps y.eps
    rowbuf := savedOr x.rowbuf y.rowbuf, rowPsn := savedOr x.rowPsn y.rowPsn, macros := savedOr x.macros y.macros
    nodes := savedOr x.nodes y.nodes, groups := savedOr x.groups y.groups, ncmds := savedOr x.ncmds y.ncmds
    matRec := if y.matRec.valid then y.matRec else x.matRec, log := x.log ++ y.log, logLost := tabJoin x.logLost y.logLost }

/-- What an element holds of some frames (`keep` true) or of the others. -/
def elemOfFrames (fr : BitVec 8) (keep : Bool) (x : Elem) : Elem :=
  let on := fun (s : Nat) => fr.getLsbD (s / 4) == keep
  let flt := x.fault.valid && fr.getLsbD x.fault.frame.toNat == keep
  { x with words := tkeep on x.words, lo := tkeep on x.lo, ops := x.ops.filter fun o => on o.slot
           fault := if flt then x.fault else {}, why := if flt then x.why else .none }

/-- An element with saved frames back in it. -/
def elemJoin (x y : Elem) : Elem :=
  { x with words := tabJoin x.words y.words, lo := tabJoin x.lo y.lo, ops := x.ops ++ y.ops
           fault := if x.fault.valid then x.fault else y.fault, why := if x.fault.valid then x.why else y.why }

/-- The tokens kept for the frames of a region (13 R367, R370): after a hard pre-emption the log records, whose operands were
discarded with their activations; and tokens still in flight. -/
def keptToks (hw : Hw) (k : Nat) (r : Region) (hard : Bool) : List Flight :=
  let cs := regionCores (k / 8) r
  (if hard then cs.flatMap fun c => ((coreAt hw c).log.filter fun l => r.frames.getLsbD l.frame).map fun l =>
      { tok := l.tok, src := Src.replay c, side := none }
    else []) ++
    hw.net.filter fun x => decide (contLC x.tok.cont = ownLC hw) && cs.contains (contCore x.tok.cont) && r.frames.getLsbD (contFrame x.tok.cont)

/-- What a region's core has saved of it: its log goes with it where its activations do (13 R364, Table 13.11). -/
def savedCore (r : Region) (hard : Bool) (x : Core) : Core :=
  let y := coreOfFrames r.frames true x
  if hard then { y with log := [] } else y

/-- Saves one region and zeroes it (13 R369, 08 R232). -/
def saveRegion (hard : Bool) (x : Mem × Hw × SavedWork) (k i : Nat) (r : Region) : Mem × Hw × SavedWork :=
  let (m, hw, w) := x
  let cs := regionCores (k / 8) r
  let inTile := fun (a : Nat) => cs.any fun c => decide (tileBase c 0 ≤ a ∧ a < tileBase c 0 + 2 ^ 20)
  let es := cs.flatMap fun c => (List.range 32).map fun e5 => c * 32 + e5
  let w : SavedWork :=
    { w with regions := w.regions ++ [(k, i, r)]
             cores := w.cores ++ cs.map fun c => (c, savedCore r hard (coreAt hw c))
             elems := w.elems ++ es.map fun e => (e, elemOfFrames r.frames true (elemAt hw e))
             tiles := w.tiles ++ m.bytes.filter fun b => inTile b.1
             poison := w.poison ++ m.poison.filter inTile
             toks := w.toks ++ keptToks hw k r hard }
  let hw := { hw with net := hw.net.filter fun t => !(w.toks.contains t) }
  let hw := cs.foldl (fun hw c => modCore hw c (coreOfFrames r.frames false)) hw
  let hw := es.foldl (fun hw e => setElem hw e (elemOfFrames r.frames false (elemAt hw e))) hw
  let (m, hw) := cs.foldl (fun (x : Mem × Hw) c => homeZero x.1 x.2 (tileBase c 0) (2 ^ 20)) (m, hw)
  (m, setRc hw k i {}, w)

/-- The slice of a core's task area that a context owns, as (local address, bytes) (10 R263). -/
def taskSlice (hw : Hw) (c ctx : Nat) : Nat × Nat :=
  let n := min 32 (tget (clAt hw (clOf c)).tarea 0 (c % 8)).toNat
  (tileBase c 1 + 0x80000 - 16 * n * 1024 + ctx * n * 1024, n * 1024)

/-- Saves one task's context (13 R369): committed hold registers below HOLDS, poison mark, slice, PX entries; the context becomes
free. -/
def saveTask (m : Mem) (hw : Hw) (t : Task) : Mem × Hw :=
  let c := ctxAt (coreAt hw t.core) t.ctx
  let holds := (typeAt hw t.asid (recType t.words)).holds
  let (lo, n) := taskSlice hw t.core t.ctx
  let inSlice := fun (a : Nat) => decide (lo ≤ a ∧ a < lo + n)
  let mine := fun (x : Xlat) => x.px && x.pxTask == some t.id
  let t' : Task :=
    { t with state := .saved
             saved := some { c with hold := tkeep (fun j => decide (j < holds)) c.hold }
             resume := match t.resume with
               | some b => some b
               | none => c.next.map (·.block)
             area := (m.bytes.filter fun b => inSlice b.1).map fun b => (b.1 - lo, b.2)
             areaPsn := (m.poison.filter inSlice).map fun a => a - lo
             px := (coreAt hw t.core).tlb.filter mine }
  let hw := modCore (dropTaskToks hw t) t.core fun x => { x with tlb := x.tlb.filter fun y => !mine y }
  let hw := freeCtx (giveUpFrame hw t.core t.ctx) t.core t.ctx
  homeZero m { hw with tasks := hw.tasks.map fun u => if u.id = t.id then t' else u } lo n

/-- The stores of an ASID in a core's release queue, with its hold if its head is one of them (13 R346). -/
def releaseOf (a : BitVec 10) (x : Core) : ReleaseQ :=
  let mine := fun (b : Buffered) => decide (b.site.asid = a)
  let held := x.relHeld && x.releaseQ.head?.any mine
  { queue := x.releaseQ.filter mine, held := held, rec_ := if held then x.relRec else {} }

/-- A core without them. -/
def releaseSaved (a : BitVec 10) (x : Core) : Core :=
  let y := { x with releaseQ := x.releaseQ.filter fun (b : Buffered) => !decide (b.site.asid = a) }
  if (releaseOf a x).held then { y with relHeld := false, relRec := {} } else y

/-- A core with saved stores at the head of its release queue again, held if they were; behind a store of another that holds it. -/
def releaseBack (q : ReleaseQ) (x : Core) : Core :=
  let l := q.queue.map untranslatedStore
  if x.relHeld then { x with releaseQ := x.releaseQ ++ l }
  else { x with releaseQ := l ++ x.releaseQ, relHeld := q.held, relRec := if q.held then q.rec_ else x.relRec }

/-- Saves the residency entries, monitor entries, posted CNTWAITs and PX entries of an ASID (13 Table 13.11), and what a held release
queue keeps of it; those of a task are saved with its context. -/
def saveAsid (hw : Hw) (a : BitVec 10) (w : SavedWork) : Hw × SavedWork :=
  let mineM := fun (e : MonEntry) => e.remote.isNone && e.site.asid = a
  let mineW := fun (x : CntWait) => x.site.asid = a
  let mineX := fun (x : Xlat) => x.px && x.asid = a && x.pxTask.isNone
  let w : SavedWork :=
    { w with res := w.res ++ hw.cls.flatMap fun k => (k.2.res.filter fun e => e.asid = a).map fun e => (k.1, e)
             mons := w.mons ++ hw.cls.flatMap fun k => (k.2.mons.filter mineM).map fun e => (k.1, e)
             waits := w.waits ++ hw.cls.flatMap fun k => (k.2.waits.filter mineW).map fun e => (k.1, e)
             px := w.px ++ hw.cores.flatMap fun c => (c.2.tlb.filter mineX).map fun x => (c.1, x)
             rels := w.rels ++ (hw.cores.map fun c => (c.1, releaseOf a c.2)).filter fun q => !q.2.queue.isEmpty }
  let hw := { hw with
    cls := hw.cls.map fun k => (k.1, { k.2 with res := k.2.res.filter fun e => e.asid ≠ a, mons := k.2.mons.filter fun e => !mineM e
                                                waits := k.2.waits.filter fun x => !mineW x })
    cores := hw.cores.map fun c => (c.1, releaseSaved a { c.2 with tlb := c.2.tlb.filter fun x => !mineX x }) }
  (hw, w)

/-- Saves the work of an ASID (13 R369), after a hard or a soft pre-emption. -/
def saveVictim (m : Mem) (hw : Hw) (a : BitVec 10) (hard : Bool) : Mem × Hw × SavedWork :=
  let (hw, w) := saveAsid hw a {}
  let (m, hw) := hw.tasks.foldl (fun (x : Mem × Hw) t =>
    if t.asid = a && (t.state = .running || t.state = .parked) then saveTask x.1 x.2 t else x) (m, hw)
  let rs := (List.range 4).flatMap fun d => (dieRegions hw d).filter fun r => r.2.2.valid && r.2.2.asid = a
  rs.foldl (fun x r => saveRegion hard x r.1 r.2.1 r.2.2) (m, hw, w)

/-! ## Restoring (13 R370) -/

/-- Whether the places of a save's regions are free: the model restores each region where it stood (log 13). -/
def placesFree (hw : Hw) (w : SavedWork) : Bool :=
  w.regions.all fun r => !(rcAt hw r.1 r.2.1).valid && (regionCores (r.1 / 8) r.2.2).all fun c =>
    (List.range 8).all fun f => !r.2.2.frames.getLsbD f || (frameAt (coreAt hw c) f).state == .free

/-- A residency entry as a restore writes it (10 R271): still valid only where its location was restored. -/
def resBack (w : SavedWork) (k : Nat) (e : ResEntry) : ResEntry :=
  let core := k * 8 + e.loc / 2
  let kept := decide (e.loc < 16) && w.regions.any fun r => (regionCores (r.1 / 8) r.2.2).contains core
  if kept && e.state == .valid then e else { e with state := .stale, notice := false }

/-- A token as it is delivered again: a PADDR into a memory tile as DATA (13 R370, 07 R199). -/
def tokBack (t : Token) : Token := if t.kind = .paddr && t.aux.getLsbD 3 then { t with kind := .data, aux := 0 } else t

/-- An operand as it is delivered again. -/
def opBack (o : Operand) : Operand := { o with tok := tokBack o.tok }

/-- An element's saved operands, and the token that it refused, as they are delivered again. -/
def opsBack (x : Elem) : Elem :=
  { x with ops := x.ops.map opBack
           why := match x.why with
             | .offered fl => .offered { fl with tok := tokBack fl.tok }
             | y => y }

/-- A core's saved tokens as they are delivered again: in endpoint buffers, LSID-queue operands. -/
def coreToksBack (x : Core) : Core :=
  { x with eps := x.eps.map fun e => (e.1, { e.2 with buf := e.2.buf.map fun t => (tokBack t.1, t.2) })
           lsq := x.lsq.map fun y => { y with toks := y.toks.map opBack } }

/-- A region's saved tokens as they are delivered again: of its SWITCH requests and of the spaces that a TFREE waits on. -/
def regionToksBack (r : Region) : Region :=
  { r with swq := r.swq.map fun q => (q.1, tokBack q.2.1, q.2.2)
           spaces := r.spaces.map fun x => (x.1, { x.2 with tfree := x.2.tfree.map fun y => (y.1, tokBack y.2) }) }

/-- Installs PX entries in caches, with their holder bits (13 R370); none while the directory must wait for room. -/
def pxBack : List (Nat × Xlat) → Hw → Option Hw
  | [], hw => some hw
  | (c, x) :: r, hw =>
    (dirFill (modCore hw c fun y => { y with tlb := mapFirst (xlSame x) (fun _ => x) (tlbFill y.tlb x) }) (dieOf c) (c % 64) x).bind (pxBack r)

/-- Puts a monitor entry back and tests it anew (13 R370). -/
def monBack (m : Mem) (hw : Hw) (k : Nat) (e : MonEntry) : Hw :=
  if monHolds e.cond e.width (memRead m e.addr e.width) e.y then monEnd m hw e 0
  else modCl hw k fun c => { c with mons := c.mons ++ [e] }

/-- Restores the regions and the ASID's entries of a save (13 R370); its tasks are already at the dispatchers. -/
def restoreVictim (m : Mem) (hw : Hw) (w : SavedWork) : Mem × Hw :=
  let m := w.tiles.foldl (fun m b => putByte m b.1 b.2) m
  let m := w.poison.foldl poisonLine m
  let hw := w.regions.foldl (fun hw r => setRc hw r.1 r.2.1 (regionToksBack r.2.2)) hw
  let hw := w.cores.foldl (fun hw c => modCore hw c.1 fun x => coreJoin x (untranslated (coreToksBack c.2))) hw
  let hw := w.rels.foldl (fun hw q => modCore hw q.1 (releaseBack q.2)) hw
  let hw := w.elems.foldl (fun hw e => setElem hw e.1 (elemJoin (elemAt hw e.1) (opsBack e.2))) hw
  let hw := { hw with net := hw.net ++ w.toks.map fun x => { x with tok := tokBack x.tok, gen := genOfCl hw (clOf (contCore x.tok.cont)) } }
  let hw := w.res.foldl (fun hw e => (resMake hw e.1 (resBack w e.1 e.2)).1) hw
  let hw := (pxBack w.px hw).getD hw
  let hw := w.mons.foldl (fun hw e => monBack m hw e.1 e.2) hw
  let hw := w.cores.foldl (fun hw c => afterRange m hw (tileBase c.1 0) (2 ^ 20)) hw
  (m, w.waits.foldl (fun hw x => postWait hw x.1 x.2.idx x.2.site) hw)

/-! ## Who may write (10 R285, 13, 15 R382, R399) -/

/-- Whether a writer may write the package's registers: its owner, or firmware. -/
def mayPkg (hw : Hw) : Writer → Bool
  | .agent n => n = hw.pkg.owner && n ≠ 0
  | .function _ | .core _ => false
  | .firmware => true

/-- Whether a partition is that of a function: it is valid and its FUNC names the function (15 R381, Table 15.3). -/
def partOfFunction (hw : Hw) (n p : Nat) : Bool := (tget hw.pkg.parts {} p).valid && decide ((tget hw.pkg.parts {} p).func.toNat = n)

/-- Whether a writer may write a partition's registers. -/
def mayPart (hw : Hw) (p : Option Nat) : Writer → Bool
  | .function n => p.any (partOfFunction hw n)
  | .core q => q.isSome && p == q
  | b => mayPkg hw b

/-- A write that is ignored, and counted when it came through a virtual function (15 R382). -/
def ignored (hw : Hw) : Writer → Hw
  | .function _ => modPkg hw fun p => { p with stale := p.stale + 1 }
  | _ => hw

/-! ## Events -/

/-- The partition that a write of PART_PCTL concerns. -/
def pctlPart (hw : Hw) (v : Word) : Option Nat := partOfAsid hw (v.extractLsb' 0 10)

/-- A write of PART_PCTL with GO: ignored while busy, but that a hard pre-emption takes over a soft one
(13 R363, R364). -/
def preGo (hw : Hw) (by_ : Writer) (v : Word) : Hw :=
  let hard := v.getLsbD 61
  match pctlPart hw v with
  | none => ignored hw by_
  | some p =>
    let x := preAt hw p
    let a := v.extractLsb' 0 10
    if !mayPkg hw by_ then ignored hw by_
    else if x.phase = .idle && !isSaved hw a then
      setPre hw p { x with phase := if hard then .drain else .soft, hard := hard, asid := a, since := hw.now }
    else if hard && x.phase = .soft && x.asid = a then setPre hw p { x with phase := .drain, hard := true, since := hw.now }
    else hw

/-- SOFT_PREEMPTION: PART_PCTL with GO and HARD 0 (13 R364). -/
def execSoftPreemption (by_ : Writer) (v : Word) (s : State) : Res State :=
  if v.getLsbD 63 && !v.getLsbD 61 then .next { s with hw := preGo s.hw by_ v } else .fault .notEnabled
/-- HARD_PREEMPTION: PART_PCTL with GO and HARD 1 (13 R367). -/
def execHardPreemption (by_ : Writer) (v : Word) (s : State) : Res State :=
  if v.getLsbD 63 && v.getLsbD 61 then .next { s with hw := preGo s.hw by_ v } else .fault .notEnabled

/-- DRAIN_LIMIT: the drain ends, no exposed activation being left or its limit having passed; the rest is discarded
(13 R367 steps 2 to 5). -/
def execDrainLimit (part : Nat) (s : State) : Res State :=
  let x := preAt s.hw part
  let mine := fun (a : BitVec 10) => decide (a = x.asid)
  let left := (actsOfAsid s.hw mine).filter fun d => d.2.exposed
  if x.phase ≠ .drain || (!left.isEmpty && decide (s.hw.now < x.since + (dieAt s.hw 0).pdrain.toNat)) then .fault .notEnabled
  else
    let lost := (s.hw.cores.flatMap fun c => c.2.logLost.filter fun l => (frameAt c.2 l.1).asid = x.asid).length
    let k := ((partClusters (tget s.hw.pkg.parts {} part))[0]?).getD 0
    let hw := discardAsids s.hw mine fun _ _ => false
    let hw := if left.isEmpty then hw else report hw k 0 left.length
    .next { s with hw := setPre hw part { x with phase := .ready, xlost := left.length, llost := lost } }

/-- Whether a soft pre-emption has reached its end (13 R364 steps 3 and 4): every running task between activations,
every region quiet or starved at a fault. -/
def softDone (hw : Hw) (a : BitVec 10) : Bool :=
  (hw.tasks.all fun t => !(t.asid = a && t.state = .running) ||
    (!((coreAt hw t.core).acts.any fun y => y.ctx == some t.ctx) && (ctxAt (coreAt hw t.core) t.ctx).next.isSome)) &&
  (hw.tasks.all fun t => !(t.asid = a && t.state = .retiring)) &&
  ((List.range 4).all fun d => (dieRegions hw d).all fun r =>
    !(r.2.2.valid && r.2.2.asid = a) || regionQuiet hw r.1 r.2.2 || regionStarved hw r.1 r.2.2)

/-- Whether messages of channels of an ASID's regions are on their way. -/
def chanBusy (hw : Hw) (a : BitVec 10) : Bool :=
  hw.chan.any fun m => (frameAt (coreAt hw m.dst.1) (epAt hw m.dst.1 m.dst.2).frame).asid = a

/-- Whether operations of committed activations of an ASID are under way that are not saved (13 Table 13.11): accesses, committed
stores, counter operations, requests to services and their replies, halyard requests. -/
def underWay (hw : Hw) (a : BitVec 10) : Bool :=
  let mine := fun (s : Option Site) => s.any fun s => s.asid = a
  let asks := fun (m : SvcMsg) => m.reply && mine m.site
  (hw.acc.any fun x => x.site.asid = a) || (hw.cores.any fun c => !c.2.relHeld && c.2.releaseQ.any fun (b : Buffered) => b.site.asid = a) ||
    (hw.cntOps.any fun o => match o.body with
      | .init _ _ s => mine s
      | .dec _ _ s => mine s
      | .wait s => mine (some s)) ||
    (hw.replies.any fun y => y.site.asid = a) || hw.svc.any asks || (hw.dies.any fun d => d.2.scs.any fun c => c.2.inbox.any asks) ||
    hw.cls.any fun k => k.2.hal.any fun r => r.site.asid = a

/-- SAVE (13 R364 step 5, R367 step 6, R369). -/
def execSave (part : Nat) (s : State) : Res State :=
  let x := preAt s.hw part
  let go := x.phase = .ready || (x.phase = .soft && softDone s.hw x.asid)
  if !go || chanBusy s.hw x.asid || underWay s.hw x.asid then .fault .notEnabled
  else
    let (m, hw, w) := saveVictim s.mem s.hw x.asid x.hard
    .next { mem := m, hw := setPre hw part { x with phase := .idle, works := x.works ++ [(x.asid, w)] } }

/-- PREEMPT_RESUME: PART_PCTL with RESUME restores a saved ASID (13 R363, R370); it waits for the places of its
regions. -/
def preResume (m : Mem) (hw : Hw) (by_ : Writer) (v : Word) : Option (Mem × Hw) :=
  match pctlPart hw v with
  | none => some (m, ignored hw by_)
  | some p =>
    let x := preAt hw p
    let a := v.extractLsb' 0 10
    if !mayPkg hw by_ then some (m, ignored hw by_)
    else if x.phase ≠ .idle then some (m, hw)
    else match x.works.find? fun w => w.1 = a with
      | none => some (m, hw)
      | some w =>
        if !placesFree hw w.2 || (pxBack w.2.px hw).isNone then none
        else
          let hw := setPre hw p { x with works := x.works.filter fun y => y.1 ≠ a }
          some (restoreVictim m hw w.2)

/-- PREEMPT_RESUME (13 R370). -/
def execPreemptResume (by_ : Writer) (v : Word) (s : State) : Res State :=
  if !v.getLsbD 62 || v.getLsbD 63 then .fault .notEnabled
  else match preResume s.mem s.hw by_ v with
    | none => .fault .notEnabled
    | some (m, hw) => .next { mem := m, hw := hw }

end Sys2Proof.Machine
end

