-- ==== Sys2Proof/Machine/Links.lean ====
section
/-! DEFINITION. Fabric links (16 R408, R409), the record of the last contained error (15 Table 15.3), and the events
FLIT_RECEIVE, LINK_RETRAIN, LINK_DOWN, LINK_UP. -/
namespace Sys2Proof.Machine

/-- Sets ERR_LAST (15 Table 15.3, R398). -/
def errLast (hw : Hw) (cls code part wher : Nat) : Hw :=
  modPkg hw fun p => { p with last := BitVec.ofNat 64 (cls + code * 2 ^ 8 + part * 2 ^ 16 + wher * 2 ^ 20) }

/-! ## Ensign entries (16 Table 16.1) -/

/-- An entry with another STATE and SEL. -/
def ensSet (e state sel : Nat) : Nat := bits e 0 16 + sel * 2 ^ 16 + state * 2 ^ 30

/-- An entry after link `l` has gone down (16 R409; log 85). -/
def ensDown (hw : Hw) (l e : Nat) : Nat :=
  let st := bits e 30 2
  if ensLink e = l && (st = 1 || st = 3) then
    match [1, 2].find? fun s => ensPort e s != l && linkIsUp hw (ensPort e s) with
    | some s => ensSet e 3 s
    | none => ensSet e 2 (bits e 16 2)
  else e

/-- Sends the replay entries on their present paths that satisfy `q`; those without a path or room wait (16 R407, R409). -/
def resendThose (hw : Hw) (q : RplEntry → Bool) : Hw :=
  let go := fun (x : Hw × List RplEntry) (r : RplEntry) =>
    if !q r then (x.1, x.2 ++ [r])
    else if !fabPath x.1 r.die r.item.dst then (x.1, x.2 ++ [{ r with due := true }])
    else let y := entryOut x.1 r; (y.1, x.2 ++ [y.2])
  let (hw, l) := hw.pkg.replay.foldl go (hw, [])
  modPkg hw fun p => { p with replay := l }

/-- What the routers do when a link goes down (16 R409): entries swap or drain, and replay entries that last left on it
are resent. -/
def linkFails (hw : Hw) (l : Nat) : Hw :=
  let swap := fun (x : Nat × BitVec 32) => (x.1, BitVec.ofNat 32 (ensDown hw l x.2.toNat))
  let hw := [0, 1, 2, 3].foldl (fun h d => modDie h d fun y => { y with ens := y.ens.map swap }) hw
  resendThose hw fun r => r.link = l && r.kept.isNone

/-- A link goes down: containment of class 8 (15 Table 15.6) with its SERVICE token (16 R408). -/
def linkGoesDown (hw : Hw) (l : Nat) (state : BitVec 2) : Hw :=
  let hw := setLink hw l { linkAt hw l with state := state, lanes := 0, streak := 0, kept := [] }
  report (errLast (linkFails hw l) 8 cLINK 0 l) (l / 4 * 8) cLINK l

/-! ## Events -/

/-- What the far end says of the flits that a link keeps: those before a link sequence number are taken and leave the store; a refusal
replays from the oldest left, and counts (16 R408). -/
def farEnd (x : Link) (taken : Nat) (refused : Bool) : Link :=
  let kept := x.kept.filter fun f => decide (taken ≤ f.seq)
  let x := { x with kept := kept, streak := if kept.head? == x.kept.head? then x.streak else 0 }
  if refused && !kept.isEmpty then { x with replays := x.replays + 1, streak := x.streak + 1 } else x

/-- FLIT_RECEIVE: the items of a flit are taken, with what its control word says of the link's own flits, or the flit is refused for
its CRC, and its sender replays (16 R408; log 64). Items for other logical chips are forwarded, which this package does not keep. -/
def execFlitReceive (link : Nat) (crcOk : Bool) (items : FlitIn) (s : State) : Res State :=
  let x := linkAt s.hw link
  if 16 ≤ link || x.state ≠ 2 then .fault .notEnabled
  else if !crcOk then .next { s with hw := setLink s.hw link { x with crcerr := x.crcerr + 1 } }
  else
    let hw := setLink s.hw link (farEnd x items.taken items.refused)
    if s.hw.pkg.cut.state = 3 || !(dieAt hw 0).ensSelf.getLsbD 63 then .next { s with hw := hw }
    else
      let mine := items.items.filter fun i => i.dst = ownLC hw
      .next { s with hw := modPkg hw fun p => { p with recvBuf := p.recvBuf ++ mine } }

/-- LINK_RETRAIN: after 16 consecutive replays of a flit, or a forced RETRAIN (16 R408). -/
def execLinkRetrain (link : Nat) (ok : Bool) (s : State) : Res State :=
  let x := linkAt s.hw link
  if 16 ≤ link || !(x.state = 1 || (x.state = 2 && decide (16 ≤ x.streak))) then .fault .notEnabled
  else
    let hw := setLink s.hw link { x with state := 2, retrains := x.retrains + 1, streak := 0 }
    .next { s with hw := if ok then hw else linkGoesDown hw link 0 }

/-- LINK_DOWN: a link loses lock (16 R408, R409). -/
def execLinkDown (link : Nat) (s : State) : Res State :=
  let x := linkAt s.hw link
  if 16 ≤ link || x.state = 0 || x.state = 3 then .fault .notEnabled else .next { s with hw := linkGoesDown s.hw link 0 }

/-- LINK_UP: a link has trained; no ensign entry changes (16 R409). -/
def execLinkUp (link : Nat) (lanes : BitVec 8) (s : State) : Res State :=
  let x := linkAt s.hw link
  if 16 ≤ link || !x.en || x.state = 2 then .fault .notEnabled
  else .next { s with hw := setLink s.hw link { x with state := 2, lanes := lanes, streak := 0 } }

end Sys2Proof.Machine
end

