-- ==== Sys2Proof/Machine/Registers.lean ====
section
/-! DEFINITION. Register space (15 R380): which register an address names, its read and its write by access code (00 R5),
the starts that WO fields trigger, SYSRD and SYSWR (15 R403, R404), and the events of register writes. -/
namespace Sys2Proof.Machine

/-! ## The map (15 Table 15.3, 15.4; 10 Table 10.8; 11; 13; 16) -/

/-- The named registers: of the package, of ingress port p, of die d, of link l, of cluster k. -/
inductive Reg where
  | ownState | ownClaim | ownSucc | errCe | errUe | errStale | errLast | gown | gstat
  | partCfg (n : Nat) | partReset | partFdom (n : Nat) | partCut | partAsid (a : Nat)
  | ingCfg (p : Nat) | ingStatus (p : Nat) | ingHoist (p : Nat) | ingEwin (p k : Nat)
  | xlAsid (d n : Nat) | xlInv (d : Nat) | xlInvst (d : Nat) | xlStat (d : Nat)
  | pctl (d : Nat) | pdrain (d : Nat) | psave (d : Nat) | pstat (d : Nat)
  | ensEntry (d n : Nat) | ensSelf (d : Nat) | ensE2e (d : Nat) | ensRpl (d : Nat)
  | lnkStat (l : Nat) | lnkCtl (l : Nat) | lnkCnt (l : Nat)
  | asidw (k n : Nat) | tarea (k c : Nat) | rotor (k : Nat) | qocc (k : Nat) | starts (k : Nat)
  | keyStat (k : Nat) | resStat (k : Nat) | monStat (k : Nat) | halStat (k : Nat)
  | qstall (k i : Nat) (hi : Bool) | efault (k i : Nat) (hi : Bool) | cntVal (k n : Nat)
  deriving DecidableEq, Repr

/-- Index `n` of an array of `cnt` registers that start at `base` and stand `step` bytes apart. -/
def regIdx (o base step cnt : Nat) : Option Nat :=
  if base ≤ o ∧ (o - base) % step = 0 ∧ (o - base) / step < cnt then some ((o - base) / step) else none

/-- The first register that one of several arrays names. -/
def firstReg : List (Option Reg) → Option Reg
  | [] => none
  | some r :: _ => some r
  | none :: l => firstReg l

/-- A register of the package block. -/
def pkgReg (o : Nat) : Option Reg :=
  let one := fun (a : Nat) (r : Reg) => if o = a then some r else none
  firstReg [one 0x100 .ownState, one 0x108 .ownClaim, one 0x110 .ownSucc, one 0x200 .errCe, one 0x208 .errUe,
    one 0x210 .errStale, one 0x218 .errLast, one 0x300 .gown, one 0x308 .gstat, (regIdx o 0x400 16 16).map .partCfg,
    one 0x500 .partReset, (regIdx o 0x600 8 16).map .partFdom, one 0x700 .partCut, (regIdx o 0x2000 8 1024).map .partAsid,
    (regIdx o 0x4000 0x40 64).map .ingCfg, (regIdx o 0x4008 0x40 64).map .ingStatus, (regIdx o 0x4010 0x40 64).map .ingHoist,
    (regIdx o 0x4020 0x40 64).map fun p => .ingEwin p 0, (regIdx o 0x4028 0x40 64).map fun p => .ingEwin p 1,
    (regIdx o 0x4030 0x40 64).map fun p => .ingEwin p 2, (regIdx o 0x4038 0x40 64).map fun p => .ingEwin p 3]

/-- A register of die `d`'s block. -/
def dieReg (d o : Nat) : Option Reg :=
  let one := fun (a : Nat) (r : Reg) => if o = a then some r else none
  firstReg [(regIdx o 0 8 1024).map (.xlAsid d), one 0x2000 (.xlInv d), one 0x2008 (.xlInvst d), one 0x2010 (.xlStat d),
    one 0x3000 (.pctl d), one 0x3008 (.pdrain d), one 0x3010 (.psave d), one 0x3018 (.pstat d),
    (regIdx o 0x8000 8 1024).map (.ensEntry d), one 0xA000 (.ensSelf d), one 0xA008 (.ensE2e d), one 0xA010 (.ensRpl d),
    (regIdx o 0xB000 0x40 4).map fun l => .lnkStat (d * 4 + l), (regIdx o 0xB008 0x40 4).map fun l => .lnkCtl (d * 4 + l),
    (regIdx o 0xB010 0x40 4).map fun l => .lnkCnt (d * 4 + l)]

/-- A register of cluster `k`'s block. -/
def clReg (k o : Nat) : Option Reg :=
  let one := fun (a : Nat) (r : Reg) => if o = a then some r else none
  firstReg [(regIdx o 0x4000 8 1024).map (.asidw k), (regIdx o 0x400 8 8).map (.tarea k), one 0x440 (.rotor k), one 0x448 (.qocc k),
    one 0x450 (.starts k), one 0x800 (.keyStat k), one 0xC00 (.resStat k), one 0x1000 (.monStat k),
    (regIdx o 0x1100 16 12).map fun i => .qstall k i false, (regIdx o 0x1108 16 12).map fun i => .qstall k i true,
    (regIdx o 0x1200 16 12).map fun i => .efault k i false, (regIdx o 0x1208 16 12).map fun i => .efault k i true,
    one 0x1300 (.halStat k), (regIdx o 0x2000 8 1024).map (.cntVal k)]

/-- The register that a local address names, if it names one (15 R380). -/
def regAt (l : Nat) : Option Reg :=
  if l < 0x3E0000000000 then none
  else
    let o := l - 0x3E0000000000
    if o < 0x10000 then pkgReg o
    else if 0x1000000 ≤ o ∧ o < 0x1000000 + 4 * 0x40000 then
      (if (o - 0x1000000) % 0x40000 < 0x10000 then dieReg ((o - 0x1000000) / 0x40000) ((o - 0x1000000) % 0x40000) else none)
    else if 0x2000000 ≤ o ∧ o < 0x2000000 + 32 * 0x10000 then clReg ((o - 0x2000000) / 0x10000) ((o - 0x2000000) % 0x10000)
    else none

/-! ## Reads -/

/-- Port `p`. -/
def portAt (hw : Hw) (p : Nat) : Port := tget hw.pkg.ports {} p
/-- Writes port `p`. -/
def setPort (hw : Hw) (p : Nat) (x : Port) : Hw := modPkg hw fun g => { g with ports := tput g.ports {} p x }

/-- Whether a port holds writes at its aperture: for a HOIST or INSTALL, or for a full dispatcher (15 R384). -/
def portHolds (hw : Hw) (x : Port) : Bool :=
  let full := match (partClusters (tget hw.pkg.parts {} x.part.toNat))[0]? with
    | some k => decide (4096 ≤ heldRecords hw k)
    | none => false
  x.hold == .hoist || x.hold == .install || full

/-- A saturating count for a field of `w` bits. -/
def field (w n : Nat) : Nat := min n (2 ^ w - 1)

/-- PART_PSTAT (13 Table 13.10) of the partition last named at a die. -/
def pstatWord (hw : Hw) (d : Nat) : Nat :=
  let x := preAt hw (dieAt hw d).pstat
  b2n (x.phase != .idle) + b2n (isSaved hw x.asid) * 2 + field 16 x.xlost * 2 ^ 16 + field 16 x.llost * 2 ^ 32

/-- KEY_STAT (10 Table 10.8). -/
def keyStatWord (c : Cluster) : Nat :=
  2048 - c.keys.length + field 12 c.keyWait.length * 2 ^ 16 +
    field 12 ((c.keys.map fun e => (e.queue.filter (·.resv)).length).sum + (c.keyWait.filter (·.resv)).length) * 2 ^ 32

/-- CNT_VAL (11 Table 11.3). -/
def cntValWord (hw : Hw) (k n : Nat) : Nat :=
  let x := cntAt hw k n
  x.v.toNat + b2n x.fault * 2 ^ 32 + b2n x.uflow * 2 ^ 33 +
    ((clAt hw k).waits.filter fun w => w.idx = n && !w.returned).length * 2 ^ 38

/-- The value of a register. -/
def regValue (hw : Hw) (r : Reg) : Word :=
  let p := hw.pkg
  match r with
  | .ownState => BitVec.ofNat 64 (p.owner.toNat + p.epoch.toNat * 2 ^ 32)
  | .errCe => p.ce
  | .errUe => p.ue
  | .errStale => p.stale
  | .errLast => p.last
  | .gstat => BitVec.ofNat 64 (b2n p.assigning.isSome)
  | .partCfg n =>
    let x := tget p.parts {} n
    BitVec.ofNat 64 (b2n x.valid * 2 ^ 63 + x.func.toNat * 2 ^ 40 + x.gen.toNat * 2 ^ 32 + x.clusters.toNat)
  | .partFdom n => BitVec.ofNat 64 (tget p.parts {} n).fdom.toNat
  | .partCut => BitVec.ofNat 64 (p.cut.state.toNat + b2n p.cut.abandoned * 4 + p.cut.num.toNat * 2 ^ 32)
  | .partAsid a => match tfind p.asids a with
    | some q => BitVec.ofNat 64 (2 ^ 63 + q.toNat)
    | none => BitVec.ofNat 64 (tget p.asidOff 0 a).toNat
  | .ingCfg n => let x := portAt hw n; BitVec.ofNat 64 (b2n x.en * 2 ^ 63 + x.part.toNat)
  | .ingStatus n =>
    let x := portAt hw n
    BitVec.ofNat 64 (b2n x.err + b2n (portHolds hw x) * 2 + x.next.toNat * 2 ^ 16 + x.seq.toNat * 2 ^ 32)
  | .ingHoist n => BitVec.ofNat 64 (portAt hw n).hoist.toNat
  | .ingEwin n k =>
    let e := tget (portAt hw n).ewin {} k
    BitVec.ofNat 64 (e.offset.toNat + e.code.toNat * 2 ^ 16 + e.cause.toNat * 2 ^ 24 + e.seq.toNat * 2 ^ 32)
  | .xlAsid d n => tget (dieAt hw d).xlAsid 0 n
  | .xlInvst d => BitVec.ofNat 64 (b2n (dieAt hw d).shoot.isSome + (dieAt hw d).shootDone.toNat * 2 ^ 32)
  | .xlStat d => BitVec.ofNat 64 ((dieAt hw d).walks.toNat + (dieAt hw d).dhits.toNat * 2 ^ 32)
  | .pdrain d => BitVec.ofNat 64 (dieAt hw d).pdrain.toNat
  | .psave d => (dieAt hw d).psave
  | .pstat d => BitVec.ofNat 64 (pstatWord hw d)
  | .ensEntry d n => BitVec.ofNat 64 ((tget (dieAt hw d).ens 0 n).toNat + b2n (decide (n = bits (dieAt hw d).ensSelf.toNat 0 10)) * 2 ^ 29)
  | .ensSelf d => (dieAt hw d).ensSelf
  | .ensE2e d => BitVec.ofNat 64 ((dieAt hw d).e2eTmo.toNat + (dieAt hw d).e2eLim.toNat * 2 ^ 32)
  | .ensRpl d =>
    let occ := fun (c : Nat) => (p.replay.filter fun e => e.die = d && e.item.cls = c).length
    BitVec.ofNat 64 (occ 0 + occ 1 * 2 ^ 16 + occ 2 * 2 ^ 32)
  | .lnkStat l => let x := linkAt hw l; BitVec.ofNat 64 (x.state.toNat + x.lanes.toNat * 16 + x.crcerr.toNat * 2 ^ 32)
  | .lnkCtl l => BitVec.ofNat 64 (b2n (linkAt hw l).en)
  | .lnkCnt l => let x := linkAt hw l; BitVec.ofNat 64 (x.replays.toNat + x.retrains.toNat * 2 ^ 32)
  | .asidw k n => BitVec.ofNat 64 (tget (clAt hw k).asidw 1 n).toNat
  | .tarea k c => BitVec.ofNat 64 (min 32 (tget (clAt hw k).tarea 0 c).toNat)
  | .rotor k => BitVec.ofNat 64 (clAt hw k).rotor.toNat
  | .qocc k => BitVec.ofNat 64 (heldRecords hw k + (hw.tasks.filter fun t => t.cl = k && !t.transit && t.state == .ready).length * 2 ^ 16)
  | .starts k => (clAt hw k).starts
  | .keyStat k => BitVec.ofNat 64 (keyStatWord (clAt hw k))
  | .resStat k =>
    let c := clAt hw k
    BitVec.ofNat 64 ((c.res.filter (·.state == .valid)).length + (c.res.filter (·.state == .stale)).length * 2 ^ 16 + c.resLost.toNat * 2 ^ 32)
  | .monStat k => BitVec.ofNat 64 ((clAt hw k).mons.length + (clAt hw k).monOver.toNat * 2 ^ 32)
  | .halStat k =>
    let c := clAt hw k
    BitVec.ofNat 64 (c.hal.length + c.halFails.toNat * 2 ^ 32 + c.halDone.toNat * 2 ^ 48)
  | .qstall k i hi =>
    let q := tget (clAt hw k).qstall {} i
    BitVec.ofNat 64 (if hi then qstallHigh q else qstallLow q)
  | .efault k i hi =>
    let f := (tget (clAt hw k).copies {} i).reg
    if hi then faultHigh f else f.detail
  | .cntVal k n => BitVec.ofNat 64 (cntValWord hw k n)
  | .ownClaim | .ownSucc | .gown | .partReset | .xlInv _ | .pctl _ => 0

/-- Acknowledges the report in a controller's copy (03 R102). -/
def ackCopy (hw : Hw) (k i : Nat) : Hw :=
  let x := tget (clAt hw k).copies {} i
  modCl hw k fun c => { c with copies := tput c.copies {} i { x with held := false } }

/-- What a read does beside returning the value: RC fields clear (00 R5), a fault copy is acknowledged (03 R102). -/
def regReadEffect (hw : Hw) (r : Reg) : Hw :=
  match r with
  | .errCe => modPkg hw fun p => { p with ce := 0 }
  | .errUe => modPkg hw fun p => { p with ue := 0 }
  | .errStale => modPkg hw fun p => { p with stale := 0 }
  | .xlInvst d => modDie hw d fun x => { x with shootDone := 0 }
  | .xlStat d => modDie hw d fun x => { x with walks := 0, dhits := 0 }
  | .lnkStat l => setLink hw l { linkAt hw l with crcerr := 0 }
  | .lnkCnt l => setLink hw l { linkAt hw l with replays := 0, retrains := 0 }
  | .starts k => modCl hw k fun c => { c with starts := 0 }
  | .resStat k => modCl hw k fun c => { c with resLost := 0 }
  | .monStat k => modCl hw k fun c => { c with monOver := 0 }
  | .halStat k => modCl hw k fun c => { c with halFails := 0, halDone := 0 }
  | .efault k i true => ackCopy hw k i
  | _ => hw

/-- A read of register space: an address that names no register returns 0 (15 R380). -/
def regRead (hw : Hw) (l : Nat) : Word × Hw :=
  match regAt l with
  | some r => (regValue hw r, regReadEffect hw r)
  | none => (0, hw)

/-! ## Starts that writes trigger -/

/-- Whether a translation is one that a shoot-down removes: of its ASID, and overlapping its page unless it is for all
(13 R344). -/
def shootHits (x : Shoot) (y : Xlat) : Bool :=
  y.asid = x.asid && (x.all || decide (y.va < x.va + x.size ∧ x.va < y.va + pageBytes y.size))

/-- Frees the residency entries whose source range a shoot-down overlaps (10 R271). -/
def shootRes (hw : Hw) (x : Shoot) : Hw :=
  let hit := fun (e : ResEntry) =>
    let r := sourceRange hw e.asid e.tref.toNat
    e.asid = x.asid && (x.all || decide (r.1 < x.va + x.size ∧ x.va < r.1 + r.2))
  hw.cls.foldl (fun hw k => if k.2.res.any hit then setRes hw k.1 (k.2.res.filter fun e => !hit e) else hw) hw

/-- The shoot-down that a write of XL_INV describes (13 Table 13.1). -/
def shootOf (v : Word) : Shoot :=
  let n := v.toNat
  let size := pageBytes (bits n 60 2)
  { asid := v.extractLsb' 48 10, all := v.getLsbD 62, va := bits n 12 36 * 4096 / size * size, size := size }

/-- What a save keeps without the PX entries that a shoot-down removes: a restore must not install them again (13 R337, R370). -/
def shootSaved (x : Shoot) (w : SavedWork) : SavedWork := { w with px := w.px.filter fun y => !shootHits x y.2 }

/-- Drops what a shoot-down removes from saved work: of pre-empted ASIDs, of those saved for a cut, of saved tasks. -/
def shootSaves (hw : Hw) (x : Shoot) : Hw :=
  let works := fun (l : List (BitVec 10 × SavedWork)) => l.map fun w => (w.1, shootSaved x w.2)
  let hw := modPkg hw fun p =>
    { p with pre := p.pre.map fun y => (y.1, { y.2 with works := works y.2.works }), cut := { p.cut with works := works p.cut.works } }
  { hw with tasks := hw.tasks.map fun t => { t with px := t.px.filter fun y => !shootHits x y } }

/-- Starts a shoot-down on die `d`: every directory drops what it removes and sends an invalidation to each holder
(13 R344). -/
def shootStart (hw : Hw) (d : Nat) (x : Shoot) : Hw :=
  let hw := modDie (shootSaves (shootRes hw x) x) d fun y => { y with shoot := some x }
  [0, 1, 2, 3].foldl (fun hw e =>
    let hits := (dieAt hw e).dir.filter fun t => shootHits x t.x
    let hw := modDie hw e fun y => { y with dir := y.dir.filter fun t => !shootHits x t.x }
    { hw with invs := hw.invs ++ hits.flatMap fun t => t.holders.map fun h => { die := e, holder := h, x := t.x, home := d } }) hw

/-- Completes a shoot-down of a die that waits for no invalidation of a translation it removes, whoever sent it, and starts
the next (13 R344): `n` rounds. -/
def shootSettle (d : Nat) : Nat → Hw → Hw
  | 0, hw => hw
  | n + 1, hw =>
    match (dieAt hw d).shoot with
    | none => hw
    | some x =>
      if hw.invs.any fun m => m.home = d || shootHits x m.x then hw
      else
        let hw := modDie hw d fun y => { y with shoot := none, shootDone := y.shootDone + 1 }
        match (dieAt hw d).shootQ with
        | [] => hw
        | v :: r => shootSettle d n (shootStart (modDie hw d fun y => { y with shootQ := r }) d (shootOf v))

/-- A shoot-down started on a die, or queued there: the firmware of a cut starts one for each ASID (16 R418). -/
def shootWrite (hw : Hw) (d : Nat) (v : Word) : Hw :=
  if (dieAt hw d).shoot.isSome then modDie hw d fun y => { y with shootQ := y.shootQ ++ [v] }
  else
    let hw := shootStart hw d (shootOf v)
    shootSettle d ((dieAt hw d).shootQ.length + 1) hw

/-- A write of PART_CFG: ignored if it shares a cluster with a valid partition (15 R393); clusters that pass to the
partition are zeroed (15 R395). -/
def partCfgWrite (m : Mem) (hw : Hw) (n : Nat) (v : Word) : Mem × Hw :=
  let old := tget hw.pkg.parts {} n
  let new : Part := { old with valid := v.getLsbD 63, func := v.extractLsb' 40 5, clusters := v.extractLsb' 0 32 }
  let clash := hw.pkg.parts.any fun x => x.1 != n && x.2.valid && (x.2.clusters &&& new.clusters) != 0
  if new.valid && clash then (m, hw)
  else
    let gained := if new.valid then
        (List.range 32).filter fun k => new.clusters.getLsbD k && !(old.valid && old.clusters.getLsbD k)
      else []
    let (m, hw) := gained.foldl (fun (x : Mem × Hw) k => passCluster x.1 x.2 k) (m, hw)
    (m, modPkg hw fun p => { p with parts := tput p.parts {} n new })

/-- A write of PART_ASID. As it makes the ASID live, system software sets its PASID, to a free value (15 R381; log 83). -/
def partAsidWrite (hw : Hw) (a : Nat) (v : Word) : Hw :=
  let q : BitVec 4 := v.extractLsb' 0 4
  let (n, hw) := nextFree hw
  modPkg hw fun p =>
    if v.getLsbD 63 then { p with asids := tins p.asids a q, asidOff := tput p.asidOff 0 a 0, pasids := tput p.pasids 0 a (Config.pasid n) }
    else { p with asids := tdel p.asids a, asidOff := tput p.asidOff 0 a q }

/-- A write of ING_CFG: EN from 0 to 1 restarts the stream's numbers (15 Table 15.4). -/
def ingCfgWrite (hw : Hw) (n : Nat) (v : Word) : Hw :=
  let x := portAt hw n
  let y := { x with en := v.getLsbD 63, part := v.extractLsb' 0 4 }
  setPort hw n (if v.getLsbD 63 && !x.en then { y with next := 0, seq := 0, hoist := 0, ewin := [], nrec := 0, words := [] } else y)

/-- A write of 1 to ING_STATUS.ERR (15 R385). -/
def ingErrClear (hw : Hw) (n : Nat) : Hw := setPort hw n { portAt hw n with err := false, words := [] }

/-- A write of OWN_CLAIM by an agent (15 R399). -/
def ownClaim (hw : Hw) (n v : BitVec 2) : Hw :=
  if hw.pkg.owner = 0 && n ≠ 0 && v = n then modPkg hw fun p => { p with owner := n, epoch := p.epoch + 1 } else hw
/-- A write of OWN_SUCC by an agent (15 R399). -/
def ownSucc (hw : Hw) (n v : BitVec 2) : Hw :=
  if n ≠ 0 && hw.pkg.owner = n && v ≠ n then modPkg hw fun p => { p with owner := v, epoch := p.epoch + 1 } else hw

/-- A write of LNK_CTL (16 Table 16.2). -/
def lnkCtlWrite (hw : Hw) (l : Nat) (v : Word) : Hw :=
  let x := linkAt hw l
  let en := v.getLsbD 0
  let hw := if !en && x.en then linkGoesDown (setLink hw l { x with en := false }) l 3
    else if en && !x.en then setLink hw l { x with en := true, state := 1 }
    else hw
  if v.getLsbD 1 && en then setLink hw l { linkAt hw l with state := 1 } else hw

/-- The fabric's state as ENS_SELF is set: the streams restart at 0 (16 R410), nothing of the old number is left to be sent, nor a
monitor that would reply under it. -/
def fabRestart (hw : Hw) : Hw :=
  let hw := modPkg hw fun p => { p with nums := [], replay := [], fabWait := [], recvBuf := [], acked := [] }
  { hw with cls := hw.cls.map fun k => (k.1, { k.2 with mons := k.2.mons.filter fun e => e.remote.isNone }) }

/-- A write of ENS_SELF: only while no ingress port is enabled (16 R405). -/
def ensSelfWrite (hw : Hw) (d : Nat) (v : Word) : Hw :=
  if hw.pkg.ports.any fun x => x.2.en then hw
  else
    let hw := modDie hw d fun y => { y with ensSelf := BitVec.ofNat 64 (b2n (v.getLsbD 63) * 2 ^ 63 + bits v.toNat 0 10) }
    if d = 0 then fabRestart hw else hw

/-- A write of CNT_VAL: an initialisation that keeps the flags, but for the W1C bits written 1 (11 R311). -/
def cntValWrite (hw : Hw) (k n : Nat) (v : Word) : Hw :=
  let x := cntAt hw k n
  settleCnt (setCnt hw k n { v := v.extractLsb' 0 32, fault := x.fault && !v.getLsbD 32, uflow := x.uflow && !v.getLsbD 33 }) k n

/-- A write of an ensign entry (16 Table 16.1): SEL 3 writes as 0. -/
def ensEntryWrite (hw : Hw) (d n : Nat) (v : Word) : Hw :=
  let e := v.toNat
  let sel := if bits e 16 2 = 3 then 0 else bits e 16 2
  let w := bits e 4 12 * 16 + sel * 2 ^ 16 + bits e 30 2 * 2 ^ 30
  modDie hw d fun y => { y with ens := tput y.ens 0 n (BitVec.ofNat 32 w) }

/-! ## Writes -/

/-- Whether a writer may write a register (10 R285, 11 R311, 13, 15 R382, R399). -/
def mayWrite (hw : Hw) (by_ : Writer) (r : Reg) : Bool :=
  match r with
  | .ownClaim | .ownSucc => match by_ with
    | .function _ | .core _ => false
    | _ => true
  | .ingCfg p | .ingStatus p | .ingHoist p | .ingEwin p _ => mayPart hw (some (portAt hw p).part.toNat) by_
  | .asidw k _ | .tarea k _ | .rotor k | .qocc k | .starts k | .keyStat k | .resStat k | .monStat k | .halStat k
  | .qstall k _ _ | .efault k _ _ | .cntVal k _ => mayPart hw (partOfCl hw k) by_
  | _ => mayPkg hw by_

/-- The effect of a permitted write (00 R5); none while it must wait. -/
def regSet (by_ : Writer) (m : Mem) (hw : Hw) (r : Reg) (v : Word) : Option (Mem × Hw) :=
  let n := v.toNat
  match r with
  | .ownClaim => some (m, match by_ with
    | .agent a => ownClaim hw a (v.extractLsb' 0 2)
    | _ => hw)
  | .ownSucc => some (m, match by_ with
    | .agent a => ownSucc hw a (v.extractLsb' 0 2)
    | _ => hw)
  | .gown =>
    if !v.getLsbD 63 || bits n 61 2 = 3 then some (m, hw)
    else if hw.pkg.assigning.isSome then none
    else some (m, modPkg hw fun p => { p with assigning := some (bits n 0 18, v.extractLsb' 61 2, v.extractLsb' 51 10) })
  | .partCfg k => some (partCfgWrite m hw k v)
  | .partReset => some (if v.getLsbD 63 then partReset m hw (bits n 0 4) else (m, hw))
  | .partFdom k => some (m, modPkg hw fun p => { p with parts := tput p.parts {} k { tget p.parts {} k with fdom := v.extractLsb' 0 16 } })
  | .partCut => some (m, if v.getLsbD 2 then modPkg hw fun p => { p with cut := { p.cut with abandoned := false } } else hw)
  | .partAsid a => some (m, partAsidWrite hw a v)
  | .ingCfg p => some (m, ingCfgWrite hw p v)
  | .ingStatus p => some (m, if v.getLsbD 0 then ingErrClear hw p else hw)
  | .xlAsid d k => some (m, modDie hw d fun y =>
      { y with xlAsid := tput y.xlAsid 0 k (BitVec.ofNat 64 (bits n 62 2 * 2 ^ 62 + bits n 12 44 * 2 ^ 12)) })
  | .xlInv d => if !v.getLsbD 63 then some (m, hw) else if (dieAt hw d).shoot.isSome then none else some (m, shootWrite hw d v)
  | .pctl d =>
    let hw := match pctlPart hw v with
      | some p => modDie hw d fun y => { y with pstat := p }
      | none => hw
    if v.getLsbD 63 then some (m, preGo hw by_ v) else if v.getLsbD 62 then preResume m hw by_ v else some (m, hw)
  | .pdrain d => some (m, modDie hw d fun y => { y with pdrain := v.extractLsb' 0 24 })
  | .psave d => some (m, modDie hw d fun y => { y with psave := BitVec.ofNat 64 (bits n 12 44 * 2 ^ 12) })
  | .ensEntry d k => some (m, ensEntryWrite hw d k v)
  | .ensSelf d => some (m, ensSelfWrite hw d v)
  | .ensE2e d => some (m, modDie hw d fun y => { y with e2eTmo := v.extractLsb' 0 24, e2eLim := v.extractLsb' 32 4 })
  | .lnkCtl l => some (m, lnkCtlWrite hw l v)
  | .asidw k a => some (m, modCl hw k fun c => { c with asidw := tput c.asidw 1 a (v.extractLsb' 0 4) })
  | .tarea k c => some (m, modCl hw k fun y => { y with tarea := tput y.tarea 0 c (v.extractLsb' 0 6) })
  | .qstall k i true => some (m, if v.getLsbD 63 then
      modCl hw k fun c => { c with qstall := tput c.qstall {} i { tget c.qstall {} i with valid := false }, qsince := tput c.qsince 0 i hw.now }
    else hw)
  | .cntVal k c => some (m, cntValWrite hw k c v)
  | _ => some (m, hw)

/-- A write to register space: to no register, or by a writer who may not, it is ignored; one through a virtual function that is
ignored is counted (15 R380, R382). -/
def regWrite (by_ : Writer) (m : Mem) (hw : Hw) (l : Nat) (v : Word) : Option (Mem × Hw) :=
  match regAt l with
  | none => some (m, ignored hw by_)
  | some r => if mayWrite hw by_ r then regSet by_ m hw r v else some (m, ignored hw by_)

/-- The owner whose writes a store of an ASID makes: its partition, if one has it (11 R311, 15 Table 15.3). -/
def storeOwner (hw : Hw) (asid : BitVec 10) : Writer := .core (partOfAsid hw asid)

/-- A store of a core to register space: only to a register that its partition owns (11 R311; log 77). -/
def regStore (asid : BitVec 10) (m : Mem) (hw : Hw) (l : Nat) (v : Word) : Option (Mem × Hw) :=
  match regAt l with
  | none => some (m, hw)
  | some r => if mayWrite hw (storeOwner hw asid) r then regSet (storeOwner hw asid) m hw r v else some (m, hw)

/-- Whether a register answers a reader: through a virtual function, those of its partition's clusters and ports (15 R382). -/
def mayRead (hw : Hw) (by_ : Writer) (r : Reg) : Bool :=
  match by_ with
  | .function _ | .core _ => mayWrite hw by_ r
  | _ => true

/-! ## SYSRD and SYSWR (15 R403, R404) -/

/-- The register address of SYSRD or SYSWR, local, with its checks (15 R404). -/
def sysAddr (hw : Hw) (a off : Word) : Except Stop Nat :=
  let ad := (a + off).toNat
  if bits ad 56 8 ≠ 0 || paLC ad ≠ ownLC hw || !inRegs (paLocal ad) then .error (outOfRange 0 (a + off))
  else if ad % 8 ≠ 0 then .error (.fault cMISALIGNED (memDetail ad 0 false 0))
  else if (regAt (paLocal ad)).isNone then .error (outOfRange 0 (a + off))
  else .ok (paLocal ad)

/-- SYSRD (15 R404). -/
def execSysrd (w : Fields) (s : State) : Res State :=
  fire specSysrd
    { pre := firmwareOnly
      body := fun f m hw =>
        if tokPsn f.a || tokPsn f.b then passPoison f m hw
        else do
          let l ← sysAddr hw f.a.value f.b.value
          let r := regRead hw l
          let hw ← emit0 f r.2 [tokOf f .data r.1]
          emit1 f hw [tokOf f .order] } w s

/-- What SYSWR does before its write: its checks, and the ORDER that follows the write (15 R404). -/
def syswrMeaning : Meaning :=
  { pre := firmwareOnly
    body := fun f m hw =>
      if tokPsn f.a || tokPsn f.b || tokPsn f.c then passPoison f m hw
      else do
        let _ ← sysAddr hw f.a.value f.c.value
        outOrder f hw }

/-- The register and value that a SYSWR firing writes, if it writes. -/
def syswrTarget (f : Fire) (hw : Hw) : Option (Nat × Word) :=
  if predOf f.w.pr f.p = .fires && (f.data.all fun t => t.kind == .data && !t.psn) then
    match sysAddr hw f.a.value f.c.value with
    | .ok l => some (l, f.b.value)
    | .error _ => none
  else none

/-- SYSWR: the write and its ORDER are one step; it waits while the register's action cannot start (15 R404). -/
def execSyswr (w : Fields) (s : State) : Res State :=
  match focusFire specSyswr w s.hw with
  | none => .fault .notEnabled
  | some f =>
    match effect specSyswr syswrMeaning f s.mem s.hw, (if dropped s.hw f then none else syswrTarget f s.hw) with
    | .ok hw, some (l, v) =>
      match regWrite .firmware s.mem (consume f hw) l v with
      | some (m, hw) => .next { mem := m, hw := { hw with focus := none, waited := false } }
      | none => finish f s (.error (.wait s.hw))
    | r, _ => finish f s r

/-! ## Events of register writes -/

/-- A write of a given register from outside. -/
def writeEvent (by_ : Writer) (r : Reg) (v : Word) (s : State) : Res State :=
  if !mayWrite s.hw by_ r then .next { s with hw := ignored s.hw by_ }
  else match regSet by_ s.mem s.hw r v with
    | some (m, hw) => .next { mem := m, hw := hw }
    | none => .fault .notEnabled

/-- CNT_VAL_WRITE (11 R311). -/
def execCntValWrite (by_ : Writer) (cl idx : Nat) (v : Word) (s : State) : Res State :=
  if 32 ≤ cl || 1024 ≤ idx then .fault .notEnabled else writeEvent by_ (.cntVal cl idx) v s
/-- SHOOT_DOWN: XL_INV with GO for one page (13 R344). -/
def execShootDown (by_ : Writer) (die : Nat) (v : Word) (s : State) : Res State :=
  if 4 ≤ die || !v.getLsbD 63 || v.getLsbD 62 then .fault .notEnabled else writeEvent by_ (.xlInv die) v s
/-- SHOOT_DOWN_ALL: XL_INV with GO and ALL (13 R344). -/
def execShootDownAll (by_ : Writer) (die : Nat) (v : Word) (s : State) : Res State :=
  if 4 ≤ die || !v.getLsbD 63 || !v.getLsbD 62 then .fault .notEnabled else writeEvent by_ (.xlInv die) v s
/-- ING_CFG_WRITE (15 Table 15.4). -/
def execIngCfgWrite (by_ : Writer) (port : Nat) (v : Word) (s : State) : Res State :=
  if 64 ≤ port then .fault .notEnabled else writeEvent by_ (.ingCfg port) v s
/-- ING_ERR_CLEAR: a write of ING_STATUS with ERR = 1 (15 R385). -/
def execIngErrClear (by_ : Writer) (port : Nat) (v : Word) (s : State) : Res State :=
  if 64 ≤ port || !v.getLsbD 0 then .fault .notEnabled else writeEvent by_ (.ingStatus port) v s
/-- GRANULE_ASSIGN: a write of PART_GOWN, which waits while BUSY = 1 (15 R394). -/
def execGranuleAssign (by_ : Writer) (v : Word) (s : State) : Res State := writeEvent by_ .gown v s
/-- GRANULE_ZEROED: the granule is zero and its new owner takes it (15 R394). -/
def execGranuleZeroed (s : State) : Res State :=
  match s.hw.pkg.assigning with
  | none => .fault .notEnabled
  | some (g, kind, own) =>
    let (m, hw) := homeZero s.mem s.hw (g * 2 ^ 21) (2 ^ 21)
    .next { mem := m, hw := modPkg hw fun p => { p with assigning := none, granules := tput p.granules (0, 0) g (kind, own) } }
/-- PART_CFG_WRITE (15 R393). -/
def execPartCfgWrite (by_ : Writer) (n : Nat) (v : Word) (s : State) : Res State :=
  if 16 ≤ n then .fault .notEnabled else writeEvent by_ (.partCfg n) v s
/-- PART_RESET (15 R397). -/
def execPartReset (by_ : Writer) (v : Word) (s : State) : Res State :=
  if !v.getLsbD 63 then .fault .notEnabled else writeEvent by_ .partReset v s
/-- Whether a claim of a lower agent number arrives beside one: that one is decided first (15 R399). -/
def lowerClaim (hw : Hw) (agent : BitVec 2) : Bool :=
  hw.inputs.any fun i => match i with
    | .ownClaim n => decide (n < agent ∧ n ≠ 0)
    | _ => false

/-- OWN_CLAIM: an agent writes its number (15 R399). -/
def execOwnClaim (agent : BitVec 2) (s : State) : Res State :=
  if lowerClaim s.hw agent then .fault .notEnabled else writeEvent (.agent agent) .ownClaim (agent.setWidth 64) s
/-- OWN_SUCC (15 R399). -/
def execOwnSucc (agent next : BitVec 2) (s : State) : Res State :=
  writeEvent (.agent agent) .ownSucc (next.setWidth 64) s
/-- Whether a local address is memory that a service core can reach: HBM or a memory tile (07 R196, 13 R356). -/
def inMemory (l : Nat) : Bool := inHbm l || (inAperture l && decide (l < tileBase 256 0))

/-- REGISTER_WRITE: any other write, at a local address (15 R380, 00 R5). A service core's store goes to memory too, at its
physical address, and performs at its home (13 R356; log 77). -/
def execRegisterWrite (by_ : Writer) (addr : Nat) (v : Word) (s : State) : Res State :=
  if addr % 8 ≠ 0 then .fault .notEnabled
  else if by_ = .firmware ∧ inMemory addr then
    if zeroing s.hw addr || bankBusy s.hw rankOutside addr 8 then .fault .notEnabled
    else
    let (m, hw) := homeWrite s.mem (physWrite (bankTake s.hw addr 8) addr) addr 8 v.toNat false
    .next { mem := m, hw := hw }
  else if !inRegs addr then .fault .notEnabled
  else match regWrite by_ s.mem s.hw addr v with
    | some (m, hw) => .next { mem := m, hw := hw }
    | none => .fault .notEnabled
/-- A read by someone outside: the value, and what the read does; one that no register answers returns 0 and does nothing
(15 R380, R382). -/
def readFor (hw : Hw) (by_ : Writer) (l : Nat) : Word × Hw :=
  match regAt l with
  | some r => if mayRead hw by_ r then (regValue hw r, regReadEffect hw r) else (0, hw)
  | none => (0, hw)

/-- REGISTER_READ_CLEAR: a read from outside, which answers with the value and has its effects (00 R5, 15 R382). -/
def execRegisterReadClear (x : RegRead) (s : State) : Res State :=
  if !inRegs x.addr || x.addr % 8 ≠ 0 then .fault .notEnabled
  else
    let r := readFor s.hw x.by_ x.addr
    .next { s with hw := modPkg r.2 fun p => { p with readVal := r.1 } }
/-- LNK_CTL_WRITE (16 R408). -/
def execLnkCtlWrite (by_ : Writer) (link : Nat) (v : Word) (s : State) : Res State :=
  if 16 ≤ link then .fault .notEnabled else writeEvent by_ (.lnkCtl link) v s
/-- ENS_SELF_WRITE, on all four dies as R405 asks of system software (16 R405). -/
def execEnsSelfWrite (by_ : Writer) (v : Word) (s : State) : Res State :=
  if !mayPkg s.hw by_ then .next { s with hw := ignored s.hw by_ }
  else .next { s with hw := [0, 1, 2, 3].foldl (fun hw d => ensSelfWrite hw d v) s.hw }
/-- ERR_EFAULT_ACK: a read of the high word of a controller's fault copy (03 R102). -/
def execErrEfaultAck (cl i : Nat) (s : State) : Res State :=
  if 32 ≤ cl || 12 ≤ i then .fault .notEnabled else .next { s with hw := ackCopy s.hw cl i }

end Sys2Proof.Machine
end

