-- ==== Sys2Proof/Machine/Arrival.lean ====
section
/-! DEFINITION. The events at an element's input and at its fault register: TOKEN_ARRIVAL (03 R75 to R83, 13 R366),
OVERFLOW_REFILL (03 R82), FAULT_REPORT (03 R101, R102), REISSUE, NULLIFY, STEP (13 Table 13.9). -/
namespace Sys2Proof.Machine

/-! ## The matching store (03 R78 to R83) -/

/-- Whether a token at a slot and port completes an operand set (03 R78). -/
def completes (hw : Hw) (e slot port : Nat) (tag : BitVec 20) : Bool :=
  match slotSpec hw e slot with
  | none => false
  | some (sp, w) =>
    let x := elemAt hw e
    let mine := fun (o : Operand) => o.slot = slot && o.tok.tag = tag && contPort o.tok.cont = port
    (setPorts sp w).contains port && !x.ops.any mine &&
      ((setPorts sp w).filter fun p => p != port).all fun p => (headAt x slot tag p).isSome

/-- Where an arriving token goes: none while it must wait at the input (03 R78 to R83). -/
def placeFor (hw : Hw) (e slot port : Nat) (tag : BitVec 20) : Option Place :=
  let behind := (elemAt hw e).ops.any fun o =>
    o.slot = slot && o.tok.tag = tag && contPort o.tok.cont = port && o.place == .spilled
  let spill := if overflowUsed hw (coreOf e) < 16384 then some Place.spilled else none
  if behind then spill
  else if completes hw e slot port tag then some .direct
  else match freeEntry hw e slot tag with
    | some p => some p
    | none => spill

/-! ## Arrival -/

/-- The fault that a token raises at a slot by what the slot holds: code, DETAIL, and whether it is a fault at issue
(02 R48, R50, R51, R71, 03 R79): a SERVICE or HEADER token at any slot, before what the slot holds is looked at. -/
def tokenFault (hw : Hw) (e slot : Nat) (t : Token) : Option (Nat × Nat × Bool) :=
  let w := tget (elemAt hw e).words 0 slot
  if t.kind == .service || t.kind == .header then some (cILLFIELD, 5, false)
  else if wordOp w = 0#9 then some (cEMPTY, 0, false)
  else match slotSpec hw e slot with
    | none => some (cILLOP, (wordOp w).toNat * 2 ^ 16, true)
    | some (sp, f) =>
      match wordFault sp f (frameAt (coreAt hw (coreOf e)) (slot / 4)).header with
      | some d => some (cILLFIELD, d, false)
      | none => (offerFault sp f t).map fun d => (cILLFIELD, d, false)

/-- Whether a token is a record of an entry log that a CHRECV took from its endpoint, which no token of the ordinary path may name
(07 R226, 13 R366, R370). -/
def chanReplay (hw : Hw) (fl : Flight) : Bool :=
  (match fl.src with
    | .replay _ => true
    | _ => false) && wordOp (tget (elemAt hw (contElem fl.tok.cont)).words 0 (contSlot fl.tok.cont)) = opCHRECV

/-- Freezes an element at a token offered to it, which waits at the input (03 R98, R101). -/
def offeredFault (hw : Hw) (e slot : Nat) (fl : Flight) (code detail : Nat) (atIssue : Bool) : Hw :=
  let w := tget (elemAt hw e).words 0 slot
  let t := fl.tok
  if atIssue then freeze hw e slot t.tag (wordOp w) (.offered fl) code detail
  else freeze hw e slot t.tag (wordOp w) (.offered fl) code detail t.psn (Kind.code t.kind) (contPort t.cont)

/-- What becomes of a token at its element's input: it is dealt with, it waits on its way, or the input holds it until a record is
free (03 R83). -/
inductive Taken where
  | done (hw : Hw)
  | waits
  | held

/-- A token that has reached its element's input: dropped and counted if of another generation (15 R396); a fault, also for a CONFIG token
that no port sent (02 R43); a wait, where the input takes nothing from the ordinary lane (03 R83) or no activation may open; or an
operand. -/
def acceptToken (hw : Hw) (fl : Flight) : Taken :=
  let t := fl.tok
  let e := contElem t.cont
  let c := coreOf e
  let slot := contSlot t.cont
  let port := contPort t.cont
  if fl.gen ≠ genOfCl hw (clOf c) then .done (modPkg hw fun p => { p with stale := p.stale + 1 })
  else if t.kind == .config then .done (cfgFault hw { tok := t, src := .firmware } cILLFIELD 9)
  else if frozen hw e || (!fl.atInput && !secondLane hw t && inputHeld hw e) then .waits
  else match (if chanReplay hw fl then none else tokenFault hw e slot t) with
    | some (code, d, i) => .done (offeredFault hw e slot fl code d i)
    | none =>
      if noOpening hw e slot port t.tag then .waits
      else match arrive hw e slot port t.tag with
        | none => .waits
        | some hw =>
          match placeFor hw e slot port t.tag with
          | none => if fl.atInput then .waits else .held
          | some p =>
            let (n, hw) := stamp hw
            let o : Operand := { slot := slot, tok := t, place := p, stamp := n, side := fl.side }
            let x := elemAt hw e
            let hw := setElem hw e { x with ops := x.ops ++ [o] }
            .done (moved (logToken hw e slot port t fl.side) c (slot / 4))

/-- The element of a source slot. -/
def srcElem : Src → Option (Nat × Nat)
  | .slot e _ s => some (e, s)
  | _ => none

/-- The die that a token comes from. -/
def srcDie : Src → Nat
  | .replay c => dieOf c
  | .slot e _ _ => dieOf (coreOf e)
  | .unit c _ => dieOf c
  | .ctl k => k / 8
  | .port _ | .fabric _ => 0

/-- Acknowledges a token of another package that an element has accepted (16 R411). -/
def ackToken (hw : Hw) (fl : Flight) : Hw :=
  match fl.src with
  | .fabric lc => ackOut hw lc
  | _ => hw

/-- A token for another logical chip that the fabric takes, or refuses for an entry that is off (16 R407, R412). -/
def exportToken (hw : Hw) (fl : Flight) : Option Hw :=
  let t := fl.tok
  let lc := contLC t.cont
  match fabCheck hw (srcDie fl.src) lc 2 (tokenLinkDown t) with
  | .ok () => some (fabSend hw (srcDie fl.src) lc 2 (.token t))
  | .error (.wait _) => none
  | .error (.fault code d) =>
    match srcElem fl.src with
    | some (e, s) => some (freeze hw e s t.tag (wordOp (tget (elemAt hw e).words 0 s)) (.issued s t.tag none) code d)
    | none => some hw

/-- Whether token `y`, at place `m` of those on their way, was emitted before `fl` of the same source at place `n`: tokens of one slot by
the issue numbers of their firings, those of one firing and of every other source by their places (03 R77). -/
def emittedBefore (m n : Nat) (y fl : Flight) : Bool :=
  if 0 < y.iss ∧ 0 < fl.iss ∧ y.iss ≠ fl.iss then decide (y.iss < fl.iss) else decide (m < n)

/-- Whether earlier token `y` of the same source must arrive before `fl`: one to the same continuation under the same tag (03 R76), a KSET of
the same stream (02 R44), or any of the records that a restore delivers again (13 R370). -/
def precedes (y fl : Flight) : Bool :=
  (y.tok.cont = fl.tok.cont && y.tok.tag = fl.tok.tag) || y.tok.kind == .config || (match fl.src with
    | .replay _ => true
    | _ => false)

/-- Whether a target of a firing is a token's continuation, and gives it the token's tag. -/
def targetIs (hw : Hw) (s : Site) (x : BitVec 22) (t : Token) : Bool :=
  match targetCont hw s x with
  | some (cont, keeps) => cont = t.cont && (if keeps then s.tag else 0) = t.tag
  | none => false

/-- Whether a firing's outputs go to a continuation under a tag. -/
def sendsTo (hw : Hw) (s : Site) (t : Token) : Bool := [s.t0, s.t1].any fun x => targetIs hw s x t

/-- Whether an access is one that its firing answers for: any but a generator's read and a word of a block that FETCH reads. -/
def answers : AccKind → Bool
  | .genRead .. | .fetchWord => false
  | _ => true

/-- The firings of a core that have issued and have still to answer: at the memory, in the LSID queue, in the buffers of stores, at
counters, monitors, generators, halyard units, dispatchers, service cores, macros and nodes (03 R77; log 81). -/
def unanswered (hw : Hw) (core : Nat) : List Site :=
  let c := coreAt hw core
  let inboxes := (hw.dies.map fun d => (d.2.scs.map fun x => x.2.inbox).flatten).flatten
  (hw.acc.filter fun a => answers a.kind).map (·.site) ++ c.stores.map (·.site) ++ c.releaseQ.map (·.site) ++
    c.lsq.map (queuedSite hw) ++ (c.gens.map fun x => x.2.waiters).flatten ++
    (hw.cntOps.filterMap fun o => match o.body with
      | .init _ _ s | .dec _ _ s => s
      | .wait s => some s) ++
    (hw.cls.map fun k => k.2.waits.map (·.site) ++ ((k.2.mons.filter fun m => m.remote.isNone).map (·.site))).flatten ++
    (clAt hw (clOf core)).hal.map (·.site) ++ hw.recs.filterMap (·.site) ++ hw.svc.filterMap (·.site) ++
    (inboxes.filter (·.reply)).filterMap (·.site) ++ hw.replies.map (·.site) ++
    (c.macros.map fun m => m.2.queue.map (·.site)).flatten ++ c.ncmds.map (·.site)

/-- Whether a firing of a token's slot that issued before the token's firing has still to answer to the token's continuation: firings
complete in issue order for each target continuation (03 R77; log 81). -/
def completesLater (hw : Hw) (fl : Flight) : Bool :=
  match fl.src with
  | .slot e _ slot =>
    let older := fun (s : Site) => s.elem = e && s.slot = slot && decide (0 < s.iss ∧ s.iss < fl.iss)
    (unanswered hw (coreOf e)).any (fun s => older s && sendsTo hw s fl.tok) ||
      (coreAt hw (coreOf e)).macros.any fun m => match m.2.out with
        | some o => o.isW && !o.told && older o.site && targetIs hw o.site o.site.t1 fl.tok
        | none => false
  | _ => false

/-- The tokens of a token's source that were emitted before it and are still on their way. -/
def earlierOwn (hw : Hw) (n : Nat) (fl : Flight) : List (Nat × Flight) :=
  ((List.range hw.net.length).zip hw.net).filter fun y => y.2.src = fl.src && emittedBefore y.1 n y.2 fl

/-- Whether something that must come before token `n` of those on their way is still to arrive (03 R76, R77). -/
def behindSame (hw : Hw) (n : Nat) (fl : Flight) : Bool :=
  (earlierOwn hw n fl).any (fun y => precedes y.2 fl) || completesLater hw fl

/-- Whether token `n` of those on their way could arrive, or leave for its package, at once. -/
def goesNow (hw : Hw) (n : Nat) (fl : Flight) : Bool :=
  !behindSame hw n fl &&
    (if contLC fl.tok.cont = ownLC hw then
      !atEdge hw (contCore fl.tok.cont) (contFrame fl.tok.cont) && (match acceptToken hw fl with
        | .done _ => true
        | _ => false)
    else (exportToken hw fl).isSome)

/-- Whether a token is still to let another pass: one that must come before it, or one that its slot emitted earlier under the same tag to
another continuation and that could arrive now (the manual fixes no order between continuations: log 93). -/
def behindOwn (hw : Hw) (n : Nat) (fl : Flight) : Bool :=
  behindSame hw n fl || ((srcElem fl.src).isSome &&
    (earlierOwn hw n fl).any fun y => y.2.tok.tag = fl.tok.tag && goesNow hw y.1 y.2)

/-- Whether a token is a configuration message of an ingress port, whose arrival is an event of its own (02 R44). -/
def portConfig (fl : Flight) : Bool :=
  fl.tok.kind == .config && (match fl.src with
    | .port _ => true
    | _ => false)

/-- TOKEN_ARRIVAL: a token on its way reaches its element, or leaves for its package (03 R75, 16 R410); one that needs a record while its
core's share is full stays at the input (03 R83). -/
def execTokenArrival (n : Nat) (s : State) : Res State :=
  match s.hw.net[n]? with
  | none => .fault .notEnabled
  | some fl =>
    let here := contLC fl.tok.cont = ownLC s.hw
    if behindOwn s.hw n fl || portConfig fl || (here && atEdge s.hw (contCore fl.tok.cont) (contFrame fl.tok.cont)) then
      .fault .notEnabled
    else
      let hw := { s.hw with net := dropAt s.hw.net n }
      if here then match acceptToken hw fl with
        | .done hw => .next { s with hw := ackToken hw fl }
        | .held => .next { s with hw := { s.hw with net := putAt s.hw.net n { fl with atInput := true } } }
        | .waits => .fault .notEnabled
      else match exportToken hw fl with
        | some hw => .next { s with hw := hw }
        | none => .fault .notEnabled

/-- OVERFLOW_REFILL: a free entry takes the oldest record of the slot with the most records (03 R82); the count of a slot goes on above
8,191 (log 90). -/
def execOverflowRefill (elem : Nat) (s : State) : Res State :=
  let x := elemAt s.hw elem
  let out := x.ops.filter fun o => o.place == .spilled
  let count := fun (sl : Nat) => (out.filter fun o => o.slot = sl).length
  match argMin (fun sl => 16384 - count sl) (List.range 32) with
  | none => .fault .notEnabled
  | some sl =>
    match out.find? fun o => o.slot = sl with
    | none => .fault .notEnabled
    | some o =>
      match freeEntry s.hw elem sl o.tok.tag with
      | none => .fault .notEnabled
      | some p =>
        let (n, hw) := stamp s.hw
        let ops := mapFirst (fun (y : Operand) => y.stamp = o.stamp) (fun y => { y with place := p, stamp := n }) x.ops
        .next { s with hw := setElem hw elem { x with ops := ops } }

/-! ## Reports (03 R101, R102) -/

/-- The controller copy that serves a fault of an element: of the region controller, or of the task controller at
4 + core. -/
def copyOf (hw : Hw) (e : Nat) : Nat × Nat :=
  match regionOf hw (coreOf e) (elemAt hw e).fault.frame.toNat with
  | some (k, i, _) => (k, i)
  | none => (clOf (coreOf e), 4 + coreOf e % 8)

/-- The copies of one controller: its own, or all of the task controller's (03 R102). -/
def controllerCopies (i : Nat) : List Nat := if i < 4 then [i] else (List.range 8).map (· + 4)

/-- The frozen elements that a controller has not reported yet, which is those whose faults arose after the last it
read. -/
def unreported (hw : Hw) (cl i : Nat) : List Nat :=
  let mine := controllerCopies i
  let last := (mine.map fun j => (tget (clAt hw cl).copies {} j).reg.arose).foldl max 0
  (hw.elems.filter fun x => x.2.fault.valid && decide (last < x.2.fault.arose) &&
    (let k := copyOf hw x.1; k.1 = cl && mine.contains k.2)).map (·.1)

/-- FAULT_REPORT: a controller with no copy held reads the frozen element whose fault arose first, keeps its one copy and
sends a SERVICE token (03 R101, R102). -/
def execFaultReport (cl i : Nat) (s : State) : Res State :=
  let c := clAt s.hw cl
  let mine := controllerCopies i
  let busy := mine.any fun j => (tget c.copies {} j).held || s.hw.svc.any fun m => m.copy = some (cl, j)
  match argMin (fun e => (elemAt s.hw e).fault.arose) (unreported s.hw cl i) with
  | none => .fault .notEnabled
  | some e =>
    if busy || (copyOf s.hw e).2 ≠ i then .fault .notEnabled
    else
      let r := (elemAt s.hw e).fault
      let kept := c.copies.filter fun x => !mine.contains x.1
      let hw := setCl s.hw cl { c with copies := tput kept {} i { reg := r, held := true } }
      .next { s with hw := report hw cl r.code.toNat (faultHigh r).toNat (some (cl, i)) }

/-- Acknowledges the report of an element that is ordered to resume (03 R102). -/
def ackElem (hw : Hw) (e : Nat) : Hw :=
  let k := copyOf hw e
  if (tget (clAt hw k.1).copies {} k.2).reg.arose = (elemAt hw e).fault.arose then ackCopy hw k.1 k.2 else hw

/-! ## Resuming an element (03 R101, 13 Table 13.9) -/

/-- Does an operation that had issued again. -/
def redo (hw : Hw) (e : Nat) (r : Redo) : Hw :=
  let c := coreOf e
  match r with
  | .macro_ m q => matSettle (requeue hw c m q) c
  | .node q => matSettle (repost hw c q) c
  | .record q => { hw with recs := hw.recs ++ [q] }
  | .service q => { hw with svc := hw.svc ++ [q] }
  | .access a => postAccess hw { a with sent := false }

/-- REISSUE of a frozen element (03 R101). -/
def reissueElem (hw : Hw) (e : Nat) : Hw :=
  let why := (elemAt hw e).why
  let hw := forgetFails (unfreeze (ackElem hw e) e) (dieOf (coreOf e)) (coreOf e % 64)
  match why with
  | .offered fl => { hw with net := fl :: hw.net }
  | .config m => takeCfg hw m
  | .issued _ _ (some r) => redo hw e r
  | .firing sl tag | .brk sl tag =>
    { hw with scratch := hw.scratch.filter fun x => !(x.elem = e && x.slot = sl && x.tag = tag) }
  | _ => hw

/-- REISSUE: a frozen element issues its faulting firing, or is offered its token, again. An action on a unit in another
state is refused and changes nothing, here and below (13 R359). -/
def execReissue (elem : Nat) (s : State) : Res State :=
  if frozen s.hw elem then .next { s with hw := reissueElem s.hw elem } else .next s

/-- What an operation that had issued leaves when it is given up, as one that does not fire: NULL to its targets, and of a broadcast
a null-broadcast (08 R241, 13 Table 13.9). -/
def giveUp (hw : Hw) (e : Nat) (r : Redo) : Hw :=
  let nulls := fun (s : Site) => settle hw s (emitBoth hw s [mkTok 0 s.tag .null])
  match r with
  | .macro_ m q => matSettle (giveUpCmd hw (coreOf e) m q) (coreOf e)
  | .node q => nulls q.site
  | .record q => (q.site.map nulls).getD hw
  | .service q => (q.site.map nulls).getD hw
  | .access a => nulls a.site

/-- NULLIFY of a frozen element: its operand set will be consumed as by a predicated instruction that does not fire;
an offered token, or a token of a session, is discarded (03 R101). -/
def nullifyElem (hw : Hw) (e : Nat) : Hw :=
  let x := elemAt hw e
  let hw := forgetFails (unfreeze (ackElem hw e) e) (dieOf (coreOf e)) (coreOf e % 64)
  let there := fun (d : Nat × BitVec 20 × Option Nat) => match d.2.2 with
    | some k => (coreAt hw (coreOf e)).lsq.any fun y => y.elem = e && y.slot = d.1 && y.tag = d.2.1 && y.occ = k
    | none => match slotSpec hw e d.1 with
      | some (sp, w) => (headsAt (elemAt hw e) d.1 d.2.1 (setPorts sp w)).isSome
      | none => false
  let mark := fun (d : Nat × BitVec 20 × Option Nat) =>
    let hw := { hw with scratch := hw.scratch.filter fun y => !(y.elem = e && y.slot = d.1 && y.tag = d.2.1) }
    if there d then setElem hw e { elemAt hw e with drop := some d } else hw
  match x.why with
  | .none | .offered _ | .config _ => hw
  | .firing sl tag | .brk sl tag => mark (sl, tag, none)
  | .queued sl tag occ => mark (sl, tag, some occ)
  | .session sl tag =>
    match headAt (elemAt hw e) sl tag 2 with
    | none => hw
    | some o => setElem hw e { elemAt hw e with ops := (elemAt hw e).ops.filter fun y => y.stamp != o.stamp }
  | .issued _ _ none => hw
  | .issued _ _ (some r) => giveUp hw e r

/-- NULLIFY: a frozen element gives up what faulted. -/
def execNullify (elem : Nat) (s : State) : Res State :=
  if frozen s.hw elem then .next { s with hw := nullifyElem s.hw elem } else .next s

/-- STEP: an element frozen by BRK runs on, BRK forwarding its token (13 Table 13.9). -/
def execStep (elem : Nat) (s : State) : Res State :=
  match (elemAt s.hw elem).why with
  | .brk sl tag =>
    let hw := unfreeze (ackElem s.hw elem) elem
    let w := wordFields (tget (elemAt hw elem).words 0 sl)
    match focusFire specBrk w { hw with focus := some { elem := elem, slot := sl, tag := tag } } with
    | none => .next { s with hw := hw }
    | some f => finish f { s with hw := hw } (fwd f hw f.a f.tag)
  | _ => .next s

/-! ## SERVICE tokens -/

/-- Whether an earlier SERVICE token of the same firing's core, or of the same controller, waits before token `n`. -/
def behindSvc (hw : Hw) (n : Nat) (m : SvcMsg) : Bool :=
  (hw.svc.take n).any fun y => y.die = m.die && y.sc = m.sc

/-- SERVICE_INBOX_ENTRY: a SERVICE token enters an inbox of its die; the ORDER of a TRAP follows (13 R356, R358). -/
def execServiceInboxEntry (n : Nat) (s : State) : Res State :=
  match s.hw.svc[n]? with
  | none => .fault .notEnabled
  | some m =>
    let sc := scOf s.hw (m.die * 8 + m.sc * 2)
    let x := tget (dieAt s.hw m.die).scs {} sc
    if behindSvc s.hw n m || x.reset || decide (512 ≤ x.inbox.length) then .fault .notEnabled
    else
      let asked := if m.reply then m.site else none
      let hw := modDie { s.hw with svc := dropAt s.hw.svc n } m.die fun d =>
        { d with scs := tput d.scs {} sc { x with inbox := x.inbox ++ [m] } }
      .next { s with hw :=
        match m.site, asked with
        | some site, none => settle hw site (emitBoth hw site [mkTok 0 site.tag .order])
        | _, _ => hw }

end Sys2Proof.Machine
end

