-- ==== Sys2Proof/Machine/Sha.lean ====
section
/-! DEFINITION. SHAKE256 (FIPS 202), which the object digest uses (15 R387, R389) and attestation and bring-up name
(R400, R401). -/
namespace Sys2Proof.Machine

/-- A lane of a Keccak state, by x + 5 y. -/
def kLane (s : List Word) (x y : Nat) : Word := s.getD (x % 5 + 5 * (y % 5)) 0

/-- The rotation of a lane, at x + 5 y. -/
def keccakRot : List Nat :=
  [0, 1, 62, 28, 27, 36, 44, 6, 55, 20, 3, 10, 43, 25, 39, 41, 45, 15, 21, 8, 18, 2, 61, 56, 14]

/-- The constants of the rounds. -/
def keccakRc : List Word :=
  [0x0000000000000001, 0x0000000000008082, 0x800000000000808A, 0x8000000080008000, 0x000000000000808B, 0x0000000080000001,
   0x8000000080008081, 0x8000000000008009, 0x000000000000008A, 0x0000000000000088, 0x0000000080008009, 0x000000008000000A] ++
  [0x000000008000808B, 0x800000000000008B, 0x8000000000008089, 0x8000000000008003, 0x8000000000008002, 0x8000000000000080,
   0x000000000000800A, 0x800000008000000A, 0x8000000080008081, 0x8000000000008080, 0x0000000080000001, 0x8000000080008008]

/-- The lanes of a state by a function of x and y. -/
def lanesBy (f : Nat → Nat → Word) : List Word := (List.range 25).map fun i => f (i % 5) (i / 5)

/-- One round. -/
def keccakRound (s : List Word) (rc : Word) : List Word :=
  let c := (List.range 5).map fun x => kLane s x 0 ^^^ kLane s x 1 ^^^ kLane s x 2 ^^^ kLane s x 3 ^^^ kLane s x 4
  let d := (List.range 5).map fun x => c.getD ((x + 4) % 5) 0 ^^^ (c.getD ((x + 1) % 5) 0).rotateLeft 1
  let t := lanesBy fun x y => kLane s x y ^^^ d.getD x 0
  -- rho and pi: the lane at (y, 2x + 3y) is the rotated lane at (x, y)
  let b := lanesBy fun x y =>
    let x' := (x + 3 * y) % 5
    (kLane t x' x).rotateLeft (keccakRot.getD (x' + 5 * x) 0)
  let e := lanesBy fun x y => kLane b x y ^^^ (~~~(kLane b (x + 1) y) &&& kLane b (x + 2) y)
  match e with
  | a :: r => (a ^^^ rc) :: r
  | [] => []

/-- Keccak-f[1600]. -/
def keccakF (s : List Word) : List Word := keccakRc.foldl keccakRound s

/-- The message padded for SHAKE256 to a multiple of 136 bytes. -/
def shakePad (m : List Byte) : List Byte :=
  let n := 136 - m.length % 136
  if n = 1 then m ++ [0x9F] else m ++ [0x1F] ++ List.replicate (n - 2) 0 ++ [0x80]

/-- A block of 136 bytes taken into a state. -/
def absorb (s : List Word) (b : List Byte) : List Word :=
  let ws := (chunks 8 17 b).map fun x => BitVec.ofNat 64 (ofBytes x)
  keccakF ((List.range 25).map fun i => s.getD i 0 ^^^ ws.getD i 0)

/-- SHAKE256 of a message, 32 bytes. -/
def shake256 (m : List Byte) : List Byte :=
  let p := shakePad m
  let s := (chunks 136 (p.length / 136) p).foldl absorb (List.replicate 25 0)
  (s.take 4).flatMap fun w => bytesOf 8 w.toNat

end Sys2Proof.Machine
end

