-- ==== Sys2Proof/Machine/Image.lean ====
section
/-! DEFINITION. Sealed objects as byte images: the header, segment table and segment contents (15 R387, R388), block
images (02 R58) and the checks that the loader makes of them (02 R52, R59, R60, R73, R87). -/
namespace Sys2Proof.Machine

/-- `len` bytes of an image from `off`. -/
def cut (img : List Byte) (off len : Nat) : List Byte := (img.drop off).take len
/-- The number in `w` bytes of an image at `off`. -/
def num (img : List Byte) (off w : Nat) : Nat := ofBytes (cut img off w)
/-- Whether bytes of an image are 0. -/
def zeros (img : List Byte) (off len : Nat) : Bool := (cut img off len).all (· == 0)

/-! ## The header and the segment table (15 R387) -/

/-- A segment-table entry. -/
structure Segment where
  kind : Nat
  ord  : Nat
  off  : Nat
  len  : Nat
  deriving DecidableEq, Repr

/-- MAGIC (15 Table 15.6a). -/
def objMagic : Nat := 0x4C5352425A4E4F4E

/-- The segments of an image, by its table. -/
def segments (img : List Byte) : List Segment :=
  (List.range (num img 10 2)).map fun i =>
    let a := 64 + 16 * i
    { kind := num img a 2, ord := num img (a + 4) 4, off := num img (a + 8) 4, len := num img (a + 12) 4 }

/-- Whether two segments have no byte in common. -/
def apart (x y : Segment) : Bool := decide (x.off + x.len ≤ y.off ∨ y.off + y.len ≤ x.off)

/-- Whether the segments of a list do not overlap. -/
def allApart : List Segment → Bool
  | [] => true
  | x :: r => r.all (apart x) && allApart r

/-- Whether a header and its segment table are consistent. -/
def headerOk (img : List Byte) : Bool :=
  let n := num img 10 2
  let l := segments img
  let ords := fun (k : Nat) => (l.filter fun s => s.kind = k).map (·.ord)
  decide (img.length ≤ 2 ^ 32) && decide (64 + 16 * n ≤ img.length) && num img 0 8 == objMagic && decide (1 ≤ num img 8 2 ∧ num img 8 2 ≤ 15) &&
    zeros img 12 4 && zeros img 48 16 && allApart l &&
    ((List.range n).all fun i => zeros img (64 + 16 * i + 2) 2) &&
    (l.all fun s => decide (1 ≤ s.kind ∧ s.kind ≤ 9) && s.off % 16 == 0 && decide (64 + 16 * n ≤ s.off) &&
      decide (s.off + s.len ≤ img.length)) &&
    ((List.range 9).all fun i =>
      let o := ords (i + 1)
      (List.range o.length).all (fun j => o.contains j) && (decide (i < 4) || decide (o.length ≤ 1)))

/-- The segments of a type, in ORD order. -/
def segsOf (img : List Byte) (k : Nat) : List Segment :=
  let l := (segments img).filter fun s => s.kind = k
  (List.range l.length).filterMap fun j => l.find? fun s => s.ord = j

/-- Whether DIGEST is as Table 15.6a states, the signature segment read as zeros. -/
def digestOk (img : List Byte) : Bool :=
  let blank := (segsOf img 9).foldl (fun b s => b.take s.off ++ List.replicate s.len 0 ++ b.drop (s.off + s.len)) img
  shake256 (blank.drop 48) == cut img 16 32

/-! ## Blocks (02 R57 to R60) -/

/-- The length that a block header declares. -/
def declared (h : BitVec 128) : Nat := 16 + 16 * (hdrIcount h + 1) + ceilDiv (4 * hdrRoutes h) 16 * 16

/-- A 128-bit number of an image. -/
def num128 (img : List Byte) (off : Nat) : BitVec 128 := BitVec.ofNat 128 (num img off 16)

/-- The block whose image lies in `len` bytes at `off`, as its header says; none if the image is shorter. -/
def blockAt (img : List Byte) (off len : Nat) : Option Block :=
  let h := num128 img off
  if len < 16 || len < declared h then none
  else
    let n := hdrIcount h + 1
    some { header := h, words := (List.range n).map fun i => num128 img (off + 16 + 16 * i)
           routes := (List.range (hdrRoutes h)).map fun i => BitVec.ofNat 32 (num img (off + 16 + 16 * n + 4 * i) 4)
           length := declared h, offset := off }

/-- The route indices that a word's targets name (02 Table 2.8). -/
def routesOf (w : BitVec 128) : List Nat :=
  let f := wordFields w
  ([f.t0, f.t1].filter fun t => targetKind t == 3).map fun t => bits t.toNat 0 8

/-- Whether a word at a used slot passes R60: it is EMPTY, or its PR, targets and route indices are good. -/
def blockWordOk (routes : Nat) (w : BitVec 128) : Bool :=
  w == 0 || (wordOk (wordFields w) && (routesOf w).all fun i => decide (i < routes))

/-- The checks of a block (02 R60, and R59 on tag modes). -/
def blockOk (b : Block) : Bool :=
  (b.header.extractLsb' 0 7) == 0#7 && b.words.all (blockWordOk (hdrRoutes b.header)) &&
    b.routes.all fun r => !r.getLsbD 31

/-- Whether a block holds an opcode reserved to firmware (02 R73). -/
def hasFirmwareOp (b : Block) : Bool := b.words.any fun w => [0x1CF#9, 0x1D0#9, 0x1D1#9].contains (wordOp w)

/-- The blocks of a type-1 segment. -/
def segBlocks (img : List Byte) (s : Segment) : Option (List Block) :=
  let n := num img s.off 4
  if s.len < 16 + 16 * n || !zeros img (s.off + 4) 12 then none
  else (List.range n).mapM fun i =>
    let e := s.off + 16 + 16 * i
    let off := num img e 4
    let len := num img (e + 4) 4
    if off % 16 ≠ 0 || !zeros img (e + 8) 8 || s.len < off + len || off < 16 + 16 * n then none else blockAt img (s.off + off) len

/-! ## The other segments (15 R388) -/

/-- The records of a counted segment, each of `step` bytes. -/
def counted {α : Type} (img : List Byte) (s : Segment) (step : Nat) (f : Nat → Option α) : Option (List α) :=
  let n := num img s.off 4
  if s.len < 16 + step * n || !zeros img (s.off + 4) 12 then none
  else (List.range n).mapM fun i => f (s.off + 16 + step * i)

/-- A core panel or element panel: kind, h, w, first block, blocks, in-ports as (core, slot index, port), out-ports as
(core, route index) (02 R61, R62). -/
structure Panel where
  core  : Bool
  h     : Nat
  w     : Nat
  first : Nat
  count : Nat
  ins   : List (Nat × Nat × Nat) := []
  outs  : List (Nat × Nat) := []
  deriving DecidableEq, Repr

/-- Whether an element of a block lies in an element panel at an origin, and the element that its relative number names there
(02 R61). -/
def atOrigin (p : Panel) (row0 col0 e : Nat) : Option Nat :=
  if e / 8 < p.h ∧ e % 8 < p.w ∧ e / 8 + row0 < 4 ∧ e % 8 + col0 < 8 then some (8 * (e / 8 + row0) + (e % 8 + col0)) else none

/-- An edge entry of a panel added to it; none where bits that its kind does not use are set, or it names a core or element outside
the panel (02 R62, 15 Table 15.6b). -/
def edgeOf (v : Nat) (p : Panel) : Option Panel :=
  match v % 4 with
  | 0 => if v = 0 then some p else none
  | 1 =>
    let c := bits v 11 6
    if bits v 17 15 ≠ 0 || p.count ≤ c || (!p.core && (atOrigin p 0 0 (bits v 2 7 / 4)).isNone) then none
    else some { p with ins := p.ins ++ [(c, bits v 2 7, bits v 9 2)] }
  | 2 =>
    let c := bits v 10 6
    if bits v 16 16 ≠ 0 || p.count ≤ c then none else some { p with outs := p.outs ++ [(c, bits v 2 8)] }
  | _ => none

/-- A panel record with its 64 edge entries; an element panel is h ≤ 4 rows by w ≤ 8 columns, a core panel lies in a die. -/
def panelAt (img : List Byte) (a : Nat) : Option Panel :=
  let k := num img a 1
  let p : Panel := { core := k == 1, h := num img (a + 1) 1, w := num img (a + 2) 1, first := num img (a + 4) 4, count := num img (a + 8) 4 }
  let top := if p.core then 8 else 4
  if 1 < k || !zeros img (a + 3) 1 || !zeros img (a + 12) 4 || p.count ≠ (if p.core then p.h * p.w else 1) ||
      p.h = 0 || p.w = 0 || top < p.h || 8 < p.w then none
  else (List.range 64).foldlM (fun p i => edgeOf (num img (a + 16 + 4 * i) 4) p) p

/-- A constants or data segment: its VA, bytes, and whether it is writable. -/
def dataAt (img : List Byte) (s : Segment) : Option (Nat × List Byte × Bool) :=
  let va := num img s.off 8
  if s.len < 16 || va % 4096 ≠ 0 || 2 ^ 48 < va + (s.len - 16) || !zeros img (s.off + 8) 8 then none
  else some (va, cut img (s.off + 16) (s.len - 16), s.kind = 4)

/-- A task-type entry (10 R261). -/
def typeRecAt (img : List Byte) (a : Nat) : Option TypeRec :=
  let t : TypeRec := { idx := num img a 2, holds := num img (a + 2) 1, scratch := num img (a + 3) 1, tags := num img (a + 4) 2
                       block := num img (a + 8) 4 }
  if t.idx < 4096 && decide (9 ≤ t.holds ∧ t.holds ≤ 64) && decide (t.scratch ≤ 32) && decide (t.tags ≤ 1024) &&
    zeros img (a + 6) 2 && zeros img (a + 12) 4 then some t else none

/-- A tile-table entry (10 R264). -/
def tileRecAt (img : List Byte) (a : Nat) : Option (Nat × TileRec) :=
  let i := num img a 2
  let t : TileRec := { base := num img (a + 8) 8, rows := num img (a + 16) 2, cols := num img (a + 18) 2, bytes := num img (a + 20) 4
                       valid := true }
  let good := decide (i < 4096) && t.base % 64 == 0 && decide (t.base + t.rows * t.cols * t.bytes ≤ 2 ^ 48) &&
    t.bytes % 64 == 0 && decide (64 ≤ t.bytes ∧ t.bytes ≤ 2 ^ 23) && decide (1 ≤ t.rows ∧ t.rows ≤ 1024) && decide (1 ≤ t.cols ∧ t.cols ≤ 1024) &&
    zeros img (a + 2) 6 && zeros img (a + 24) 8
  if good then some (i, t) else none

/-- A placement of a panel: its number, the region-relative core of its origin, its frame. -/
abbrev PanelPlace := Nat × Nat × Nat

/-- The placements of a placement entry, a core panel giving one for each of its blocks, and the panel's place; HANDLE_BOUNDS where a
panel leaves its region (15 R388, 02 R61). An element panel stands in its block at origin (0, 0) (log 78). -/
def placesAt (img : List Byte) (panels : List Panel) (h w a : Nat) : Except Nat (List Placement × Option PanelPlace) :=
  let v := num img a 8
  let n := bits v 0 20
  let core := bits v 20 6
  let one := fun (b c : Nat) => ({ block := b, core := c, frame := bits v 26 3, config := bits v 32 16 } : Placement)
  if bits v 29 3 ≠ 0 || bits v 48 15 ≠ 0 then .error cILLFIELD
  else if !bit v 63 then (if h * w ≤ core then .error cILLFIELD else .ok ([one n core], none))
  else match panels[n]? with
    | none => .error cILLFIELD
    | some p =>
      let ph := if p.core then p.h else 1
      let pw := if p.core then p.w else 1
      if h < core / w + ph || w < core % w + pw then .error cHANDLE
      else .ok ((List.range p.count).map fun i => one (p.first + i) ((core / w + i / pw) * w + core % w + i % pw), some (n, core, bits v 26 3))

/-- Whether a list holds no value twice. -/
def distinct {α : Type} [DecidableEq α] (l : List α) : Bool := l.eraseDups.length == l.length

/-- Whether no two placements stand in one frame of one core, frames and configurations pair off, and the configurations are numbered
in the order in which their frames first appear (02 R423). -/
def placesOk (l : List Placement) : Bool :=
  distinct (l.map fun p => (p.core, p.frame)) && (l.all fun p => l.all fun q => (p.frame == q.frame) == (p.config == q.config)) &&
    (l.map (·.config)).eraseDups == List.range (l.map (·.config)).eraseDups.length

/-- A region record at a place of the image with its panels' places, and where the next record begins; HANDLE_BOUNDS where a panel stands
on another (02 R61). -/
def regionAt (img : List Byte) (panels : List Panel) (stop a : Nat) : Except Nat ((RegionRec × List PanelPlace) × Nat) := do
  let h := num img a 1
  let w := num img (a + 1) 1
  let n := num img (a + 4) 4
  if stop < a + 16 + 8 * n ∨ h = 0 ∨ w = 0 ∨ 8 < h ∨ 8 < w ∨ !zeros img (a + 2) 2 ∨ !zeros img (a + 8) 8 then .error cILLFIELD
  let ps ← (List.range n).mapM fun i => placesAt img panels h w (a + 16 + 8 * i)
  let l := (ps.map (·.1)).flatten
  let inPanels := ((ps.filter fun x => x.2.isSome).map fun x => x.1.map fun p => (p.core, p.frame)).flatten
  if !distinct inPanels then .error cHANDLE
  if !placesOk l then .error cILLFIELD
  return (({ h := h, w := w, places := l }, ps.filterMap (·.2)), a + 16 + 8 * n)

/-- `n` region records in a row. -/
def regionsAt (img : List Byte) (panels : List Panel) (stop : Nat) : Nat → Nat → Except Nat (List (RegionRec × List PanelPlace) × Nat)
  | 0, a => .ok ([], a)
  | n + 1, a => do
    let (r, a) ← regionAt img panels stop a
    let (l, a) ← regionsAt img panels stop n a
    return (r :: l, a)

/-- `n` hoist records in a row. -/
def hoistsAt (img : List Byte) (stop regions : Nat) : Nat → Nat → Option (List (List Nat))
  | 0, _ => some []
  | n + 1, a => do
    let q := num img a 4
    let next := a + 16 + ceilDiv (4 * q) 16 * 16
    let ids := (List.range q).map fun i => num img (a + 16 + 4 * i) 4
    if stop < next ∨ !zeros img (a + 4) 12 ∨ !zeros img (a + 16 + 4 * q) (next - (a + 16 + 4 * q)) ∨
        !(ids.all fun i => decide (i < regions)) ∨ !distinct ids then none
    let l ← hoistsAt img stop regions n next
    some (ids :: l)

/-- An answer of the loader: ILLEGAL_FIELD where a part of the image cannot be read (15 R387). -/
def readable {α : Type} (x : Option α) : Except Nat α :=
  match x with
  | some a => .ok a
  | none => .error cILLFIELD

/-- The regions with their panels' places, and the hoists, of a type-7 segment. -/
def segRegions (img : List Byte) (panels : List Panel) (s : Segment) :
    Except Nat (List (RegionRec × List PanelPlace) × List (List Nat)) := do
  let nr := num img s.off 4
  let nh := num img (s.off + 4) 4
  if s.len < 16 ∨ !zeros img (s.off + 8) 8 then .error cILLFIELD
  let (rs, a) ← regionsAt img panels (s.off + s.len) nr (s.off + 16)
  let hs ← readable (hoistsAt img (s.off + s.len) nr nh a)
  return (rs, hs)

/-- The one segment of a type, read; nothing if there is none. -/
def optSeg {α : Type} (img : List Byte) (k : Nat) (d : α) (f : Segment → Except Nat α) : Except Nat α :=
  match segsOf img k with
  | [] => .ok d
  | s :: _ => f s

/-! ## Routes in relocatable form (02 R59, R69; log 11) -/

/-- The target region of a relocatable route entry. -/
def relRegion (r : BitVec 32) : Nat := (r.extractLsb' 18 12).toNat
/-- The target core of a relocatable route entry, relative to its region. -/
def relCore (r : BitVec 32) : Nat := (r.extractLsb' 12 6).toNat
/-- The target frame of a relocatable route entry. -/
def relFrame (r : BitVec 32) : Nat := (r.extractLsb' 9 3).toNat
/-- The target element of a relocatable route entry. -/
def relElem (r : BitVec 32) : Nat := (r.extractLsb' 4 5).toNat
/-- The target slot of a relocatable route entry. -/
def relSlot (r : BitVec 32) : Nat := (r.extractLsb' 2 2).toNat
/-- The target port of a relocatable route entry. -/
def relPort (r : BitVec 32) : Nat := (r.extractLsb' 0 2).toNat

/-- The block placed at the core and frame that a relocatable route entry names. -/
def relBlock (regions : List RegionRec) (r : BitVec 32) : Option Nat :=
  (regions[relRegion r]?).bind fun g => (g.places.find? fun p => p.core = relCore r && p.frame = relFrame r).map (·.block)

/-- Whether the loader can stitch a route: its target stands in a region of a hoist of the object (02 R59). -/
def stitchable (o : Obj) (r : BitVec 32) : Bool := (o.hoists.any fun h => h.contains (relRegion r)) && (relBlock o.regions r).isSome

/-! ## Edge ports (02 R62) -/

/-- The region-relative cores of a panel at its place in a region of width `w`. -/
def panelCores (p : Panel) (w origin : Nat) : List Nat :=
  let pw := if p.core then p.w else 1
  (List.range p.count).map fun i => (origin / w + i / pw) * w + origin % w + i % pw

/-- A panel as it stands in region `reg`: the region, its frame, its cores, the panel. -/
abbrev Stood := Nat × Nat × List Nat × Panel

/-- The placed panels of regions with their panels' places. -/
def stoodPanels (panels : List Panel) (rs : List (RegionRec × List PanelPlace)) : List Stood :=
  ((List.range rs.length).zip rs).flatMap fun x => x.2.2.filterMap fun y =>
    (panels[y.1]?).map fun p => (x.1, y.2.2, panelCores p x.2.1.w y.2.1, p)

/-- Whether a relocatable route entry goes to a placed panel. -/
def intoPanel (r : BitVec 32) (s : Stood) : Bool := relRegion r = s.1 && relFrame r = s.2.1 && s.2.2.1.contains (relCore r)

/-- The in-port of a placed panel that a route entry names. -/
def inPortOf (r : BitVec 32) (s : Stood) : Option (Nat × Nat × Nat) :=
  s.2.2.2.ins.find? fun i => s.2.2.1[i.1]? = some (relCore r) && i.2.1 = relElem r * 4 + relSlot r && i.2.2 = relPort r

/-- The route entries of the blocks of a placed panel, as (core within the panel, index, entry). -/
def panelRoutes (blocks : List Block) (s : Stood) : List (Nat × Nat × BitVec 32) :=
  (List.range s.2.2.2.count).flatMap fun c => match blocks[s.2.2.2.first + c]? with
    | none => []
    | some b => ((List.range b.routes.length).zip b.routes).map fun x => (c, x.1, x.2)

/-- The placed panels that a route entry goes into, with the in-port of each that it names. -/
def joins (l : List Stood) (r : BitVec 32) : List (Stood × Option (Nat × Nat × Nat)) :=
  (l.filter (intoPanel r)).map fun t => (t, inPortOf r t)

/-- The route entries of the blocks that belong to no panel. -/
def looseRoutes (blocks : List Block) (panels : List Panel) : List (BitVec 32) :=
  ((List.range blocks.length).filter fun i => !(panels.any fun p => decide (p.first ≤ i ∧ i < p.first + p.count))).flatMap fun i =>
    ((blocks[i]?).map (·.routes)).getD []

/-- Whether the edge ports of the placed panels are connected as R62 states: every out-port names a route entry, which names an in-port
of a panel, its own or another's; a token leaves a panel through out-ports only; what a block of no panel sends into one goes to an
in-port too; and no in-port is connected twice. -/
def edgesOk (blocks : List Block) (panels : List Panel) (l : List Stood) : Bool :=
  let isOut := fun (s : Stood) (x : Nat × Nat × BitVec 32) => s.2.2.2.outs.contains (x.1, x.2.1)
  let outs := l.flatMap fun s => ((panelRoutes blocks s).filter (isOut s)).map (·.2.2)
  let loose := looseRoutes blocks panels
  let joined := (outs ++ loose).flatMap fun r => (joins l r).filterMap fun j => j.2.map fun i => (j.1.1, j.1.2.1, j.1.2.2.1, i)
  (l.all fun s => s.2.2.2.outs.all fun o => (panelRoutes blocks s).any fun x => x.1 = o.1 && x.2.1 = o.2) &&
    (l.all fun s => (panelRoutes blocks s).all fun x => isOut s x || intoPanel x.2.2 s) &&
    (outs.all fun r => (joins l r).any fun j => j.2.isSome) &&
    ((outs ++ loose).all fun r => (joins l r).all fun j => j.2.isSome) && distinct joined

/-- Whether the words of an element panel's block stand in the panel's elements (02 R61). -/
def panelFits (blocks : List Block) (p : Panel) : Bool :=
  p.core || (match blocks[p.first]? with
    | none => true
    | some b => (List.range b.words.length).all fun i => b.words[i]? = some 0 || (atOrigin p 0 0 (i / 4)).isSome)

/-! ## The whole image -/

/-- The object that a consistent image holds, whose image begins at VA `base`, or the code that rejects it (15 R387, R388, 02 R61,
R62). -/
def parseObject (img : List Byte) (base : Nat) : Except Nat Obj := do
  if !headerOk img then .error cILLFIELD
  let bs ← readable ((segsOf img 1).mapM (segBlocks img))
  let panels ← readable ((segsOf img 2).mapM fun s => counted img s (16 + 256) (panelAt img))
  let cs ← readable (((segsOf img 3) ++ segsOf img 4).mapM (dataAt img))
  let types ← optSeg img 5 [] fun s => readable (counted img s 16 (typeRecAt img))
  let tiles ← optSeg img 6 [] fun s => readable (counted img s 32 (tileRecAt img))
  let (rs, hs) ← optSeg img 7 ([], []) fun s => segRegions img panels.flatten s
  let graph := (segsOf img 8).flatMap fun s => cut img s.off s.len
  let blocks := bs.flatten
  let good := (rs.all fun r => r.1.places.all fun p => decide (p.block < blocks.length)) &&
    (panels.flatten.all fun p => decide (p.first + p.count ≤ blocks.length)) && types.all fun t => decide (t.block < blocks.length)
  if !good then .error cILLFIELD
  if !(panels.flatten.all (panelFits blocks)) then .error cHANDLE
  if !edgesOk blocks panels.flatten (stoodPanels panels.flatten rs) then .error cILLFIELD
  return { flevel := num img 8 2, blocks := blocks, types := types, tiles := tiles, regions := rs.map (·.1), hoists := hs, consts := cs
           graph := graph, base := base, len := img.length }

/-! ## The tag budget (03 R87) -/

/-- TCALL's OP. -/
def opTCALL : BitVec 9 := 0x046#9

/-- The blocks that the TCALLs of a block call, through their routes. -/
def calledBlocks (o : Obj) (b : Block) : List Nat :=
  (b.words.filter fun w => wordOp w = opTCALL).filterMap fun w =>
    match routesOf w with
    | i :: _ => (b.routes[i]?).bind (relBlock o.regions)
    | [] => none

/-- The tag demand of a block with what it calls; none where it is unbounded: `n` levels. -/
def blockDemand (o : Obj) : Nat → Nat → Option Nat
  | 0, _ => none
  | n + 1, i =>
    match o.blocks[i]? with
    | none => some 0
    | some b => do
      let l ← (calledBlocks o b).mapM (blockDemand o n)
      some (hdrTagd b.header + l.sum)

/-- Whether the demand of each core of a region's configurations stays within 16,384, where a task type of an ASID
given as (entry block placed in the region, TAGS) may take a frame (03 R87). -/
def regionBudget (o : Obj) (r : RegionRec) (types : List (Option Nat × Nat)) : Bool :=
  let frames := (r.places.map (·.frame)).eraseDups
  (List.range (r.h * r.w)).all fun c =>
    let here := r.places.filter fun p => p.core = c
    let t := ((types.filter fun t => decide (frames.length < 8) || here.any fun p => t.1 = some p.block).map (·.2)).foldl max 0
    match here.mapM fun p => blockDemand o (o.blocks.length + 1) p.block with
    | none => false
    | some l => decide (l.sum + 16 * t ≤ 16384)

end Sys2Proof.Machine
end

