-- ==== Sys2Proof/Machine/Loader.lean ====
section
/-! DEFINITION. The loader (15 R386, R389 to R392): handles, the loading of objects and firmware updates, the stitching of
routes (02 R59), the placing of hoists and blocks in frames (06 R162, R177), and their unloading. -/
namespace Sys2Proof.Machine

/-! ## Handles (15 R390) -/

/-- The entry that a handle reference names, unless it is stale. -/
def handleOf (hw : Hw) (r : BitVec 32) : Option Handle :=
  match tfind hw.pkg.handles (bits r.toNat 0 12) with
  | some h => if h.seq.toNat = bits r.toNat 12 20 then some h else none
  | none => none

/-- The handle reference of an entry. -/
def refOf (i : Nat) (seq : BitVec 20) : BitVec 32 := BitVec.ofNat 32 (seq.toNat * 2 ^ 12 + i)

/-- The object that a reference to an object version names. -/
def objOf (hw : Hw) (r : BitVec 32) : Option Obj :=
  match handleOf hw r with
  | none => none
  | some h => match h.body with
    | .object o => some o
    | .hoist _ _ => none

/-- The current version of an object, through the installations that replaced it (15 R392): `n` steps. -/
def currentRef (hw : Hw) : Nat → BitVec 32 → BitVec 32
  | 0, r => r
  | n + 1, r => match (handleOf hw r).bind (·.newer) with
    | some q => currentRef hw n q
    | none => r

/-- Whether a region of a hoist stands: its map entry is the hoist's, and each of its frames is Resident (15 R386). -/
def regionStands (hw : Hw) (href : BitVec 32) (k : Nat × Nat) : Bool :=
  let r := rcAt hw k.1 k.2
  r.valid && r.hoist = href && (regionCores (k.1 / 8) r).all fun c =>
    (List.range 8).all fun f => !r.frames.getLsbD f || (frameAt (coreAt hw c) f).state == .resident

/-- Whether the configurations of a hoist are resident: every region of it stands (15 R386). -/
def hoistResident (hw : Hw) (href : BitVec 32) : Bool :=
  match handleOf hw href with
  | none => false
  | some h => match h.body with
    | .object _ => false
    | .hoist q n => match objOf hw q with
      | none => false
      | some o => (o.hoists.getD n []).all fun i => h.placed.any fun x => x.1 = i && regionStands hw href x.2

/-- Where the regions of an object version's resident hoists stand, as (region number, (cluster, controller)). -/
def residentRegions (hw : Hw) (r : BitVec 32) : List (Nat × (Nat × Nat)) :=
  hw.pkg.handles.flatMap fun x =>
    match x.2.body with
    | .hoist q _ => if q = r && hoistResident hw (refOf x.1 x.2.seq) then x.2.placed else []
    | .object _ => []

/-- A free handle entry. -/
def freeHandle (hw : Hw) : Option Nat := least 4096 fun i => (tfind hw.pkg.handles i).isNone

/-- The package's next sequence number. DESIGN CHOICE (log 96): it counts from 1 and passes over 0, so that no reference is 0, which
ING_HOIST has for none (15 Table 15.4). -/
def nextSeqNo (n : BitVec 20) : BitVec 20 := if n + 1 = 0 then 1 else n + 1

/-- Takes an entry for a handle body. -/
def takeHandle (hw : Hw) (asid : BitVec 10) (b : HandleBody) : Hw × BitVec 32 :=
  match freeHandle hw with
  | none => (hw, 0)
  | some i =>
    let h : Handle := { seq := hw.pkg.hseq, asid := asid, body := b }
    (modPkg hw fun p => { p with handles := tins p.handles i h, hseq := nextSeqNo p.hseq }, refOf i h.seq)

/-! ## Device memory by VA -/

/-- Bytes cut at the 64-byte lines of the VAs from `va`: `n` pieces at most. -/
def byLine : Nat → Nat → List Byte → List (Nat × List Byte)
  | 0, _, _ => []
  | _, _, [] => []
  | n + 1, va, bs =>
    let k := 64 - va % 64
    (va, bs.take k) :: byLine n (va + k) (bs.drop k)

/-- Writes bytes to the pages that an ASID's tables map at a VA, as service cores do; what is not mapped to this package is left. -/
def writeVa (m : Mem) (hw : Hw) (asid : BitVec 10) (va : Nat) (bs : List Byte) : Mem × Hw :=
  (byLine (bs.length / 64 + 2) va bs).foldl (fun (x : Mem × Hw) l =>
    match walk x.1 x.2 0 asid l.1 false with
    | .error _ => x
    | .ok (t, _, _) =>
      let pa := t.pa + (l.1 - t.va)
      if paLC pa = ownLC x.2 && inMemory (paLocal pa) then homeWriteBytes x.1 (physWrite x.2 (paLocal pa)) (paLocal pa) l.2 false else x) (m, hw)

/-- Maps the 4 KiB page of a VA from a table at `t`, with R and, if `w`, W: tables and a page that the ASID's tables lack are taken from
the pages that system software gives the loader, zeroed; a leaf that stands is given these permissions, and a larger page or a
malformed entry stays (15 R388, 13 R335; log 14). None where the pages run out. -/
def mapFrom (va : Nat) (w : Bool) : List PtLevel → Nat → Mem × Hw × List Nat → Option (Mem × Hw × List Nat)
  | [], _, x => some x
  | lv :: rest, t, (m, hw, pages) =>
    let a := paLocal t + 8 * bits va lv.lo lv.len
    let p := memRead m a 8
    let perm := 4 + b2n w * 8
    let put := fun (m : Mem) (hw : Hw) (v : Nat) => homeWrite m hw a 8 v false
    if !bit p 0 then
      match pages with
      | [] => none
      | g :: pages =>
        let (m, hw) := homeZero m hw (paLocal g) 4096
        if rest.isEmpty then
          let (m, hw) := put m hw (g + 3 + perm)
          some (m, hw, pages)
        else
          let (m, hw) := put m hw (g + 1)
          mapFrom va w rest g (m, hw, pages)
    else if pteMalformed hw lv p then some (m, hw, pages)
    else if bit p 1 then
      if rest.isEmpty then
        let (m, hw) := put m hw (p - bits p 2 2 * 4 + perm)
        some (m, hw, pages)
      else some (m, hw, pages)
    else mapFrom va w rest (pteAddr p) (m, hw, pages)

/-- Maps the pages of `len` bytes at a VA for an ASID: the loader writes its tables (15 R388). An ASID without a root, which system
software gives it (13 R334), keeps none. -/
def mapRange (m : Mem) (hw : Hw) (asid : BitVec 10) (va len : Nat) (w : Bool) (pages : List Nat) : Option (Mem × Hw × List Nat) :=
  let e := (tget (dieAt hw 0).xlAsid 0 asid.toNat).toNat
  let root := bits e 12 44 * 2 ^ 12
  if !bit e 63 || paLC root ≠ ownLC hw || !inHbm (paLocal root) then some (m, hw, pages)
  else (List.range ((va + len + 4095) / 4096 - va / 4096)).foldlM (fun x i => mapFrom ((va / 4096 + i) * 4096) w ptLevels root x) (m, hw, pages)

/-! ## Loading an object (15 R389) -/

/-- The task types of an ASID as the budget of a hoist counts them: the entry block where it is one of version `r`. -/
def budgetTypes (hw : Hw) (asid : BitVec 10) (r : BitVec 32) : List (Option Nat × Nat) :=
  (hw.pkg.ttypes.filter fun x => x.1 / 4096 = asid.toNat && x.2.valid).map fun x =>
    (if x.2.handle = r then some x.2.block.toNat else none, x.2.tags)

/-- Whether a hoist of an object passes the tag-budget check (03 R87). -/
def hoistBudget (o : Obj) (ids : List Nat) (types : List (Option Nat × Nat)) : Bool :=
  ids.all fun i => match o.regions[i]? with
    | some r => regionBudget o r types
    | none => true

/-- The checks of a block that R60 and R73 ask for, as the code of the one that fails. DESIGN CHOICE (log 86): the spec rejects an
object with an instruction of firmware for a user ASID and names no other ASID, so that of any ASID is rejected. -/
def blockCheck (b : Block) : Option Nat :=
  if !blockOk b then some cILLFIELD else if hasFirmwareOp b then some cPROT else none

/-- The first of some codes. -/
def firstCode : List (Option Nat) → Option Nat
  | [] => none
  | some c :: _ => some c
  | none :: r => firstCode r

/-- Whether an object declares a feature level above the Z8's 3, or, without a graph section to rebuild it from, above what the running
firmware supports (15 R389, R391). -/
def levelOver (hw : Hw) (o : Obj) : Bool := decide (3 < o.flevel) || (o.graph.isEmpty && decide (hw.pkg.flevel < o.flevel))

/-- The code with which an object is rejected whose DIGEST (0) or signature (1) is wrong: a fault code, which one the spec leaves open
(00 R8; log 80). -/
def rejectCode (n : Nat) : Nat := oneCode (reportCodes.filter fun c => c != 0) (Config.rejectCode n)

/-- The checks of R389 on a parsed object, in its order, as the code of the first that fails: DIGEST, signature, feature level, blocks and
routes, tag budget, and room for its handles (R390). DESIGN CHOICE (log 86): the blocks are checked one after another, each against R60
and then R73, so the first bad block gives the code. -/
def objectCheck (hw : Hw) (asid : BitVec 10) (img : List Byte) (o : Obj) : Option Nat :=
  let signed := !Config.signatureRequired ((partOfAsid hw asid).getD 16) ||
    (!(segsOf img 9).isEmpty && Config.signatureOk img)
  let types := budgetTypes hw asid 0 ++ o.types.map fun t => (some t.block, t.tags)
  let fails := fun (bad : Bool) (code : Nat) => if bad then some code else none
  firstCode ([fails (!digestOk img) (rejectCode 0), fails (!signed) (rejectCode 1),
    fails (levelOver hw o) cVERSION] ++ o.blocks.map blockCheck ++
    [fails (!(o.blocks.all fun b => b.routes.all (stitchable o))) cILLFIELD,
     fails (!(o.hoists.all fun h => hoistBudget o h types)) cTAGBUDGET,
     fails (decide (4096 < hw.pkg.handles.length + 1 + o.hoists.length)) cREFUSED])

/-- The tile-table entries that an object gives its ASID (10 R264). -/
def takeTiles (hw : Hw) (asid : BitVec 10) (o : Obj) : Hw :=
  modPkg hw fun p => { p with tiles := o.tiles.foldl (fun t x => tput t {} (asid.toNat * 4096 + x.1) x.2) p.tiles }

/-- What of an object stands in device memory: VA, bytes, and whether it is mapped with W. The image and the constants are mapped with R
only, data with R and W (15 R388). -/
def objectParts (img : List Byte) (o : Obj) : List (Nat × List Byte × Bool) := (o.base, img, false) :: o.consts

/-- Maps the parts of an object and writes them; none where the pages for them run out. -/
def storeParts (asid : BitVec 10) : List (Nat × List Byte × Bool) → Mem × Hw × List Nat → Option (Mem × Hw)
  | [], (m, hw, _) => some (m, hw)
  | (va, bs, w) :: rest, (m, hw, pages) =>
    (mapRange m hw asid va bs.length w pages).bind fun x =>
      let y := writeVa x.1 x.2.1 asid va bs
      storeParts asid rest (y.1, y.2, x.2.2)

/-- Keeps an object that passes its checks: its handles, its tile table, and its image, constants and data in device
memory. -/
def keepObject (m : Mem) (hw : Hw) (asid : BitVec 10) (pages : List Nat) (img : List Byte) (o : Obj) : Option (Mem × Hw) :=
  let (hw, r) := takeHandle hw asid (.object o)
  let hw := (List.range o.hoists.length).foldl (fun hw n => (takeHandle hw asid (.hoist r n)).1) hw
  storeParts asid (objectParts img o) (m, takeTiles hw asid o, pages)

/-- Whether what the loader writes for an object waits for a granule that is being zeroed (15 R394): a page that it is given, or one that
the ASID's tables map there or are walked through. -/
def storeWaits (m : Mem) (hw : Hw) (asid : BitVec 10) (pages : List Nat) (parts : List (Nat × Nat)) : Bool :=
  let page := fun (va : Nat) => walkWaits m hw 0 asid va || (match walk m hw 0 asid va false with
    | .ok (x, _, _) => zeroing hw (paLocal (x.pa + (va - x.va)))
    | .error _ => false)
  hw.pkg.assigning.isSome && ((pages.any fun g => zeroing hw (paLocal g)) ||
    parts.any fun p => (List.range ((p.1 + p.2 + 4095) / 4096 - p.1 / 4096)).any fun i => page ((p.1 / 4096 + i) * 4096))

/-- The loader's answer to system software about the last object: 0, or the code of the first check that failed. -/
def answerLoad (hw : Hw) (code : Nat) : Hw := modPkg hw fun p => { p with loadCode := BitVec.ofNat 8 code }

/-- OBJECT_LOAD: the loader takes an object from system software, whose image stands at VA `base` of its ASID and for whose mappings it is
given pages of HBM, and keeps it whole or rejects it whole with the code of the first check that failed (15 R387 to R390). -/
def execObjectLoad (asid base : Nat) (image : LoadImage) (s : State) : Res State :=
  let a := BitVec.ofNat 10 asid
  match parseObject image.bytes base with
  | .error code => .next { s with hw := answerLoad s.hw code }
  | .ok o => match objectCheck s.hw a image.bytes o with
    | some code => .next { s with hw := answerLoad s.hw code }
    | none =>
      if storeWaits s.mem s.hw a image.pages ((objectParts image.bytes o).map fun x => (x.1, x.2.1.length)) then .fault .notEnabled
      else match keepObject s.mem s.hw a image.pages image.bytes o with
        | none => .fault .notEnabled
        | some (m, hw) => .next { mem := m, hw := answerLoad hw 0 }

/-- Frees the entries of an object version and of its hoists (15 R392). -/
def dropObject (hw : Hw) (href : BitVec 32) : Hw :=
  let mine := fun (x : Nat × Handle) => refOf x.1 x.2.seq = href || (match x.2.body with
    | .hoist q _ => q = href
    | .object _ => false)
  modPkg hw fun p => { p with handles := p.handles.filter fun x => !mine x }

/-- OBJECT_UNLOAD: an object version's entry and those of its hoists become free (15 R392). -/
def execObjectUnload (href : BitVec 32) (s : State) : Res State :=
  match objOf s.hw href with
  | none => .fault .notEnabled
  | some _ => .next { s with hw := dropObject s.hw href }

/-- The words of a native block as a rebuild from the graph section gives them (15 R391; log 9). -/
def rebuilt (seq : BitVec 20) (i : Nat) (b : Block) : Block :=
  { b with words := (List.range b.words.length).map fun j => Config.rebuiltWord seq.toNat i j }

/-- The references of the object versions without a graph section whose feature level is above a level: no longer valid under firmware that
supports that level (15 R391). -/
def unsupported (hw : Hw) (level : Nat) : List (BitVec 32) :=
  hw.pkg.handles.filterMap fun x => match x.2.body with
    | .object o => if o.graph.isEmpty && decide (level < o.flevel) then some (refOf x.1 x.2.seq) else none
    | .hoist _ _ => none

/-- The native blocks of a named object with a graph section discarded and rebuilt, under the same handle (15 R391); none while a
granule that they are written to is being zeroed. -/
def rebuildObject (m : Mem) (hw : Hw) (href : BitVec 32) : Option (Mem × Hw) :=
  match handleOf hw href, objOf hw href with
  | some h, some o =>
    if o.graph.isEmpty then some (m, hw)
    else if storeWaits m hw h.asid [] [(o.base, o.len)] then none
    else
      let bs := (List.range o.blocks.length).filterMap fun i => (o.blocks[i]?).map (rebuilt h.seq i)
      let hw := modPkg hw fun p =>
        { p with handles := tins p.handles (bits href.toNat 0 12) { h with body := .object { o with blocks := bs } } }
      some (bs.foldl (fun (x : Mem × Hw) b =>
        writeVa x.1 x.2 h.asid (o.base + b.offset + 16) (b.words.flatMap fun w => bytesOf 16 w.toNat)) (m, hw))
  | _, _ => some (m, hw)

/-- FIRMWARE_UPDATE: new firmware runs that supports a feature level. It may rebuild an object; objects without a graph section stay valid
only where their level is supported (15 R391). -/
def execFirmwareUpdate (u : Update) (s : State) : Res State :=
  match rebuildObject s.mem s.hw u.href with
  | none => .fault .notEnabled
  | some (m, hw) => .next { mem := m, hw := (unsupported hw u.level).foldl dropObject (modPkg hw fun p => { p with flevel := u.level }) }

/-! ## Stitching (02 R59, 06 R177) -/

/-- The core and frame that a relocatable route names, where its region stands among some regions as (region number, (cluster,
controller)). -/
def placeOf (hw : Hw) (r : BitVec 32) (l : List (Nat × (Nat × Nat))) : Option (Nat × Nat) :=
  l.findSome? fun x =>
    let g := rcAt hw x.2.1 x.2.2
    if x.1 = relRegion r && g.valid then ((regionCores (x.2.1 / 8) g)[relCore r]?).map fun c => (c, relFrame r) else none

/-- A route entry stitched to the placement of its target: in the regions `own` first, then in the resident
hoists of its object version; none where no hoist that places it is resident (06 R177). -/
def stitch (hw : Hw) (href : BitVec 32) (own : List (Nat × (Nat × Nat))) (r : BitVec 32) : Option (BitVec 32) :=
  (placeOf hw r (own ++ residentRegions hw href)).map fun x =>
    r.extractLsb' 30 2 ++ mkCont (ownLC hw) (x.1 * 32 + relElem r) (x.2 * 4 + relSlot r) (relPort r)

/-- A route entry as a placed frame holds it. DESIGN CHOICE (log 82): one whose target's hoist is not resident names core 0 of the package's
own logical chip until that hoist is placed, when it is stitched. -/
def stitched (hw : Hw) (href : BitVec 32) (own : List (Nat × (Nat × Nat))) (r : BitVec 32) : BitVec 32 :=
  (stitch hw href own r).getD (r.extractLsb' 30 2 ++ mkCont (ownLC hw) (relElem r) (relFrame r * 4 + relSlot r) (relPort r))

/-! ## Frames -/

/-- The chain mask of a block (06 R164). -/
def chainOf (b : Block) : BitVec 32 :=
  (b.words.filter isMemOp).foldl (fun m w => m ||| BitVec.ofNat 32 (2 ^ (wordFields w).ls.toNat)) 0

/-- A table of the entries of a list. -/
def tabOf {α : Type} (l : List α) : Tab α := (List.range l.length).zip l

/-- A frame takes a block, as its configuration messages leave it (02 R44, R58, 06 R162): words above ICOUNT are EMPTY,
the waiting operands of its slots go where it passes to another ASID, and its counts begin anew. -/
def setFrameBlock (hw : Hw) (c f : Nat) (b : Block) (routes : List (BitVec 32)) (asid : BitVec 10) (href : BitVec 32)
    (num : Nat) (st : FrameState) : Hw :=
  let hw := if (frameAt (coreAt hw c) f).asid = asid then hw else clearSlots hw c f true
  let hw := (List.range 32).foldl (fun hw e5 =>
    let x := elemAt hw (c * 32 + e5)
    setElem hw (c * 32 + e5) { x with lo := tkeep (fun s => s / 4 != f) x.lo, words := (List.range 4).foldl (fun t s =>
      tput t 0 (f * 4 + s) (b.words.getD (e5 * 4 + s) 0)) x.words }) hw
  let fr : Frame :=
    { state := st, header := b.header, asid := asid, handle := href, block := BitVec.ofNat 20 num, chain := chainOf b
      routes := (tabOf routes).foldl (fun t x => tput t 0 x.1 x.2) [] }
  clearCounts (modCore hw c fun x => setFrame x f fr) c f

/-- A block without words, which stands in a configuration frame of a core that has no placement there (02 R423). -/
def noBlock : Block := { header := 0, words := [], routes := [], length := 0, offset := 0 }

/-! ## The fetch of a block (06 R177, R178) -/

/-- The pages of an image translated for a task's ASID: the bytes' global physical pages, or the reason and VA of the first that
cannot be read; none while a translation must wait for the directory. -/
def fetchPages (m : Mem) (hw : Hw) (core : Nat) (asid : BitVec 10) (lo : Nat) :
    List Nat → Option (Mem × Hw × Except (Nat × Nat) (List (Nat × Nat)))
  | [] => some (m, hw, .ok [])
  | p :: rest =>
    let va := max lo p
    (translateNow m hw (dieOf core) (core % 64) asid va false).bind fun (m, hw, r) =>
      match r with
      | .error e => some (m, hw, .error (if e.code.toNat = cPAGE then 2 else 3, va))
      | .ok x =>
        let pa := x.pa + (p - x.va)
        if paLC pa = ownLC hw && zeroing hw (paLocal pa) then none
        else if !x.r || (paLC pa = ownLC hw && !inMemory (paLocal pa)) then some (m, hw, .error (3, va))
        else (fetchPages m hw core asid lo rest).map fun (m, hw, l) => (m, hw, l.map fun l => (p, pa) :: l)

/-- The bytes of an image from its translated pages, or the VA of its first poisoned line. What a page of another package holds is a free
value (log 79). -/
def fetchBytes (m : Mem) (hw : Hw) (pages : List (Nat × Nat)) (va len : Nat) : Except Nat (List Byte) :=
  let at_ := fun (a : Nat) => ((pages.find? fun p => p.1 = a / 4096 * 4096).map (·.2)).getD 0 + a % 4096
  let here := fun (a : Nat) => paLC a = ownLC hw
  match (List.range len).find? fun i => here (at_ (va + i)) && linePsn m (paLocal (at_ (va + i))) with
  | some i => .error (va + i)
  | none => .ok ((List.range len).map fun i =>
    let a := at_ (va + i)
    if here a then memByte m (paLocal a) else Config.remoteByte a hw.free)

/-- A block of the current version of an object fetched for a task: the version, the block and its stitched routes, or
the reason and TVA of Table 6.3; none while a translation must wait. -/
def fetchBlock (m : Mem) (hw : Hw) (core : Nat) (asid : BitVec 10) (href : BitVec 32) (num : Nat) :
    Option (Mem × Hw × Except (Nat × Nat) (BitVec 32 × Block × List (BitVec 32))) :=
  let r := currentRef hw 4096 href
  match handleOf hw r, objOf hw r with
  | some h, some o =>
    if h.asid ≠ asid then some (m, hw, .error (3, o.base))
    else match o.blocks[num]? with
      | none => some (m, hw, .error (1, o.base))
      | some b =>
        let va := o.base + b.offset
        let pages := (List.range ((va + b.length - 1) / 4096 - va / 4096 + 1)).map fun i => (va / 4096 + i) * 4096
        (fetchPages m hw core asid va pages).map fun (m, hw, ps) =>
          (m, { hw with free := hw.free + 1 }, match ps with
            | .error e => .error e
            | .ok ps => match fetchBytes m hw ps va b.length with
              | .error a => .error (5, a)
              | .ok bs => match blockAt bs 0 b.length with
                | none => .error (4, va)
                | some x =>
                  if !blockOk x then .error (4, va)
                  else match x.routes.mapM (stitch hw r []) with
                    | none => .error (4, va)
                    | some rs => .ok (r, x, rs))
  | _, _ => some (m, hw, .error (6, 0))

/-- Whether a frame holds a block of a version for an ASID (06 R163). -/
def blockThere (x : Core) (asid : BitVec 10) (href : BitVec 32) (num f : Nat) : Bool :=
  let fr := frameAt x f
  [FrameState.resident, .transient, .cached].contains fr.state && fr.asid = asid && fr.handle = href && fr.block.toNat = num

/-- Whether a frame holds a block of a version for an ASID and has an activation record free (06 R163). -/
def frameHolds (x : Core) (asid : BitVec 10) (href : BitVec 32) (num f : Nat) : Bool :=
  blockThere x asid href num f && decide ((actsOf x f).length < 64)

/-- A frame that already holds a block of a version for an ASID (06 R163 step 1). DESIGN CHOICE (log 73): of several such frames, the
lowest-numbered. -/
def holdingFrame (hw : Hw) (c : Nat) (asid : BitVec 10) (href : BitVec 32) (num : Nat) : Option Nat :=
  least 8 (frameHolds (coreAt hw c) asid href num)

/-- The frame that a new block of a task takes (06 R163 steps 2 and 3). -/
def takenFrame (hw : Hw) (c : Nat) : Option Nat :=
  let x := coreAt hw c
  let mayTake := fun (f : Nat) => (regionOf hw c f).isNone && !frameBusy hw c f
  match least 8 fun f => (frameAt x f).state == .free && mayTake f with
  | some f => some f
  | none => argMin (fun f => (frameAt x f).cachedAt) ((List.range 8).filter fun f => (frameAt x f).state == .cached && mayTake f)

/-- The block of a task in a frame: found, or fetched into one; none while no frame can be had (06 R163), or a translation must
wait. -/
def blockFrame (m : Mem) (hw : Hw) (c : Nat) (asid : BitVec 10) (href : BitVec 32) (num : Nat) :
    Option (Mem × Hw × Except (Nat × Nat) Nat) :=
  match holdingFrame hw c asid (currentRef hw 4096 href) num with
  | some f => some (m, hw, .ok f)
  | none => match takenFrame hw c with
    | none => none
    | some f => (fetchBlock m hw c asid href num).map fun (m, hw, r) =>
      match r with
        | .error e => (m, hw, .error e)
        | .ok (q, b, rs) => (m, setFrameBlock hw c f b rs asid q num .transient, .ok f)

/-! ## Hoists (15 R386, 02 R423) -/

/-- The configurations of a region as (index, frame), in the order of their indices. -/
def configsOf (g : RegionRec) : List (Nat × Nat) :=
  let l := (g.places.map fun p => (p.config, p.frame)).eraseDups
  (List.range l.length).filterMap fun i => l.find? fun x => x.1 = i

/-- How many entries a hoist has (15 R386). -/
def hoistEntries (o : Obj) (ids : List Nat) : Nat :=
  ((ids.filterMap fun i => o.regions[i]?).map fun g => (configsOf g).length).foldl min (if ids.isEmpty then 0 else 2 ^ 16)

/-- A rectangle's core numbers. -/
def rectCores (d row col h w : Nat) : List Nat :=
  (List.range h).flatMap fun i => (List.range w).map fun j => d * 64 + (row + i) * 8 + (col + j)

/-- Whether a region can stand at a place of a die: on clusters of its partition, with its frames free, and with a
controller free in its origin row's cluster (15 R386). -/
def fitsAt (hw : Hw) (part : Nat) (g : RegionRec) (d row col : Nat) : Bool :=
  let p := tget hw.pkg.parts {} part
  let frames := (configsOf g).map (·.2)
  decide (row + g.h ≤ 8 ∧ col + g.w ≤ 8) && p.valid &&
    ((rectCores d row col g.h g.w).all fun c => p.clusters.getLsbD (clOf c) &&
      frames.all fun f => (frameAt (coreAt hw c) f).state == .free && (regionOf hw c f).isNone) &&
    (least 4 fun i => !(rcAt hw (d * 8 + row) i).valid).isSome

/-- Places where a region can stand, in the order of die, row and column. -/
def spotsOf (hw : Hw) (part : Nat) (g : RegionRec) : List (Nat × Nat × Nat) :=
  (List.range 4).flatMap fun d => (List.range 8).flatMap fun row => ((List.range 8).filter fun col => fitsAt hw part g d row col).map fun col =>
    (d, row, col)

/-- Writes the region-map entry of a region at a place, starting in configuration `e`. -/
def claimRegion (hw : Hw) (asid : BitVec 10) (href : BitVec 32) (g : RegionRec) (e d row col : Nat) : Hw × (Nat × Nat) :=
  let k := d * 8 + row
  let i := (least 4 fun i => !(rcAt hw k i).valid).getD 0
  let cs := configsOf g
  let r : Region :=
    { gen := genOfCl hw k, asid := asid, valid := true, frames := BitVec.ofNat 8 ((cs.map fun x => 2 ^ x.2).sum)
      cur := BitVec.ofNat 3 (((cs.find? fun x => x.1 = e).map (·.2)).getD 0), row0 := BitVec.ofNat 3 row, col0 := BitVec.ofNat 3 col
      hm1 := BitVec.ofNat 3 (g.h - 1), wm1 := BitVec.ofNat 3 (g.w - 1), hoist := href }
  (setRc hw k i r, (k, i))

/-- Finds a place for every region of a hoist, trying the places of each in order. -/
def placeAll (asid : BitVec 10) (href : BitVec 32) (part e : Nat) : List RegionRec → Hw → Option (Hw × List (Nat × Nat))
  | [], hw => some (hw, [])
  | g :: rest, hw => (spotsOf hw part g).findSome? fun x =>
    let (hw, k) := claimRegion hw asid href g e x.1 x.2.1 x.2.2
    (placeAll asid href part e rest hw).map fun r => (r.1, k :: r.2)

/-- Loads the configuration frames of a placed region that are not Resident (06 R162, 02 R423). A core without a placement in a frame holds
EMPTY slots there, and no block of the object. -/
def loadRegion (hw : Hw) (asid : BitVec 10) (objRef : BitVec 32) (o : Obj) (own : List (Nat × (Nat × Nat))) (g : RegionRec)
    (k : Nat × Nat) : Hw :=
  let cs := regionCores (k.1 / 8) (rcAt hw k.1 k.2)
  (List.range cs.length).foldl (fun hw n => (configsOf g).foldl (fun hw x =>
    let c := cs.getD n 0
    if (frameAt (coreAt hw c) x.2).state == .resident then hw
    else match g.places.find? fun p => p.core = n && p.frame = x.2 with
      | none => setFrameBlock hw c x.2 noBlock [] asid 0 0 .resident
      | some p =>
        let b := o.blocks.getD p.block noBlock
        setFrameBlock hw c x.2 b (b.routes.map (stitched hw objRef own)) asid objRef p.block .resident) hw) hw

/-- Stitches the routes of every frame that holds a block of an object version to the placements as they stand now (02 R59, 13 R370). -/
def restitch (hw : Hw) (objRef : BitVec 32) (o : Obj) : Hw :=
  let fix := fun (fr : Frame) =>
    if fr.handle = objRef && !fr.firmware && fr.state != .free then match o.blocks[fr.block.toNat]? with
      | some b => { fr with routes := (tabOf (b.routes.map (stitched hw objRef []))).foldl (fun t x => tput t 0 x.1 x.2) [] }
      | none => fr
    else fr
  { hw with cores := hw.cores.map fun c => (c.1, { c.2 with frames := c.2.frames.map fun f => (f.1, fix f.2) }) }

/-- The checks that the loader makes before it places a hoist: of the object's feature level and of the blocks that the hoist places, which
a firmware update may have rebuilt (15 R389, R391, 02 R60, R73), and the tag budget (03 R87). -/
def hoistCheck (hw : Hw) (asid : BitVec 10) (q : BitVec 32) (o : Obj) (ids : List Nat) : Option Nat :=
  let bs := (ids.filterMap fun i => o.regions[i]?).flatMap fun g => g.places.filterMap fun p => o.blocks[p.block]?
  firstCode ([if levelOver hw o then some cVERSION else none] ++ bs.map blockCheck ++
    [if hoistBudget o ids (budgetTypes hw asid q) then none else some cTAGBUDGET])

/-- Makes a hoist resident: regions of it that stand are kept, with their missing frames loaded, and the others are placed; cause 9 with the
loader's code where it cannot be (15 R386, Table 15.5). -/
def placeHoist (hw : Hw) (href : BitVec 32) (e : Nat) : Except Nat Hw :=
  match handleOf hw href with
  | none => .error cHANDLE
  | some h => match h.body with
    | .object _ => .error cHANDLE
    | .hoist q n => match objOf hw q with
      | none => .error cHANDLE
      | some o =>
        let ids := o.hoists.getD n []
        let new := ids.filter fun i => !(h.placed.any fun x => x.1 = i)
        match hoistCheck hw h.asid q o ids with
        | some code => .error code
        | none => match placeAll h.asid href ((partOfAsid hw h.asid).getD 16) e (new.filterMap fun i => o.regions[i]?) hw with
          | none => .error cHANDLE
          | some (hw, ks) =>
            let own := h.placed ++ new.zip ks
            let hw := modPkg hw fun p => { p with handles := tins p.handles (bits href.toNat 0 12) { h with placed := own } }
            let hw := own.foldl (fun hw x => match o.regions[x.1]? with
              | some g => loadRegion hw h.asid q o own g x.2
              | none => hw) hw
            .ok (restitch hw q o)

/-! ## Unloading a frame (06 Table 6.2) -/

/-- Forgets a region whose frames are all unloaded. -/
def dropRegion (hw : Hw) (k i : Nat) : Hw :=
  let r := rcAt hw k i
  if (regionCores (k / 8) r).any fun c => (List.range 8).any fun f => r.frames.getLsbD f && (frameAt (coreAt hw c) f).state != .free then hw
  else
    let hw := setRc hw k i {}
    modPkg hw fun p => { p with handles := p.handles.map fun x => (x.1, { x.2 with placed := x.2.placed.filter fun y => y.2 != (k, i) }) }

/-- FRAME_UNLOAD: a service core unloads a Resident frame without uncommitted activations (06 R162): the frame becomes
Free, with no block, and the PX marks of its firings go (13 R340). What waits at its slots stays until the frame passes to another ASID. -/
def execFrameUnload (core frame : Nat) (s : State) : Res State :=
  let fr := frameAt (coreAt s.hw core) frame
  if fr.state ≠ .resident || frameBusy s.hw core frame then .fault .notEnabled
  else
    let reg := regionOf s.hw core frame
    let hw := clearCounts (clearWords s.hw core frame) core frame
    let hw := modCore hw core fun x => unmarkFrames (BitVec.ofNat 8 (2 ^ frame)) (setFrame x frame { asid := fr.asid })
    .next { s with hw := match reg with
      | some (k, i, _) => dropRegion hw k i
      | none => hw }

end Sys2Proof.Machine
end

