-- ==== Sys2Proof/Machine/Commit.lean ====
section
/-! DEFINITION. Commit and release of stores (06 R168 to R170, 11 R304, 13 R346), successors and their fetch (06 R175 to
R178), retirement (10 R267), and the events COMMIT, STREL_RELEASE, SUCCESSOR_OPEN, FETCH, RETIREMENT, TASKRESUME and
TASKDISCARD. -/
namespace Sys2Proof.Machine

/-! ## The release queue (06 R170, 13 R346) -/

/-- Bits [63:0] of a task-context or release fault record (06 Table 6.5). -/
def recLow (r : FetchRec) : Nat :=
  b2n r.valid * 2 ^ 63 + r.code.toNat * 2 ^ 48 + r.reason.toNat * 2 ^ 44 + r.exitidx.toNat * 2 ^ 40 + r.tblk.toNat * 2 ^ 20 +
    r.ctx.toNat * 2 ^ 16 + b2n r.noctx * 2 ^ 15 + r.asid.toNat

/-- A released store that is held at a failure: the release fault record and a report (13 R346). -/
def holdRelease (hw : Hw) (c : Nat) (b : Buffered) (code : Nat) : Hw :=
  let r : FetchRec :=
    { srcblk := b.srcblk, srchnd := b.srchnd, tva := BitVec.ofNat 48 b.va, valid := true, code := BitVec.ofNat 8 code
      ctx := BitVec.ofNat 4 (b.ctx.getD 0), noctx := b.ctx.isNone, asid := b.site.asid }
  report (modCore hw c fun x => { x with relHeld := true, relRec := r }) (clOf c) code (recLow r)

/-- The translation of a store whose own was removed, made anew at its release (13 R346); none while the directory has no room
for it. -/
def retranslate (m : Mem) (hw : Hw) (c : Nat) (b : Buffered) : Option (Mem × Hw × Except Nat Nat) :=
  if !b.stale then some (m, hw, .ok b.pa)
  else (translateNow m hw (dieOf c) (c % 64) b.site.asid b.va true).map fun (m, hw, r) =>
    (m, hw, match r with
      | .error e => .error e.code.toNat
      | .ok x =>
        let pa := x.pa + (b.va - x.va)
        match permCheck x false true b.va 1 false, physCheck hw (dieOf c) b.site.asid 1 { pa := pa, addr := b.va, isPa := false } with
        | .error (.fault k _), _ => .error k
        | _, .error (.fault k _) => .error k
        | _, _ => .ok pa)

/-- A released store as it leaves through the block load-store unit's port (07 R201). -/
def storeAccess (hw : Hw) (c : Nat) (b : Buffered) (pa : Nat) : Access :=
  { id := hw.ids, core := c, port := 0, kind := .store, va := if b.isPa then pa else b.va, isPa := b.isPa, pa := pa, width := b.width, data := b.data
    psn := b.psn, fwd := [], site := b.site, seq := b.seq, lsid := b.lsid, strel := b.strel, gen := genOfCl hw (clOf c) }

/-- Releases the stores at the head of a core's release queue, in order, until one is held (06 R170): `n` rounds. None while a
store cannot be translated again yet. -/
def releaseStores (c : Nat) : Nat → Mem → Hw → Option (Mem × Hw)
  | 0, m, hw => some (m, hw)
  | n + 1, m, hw =>
    let x := coreAt hw c
    if x.relHeld then some (m, hw)
    else match x.releaseQ with
      | [] => some (m, hw)
      | b :: rest =>
        match retranslate m hw c b with
        | none => none
        | some (m, hw, .error code) => some (m, holdRelease hw c b code)
        | some (m, hw, .ok pa) =>
          if paLC pa ≠ ownLC hw && b.psn then some (m, holdRelease hw c b cPOISON)
          else
            let hw := modCore hw c fun x => { x with releaseQ := rest }
            releaseStores c n m (postAccess hw (storeAccess hw c b pa))

/-- Releases what a core's queue holds. -/
def drainReleases (m : Mem) (hw : Hw) (c : Nat) : Option (Mem × Hw) := releaseStores c (coreAt hw c).releaseQ.length m hw

/-! ## COMMIT (06 R168 to R170) -/

/-- Whether conditions 1 to 3 of R168 hold. -/
def actComplete (c : Core) (a : Act) : Bool :=
  let h := (frameAt c a.frame).header
  ((List.range 32).all fun i => !smaskBit h i || a.lsids.getLsbD i) &&
    ((List.range 64).all fun j => !wmaskBit h j || (tfind a.writes j).isSome) && a.exit.isSome

/-- The committed hold registers after an activation's staged writes (06 R170, R179). -/
def commitWrites (marked : Bool) (l : Tab Staged) (h : Tab (Word × Bool)) : Tab (Word × Bool) :=
  l.foldl (fun h x => match x.2 with
    | .null => h
    | .value v p => tput h (0, false) x.1 (v, p || marked)) h

/-- Writes a task's fetch fault record, parks it and reports, once its exiting activation has committed (06 R178). -/
def parkIfDue (hw : Hw) (c n : Nat) : Hw :=
  let x := coreAt hw c
  let k := ctxAt x n
  match k.next with
  | none => hw
  | some nx =>
    match nx.failed with
    | none => hw
    | some (reason, tva) =>
      if k.state ≠ .running || x.acts.any fun a => a.seq = nx.srcSeq then hw
      else
        let r : FetchRec :=
          { srcblk := nx.srcblk, srchnd := nx.srchnd, tva := BitVec.ofNat 48 tva, valid := true, code := BitVec.ofNat 8 cFETCH
            reason := reason, exitidx := nx.exit, tblk := nx.block, ctx := BitVec.ofNat 4 n, asid := k.asid }
        let hw := setCore hw c (setCtx x n { k with state := .parked, record := r })
        let hw := { hw with tasks := hw.tasks.map fun t => if t.id = k.task then { t with state := .parked } else t }
        report hw (clOf c) cFETCH (recLow r)

/-- A task whose last activation committed with no successor begins to retire (06 R176, 10 R265). -/
def retireIfDue (hw : Hw) (c n : Nat) (ends : Bool) : Hw :=
  let x := coreAt hw c
  let k := ctxAt x n
  if !ends || k.state ≠ .running then hw
  else
    let hw := setCore hw c (setCtx x n { k with state := .retiring })
    { hw with tasks := hw.tasks.map fun t => if t.id = k.task then { t with state := .retiring } else t }

/-- An activation leaves: its record is freed, kept only for what its firings still do (06 R174, R179, R181, R191), its log
records with it, its frame is cached when it was a task's last there, held configuration messages take effect, and a freeing
tag space may end (06 R162, R170, 02 R44, 03 R86, 13 R366). -/
def leaveAct (hw : Hw) (c : Nat) (a : Act) : Hw :=
  let hw := modCore hw c fun x =>
    let k := keyAct a.frame a.tag
    { x with acts := x.acts.filter (fun y => y.seq != a.seq), past := x.past ++ [a], log := x.log.filter fun l => l.seq != a.seq
             committed := tput x.committed 0 k (tget x.committed 0 k + 1) }
  let hw := modCore hw c fun x =>
    if hdrChain (frameAt x a.frame).header then putLsDone x a.frame a.tag a.occ ((lsDoneOf x a.frame a.tag a.occ).getD 0) true else x
  let hw := drainHeld (cacheFrame hw c a.frame) c a.frame
  let s := tagSpace a.tag
  if s = 0 || isTaskSpace s then hw else settleSpace hw c a.frame s

/-- COMMIT: an activation with everything complete that nothing precedes commits (06 R168 to R170). -/
def execCommit (core seq : Nat) (s : State) : Res State :=
  let x := coreAt s.hw core
  match x.acts.find? fun a => a.seq = seq with
  | none => .fault .notEnabled
  | some a =>
    if !actComplete x a || !(beforeSeqs s.hw core a).isEmpty then .fault .notEnabled
    else
      let marked := actMarked x a
      let mine := x.stores.filter fun (b : Buffered) => b.seq = seq
      let out := mine.map fun (b : Buffered) => { b with psn := b.psn || marked }
      let x := { x with stores := x.stores.filter (fun (b : Buffered) => b.seq != seq), releaseQ := x.releaseQ ++ out }
      let x := match a.ctx with
        | none => x
        | some n => setCtx x n { ctxAt x n with hold := commitWrites marked a.writes (ctxAt x n).hold }
      let hw := leaveAct (setCore s.hw core x) core a
      let task := isTaskSpace (tagSpace a.tag)
      let n := tagSpace a.tag - 0xFF0
      let ends := task && (match a.exit with
        | some (b, _) => b = noSuccessor
        | none => false)
      let hw := if task then parkIfDue (retireIfDue hw core n ends) core n else hw
      match drainReleases s.mem hw core with
      | none => .fault .notEnabled
      | some (m, hw) => .next { mem := m, hw := hw }

/-! ## Successors (06 R175 to R178) -/

/-- The uncommitted activations of a task context. -/
def chainLen (x : Core) (n : Nat) : Nat := (x.acts.filter fun a => a.ctx == some n && tagSpace a.tag = 0xFF0 + n).length

/-- Opens a block of a task in a frame, under its task tag. -/
def openBlock (hw : Hw) (c f n : Nat) : Hw :=
  let hw := modCore hw c fun x =>
    let fr := frameAt x f
    setFrame x f (if fr.state = .cached then { fr with state := .transient } else fr)
  moved (openAct hw c f (mkTag (0xFF0 + n) 0)) c f

/-- A successor that may start: its task runs, has fewer than four uncommitted activations, and is not being pre-empted. -/
def mayStart (hw : Hw) (c n : Nat) : Option Succ :=
  let x := coreAt hw c
  let k := ctxAt x n
  match k.next with
  | none => none
  | some nx => if k.state = .running && nx.failed.isNone && decide (chainLen x n < 4) && !heldAsid hw k.asid then some nx else none

/-- SUCCESSOR_OPEN: a successor whose block stands in a frame opens (06 R163 step 1, R177). -/
def execSuccessorOpen (core ctx : Nat) (s : State) : Res State :=
  match mayStart s.hw core ctx with
  | none => .fault .notEnabled
  | some nx =>
    let k := ctxAt (coreAt s.hw core) ctx
    match holdingFrame s.hw core k.asid (currentRef s.hw 4096 nx.srchnd) nx.block.toNat with
    | none => .fault .notEnabled
    | some f =>
      let hw := modCore s.hw core fun x => setCtx x ctx { k with next := none }
      .next { s with hw := openBlock hw core f ctx }

/-- FETCH: a successor that stands in no frame is copied into one, or its task meets a fetch fault (06 R177, R178). -/
def execFetch (core ctx : Nat) (s : State) : Res State :=
  match mayStart s.hw core ctx with
  | none => .fault .notEnabled
  | some nx =>
    let k := ctxAt (coreAt s.hw core) ctx
    if (holdingFrame s.hw core k.asid (currentRef s.hw 4096 nx.srchnd) nx.block.toNat).isSome then .fault .notEnabled
    else match blockFrame s.mem s.hw core k.asid nx.srchnd nx.block.toNat with
      | none => .fault .notEnabled
      | some (m, hw, .ok _) => .next { mem := m, hw := hw }
      | some (m, hw, .error (r, tva)) =>
        let fail := { nx with failed := some (BitVec.ofNat 4 r, tva) }
        .next { mem := m, hw := parkIfDue (modCore hw core fun x => setCtx x ctx { ctxAt x ctx with next := some fail }) core ctx }

/-! ## Retirement (10 R267) -/

/-- Whether every store that a task committed has performed: none of its core's of its ASID is on its way. -/
def storesPerformed (hw : Hw) (c n : Nat) : Bool :=
  let x := coreAt hw c
  !(x.releaseQ.any fun b => b.ctx == some n) &&
    !(hw.acc.any fun a => a.core = c && a.kind == .store && a.site.asid = (ctxAt x n).asid)

/-- RETIREMENT: in one step DONEC is decremented and the task's keys released; its context becomes free. -/
def execRetirement (core ctx : Nat) (s : State) : Res State :=
  let k := ctxAt (coreAt s.hw core) ctx
  match s.hw.tasks.find? fun t => t.id = k.task with
  | none => .fault .notEnabled
  | some t =>
    if k.state ≠ .retiring || !storesPerformed s.hw core ctx ||
        ((coreAt s.hw core).acts.any fun a => a.ctx == some ctx && tagSpace a.tag = 0xFF0 + ctx) then .fault .notEnabled
    else
      let hw := releaseKeys s.hw t
      let hw := { hw with tasks := hw.tasks.filter fun u => u.id != t.id }
      let hw := if recDonec t.words = 0x3FF then hw else decCnt hw t.cc (recDonec t.words) 1 false
      .next { s with hw := freeCtx hw core ctx }

/-! ## Service actions on tasks (13 Table 13.9) -/

/-- TASKRESUME: the fetch of a parked task is to be made again (`ctx` < 16), or a core's held store is translated again
(`ctx` = 16) (06 R178, 13 R346). -/
def execTaskresume (core ctx : Nat) (s : State) : Res State :=
  let x := coreAt s.hw core
  if ctx = 16 then
    if !x.relHeld then .next s
    else
      let hw := forgetFails s.hw (dieOf core) (core % 64)
      match drainReleases s.mem (modCore hw core fun x => { x with relHeld := false, relRec := {} }) core with
      | none => .fault .notEnabled
      | some (m, hw) => .next { mem := m, hw := hw }
  else
    let k := ctxAt x ctx
    if k.state ≠ .parked then .next s
    else
      let nx := k.next.map fun n => { n with failed := none }
      let hw := setCore s.hw core (setCtx x ctx { k with state := .running, record := {}, next := nx })
      .next { s with hw := { hw with tasks := hw.tasks.map fun t => if t.id = k.task then { t with state := .running } else t } }

/-- TASKDISCARD of a Parked, Saved or Running task (10 R265, 13 Table 13.9). -/
def execTaskdiscard (task : Nat) (s : State) : Res State :=
  match s.hw.tasks.find? fun t => t.id = task with
  | none => .next s
  | some t =>
    if t.state = .parked || t.state = .saved || t.state = .running then .next { s with hw := discardTask s.hw t }
    else .next s

end Sys2Proof.Machine
end

