-- ==== Sys2Proof/Machine/Ingress.lean ====
section
/-! DEFINITION. Host ingress (15 R383 to R386, R392): the checks of a stream's tokens, and the events INGRESS_WRITE, HOIST,
INSTALL, INSTALL_COMPLETE and HOIST_PLACEMENT. -/
namespace Sys2Proof.Machine

/-- The partition of a port, if it is valid. -/
def portPart (hw : Hw) (x : Port) : Option Part :=
  let p := tget hw.pkg.parts {} x.part.toNat
  if p.valid then some p else none

/-- The counter cluster of a port's records: the lowest of its partition (10 R259). -/
def portCluster (hw : Hw) (x : Port) : Option Nat := (portPart hw x).bind fun p => (partClusters p)[0]?

/-- The ASID of a port's records: of the stream's current hoist, else the lowest live one of its partition (log 15). -/
def portAsid (hw : Hw) (x : Port) : BitVec 10 :=
  match handleOf hw x.hoist with
  | some h => h.asid
  | none => match hw.pkg.asids.find? fun a => a.2 = x.part with
    | some a => BitVec.ofNat 10 a.1
    | none => 0

/-- Puts a stream into the error state at a token: ERR and a record in the error window (15 R385). -/
def portErr (x : Port) (off : BitVec 16) (code cause : Nat) : Port :=
  if x.err then x
  else
    let r : EwinRec := { offset := off, code := BitVec.ofNat 8 code, cause := BitVec.ofNat 4 cause, seq := x.seq }
    { x with err := true, ewin := tput x.ewin {} (x.nrec % 4) r, nrec := x.nrec + 1, words := [] }

/-! ## The checks of Table 15.5 -/

/-- Whether a KIND is reserved (02 R39). -/
def isReserved : Kind → Bool
  | .reserved _ => true
  | _ => false

/-- Kinds that a host may send (02 Table 2.3). -/
def hostKind (k : Kind) : Bool := [Kind.data, .null, .endm, .config, .header].contains k

/-- Cause 2: a CONFIG code, unused bit or place that the host may not send, or a counter outside the partition. -/
def badConfig (hw : Hw) (x : Port) (t : Token) : Bool :=
  let v := t.value.toNat
  match t.aux.toNat with
  | 6 => bits v 48 16 != 0 || contPort t.cont != 0
  | 7 => bits v 48 16 != 0 || t.cont != 0
  | 8 => bits v 48 16 != 0 || t.cont != 0 || (bit v 47 && (match portPart hw x with
    | some p => !p.clusters.getLsbD (crefCl (bits v 32 15))
    | none => true))
  | _ => true

/-- Cause 3: a HEADER token out of its place, or a token of another kind within a record (02 R45). -/
def badHeader (x : Port) (t : Token) : Bool :=
  if t.kind == .header then bits t.aux.toNat 0 3 != x.words.length || bits t.aux.toNat 3 4 != 0 || t.cont != 0
  else !x.words.isEmpty

/-- Whether a token goes to a continuation: DATA, NULL, END, and KSET. -/
def toSlot (t : Token) : Bool := t.kind == .data || t.kind == .null || t.kind == .endm || (t.kind == .config && t.aux = 6#7)

/-- Cause 5: no current hoist, another logical chip, or no frame of the current hoist. -/
def badTarget (hw : Hw) (x : Port) (t : Token) : Bool :=
  (handleOf hw x.hoist).isNone || contLC t.cont != ownLC hw ||
    (match regionOf hw (contCore t.cont) (contFrame t.cont) with
    | some (_, _, r) => r.hoist != x.hoist
    | none => true)

/-- Cause 8: a HOIST or INSTALL whose reference, owner or entry is not good (15 R390). -/
def badRef (hw : Hw) (x : Port) (t : Token) : Bool :=
  let v := t.value.toNat
  match handleOf hw (t.value.extractLsb' 0 32) with
  | none => true
  | some h =>
    partOfAsid hw h.asid != some x.part.toNat ||
      (match h.body with
      | .object _ => t.aux != 8#7
      | .hoist q n => t.aux != 7#7 || (match objOf hw q with
        | some o => decide (hoistEntries o (o.hoists.getD n []) ≤ bits v 32 16)
        | none => true))

/-- The first check that a token fails, as (code, cause) (15 R385). -/
def tokenCheck (hw : Hw) (x : Port) (t : Token) : Option (Nat × Nat) :=
  let control := t.kind == .config && (t.aux = 7#7 || t.aux = 8#7)
  if isReserved t.kind then some (cINGRESS, 0)
  else if !hostKind t.kind || t.psn then some (cINGRESS, 1)
  else if t.kind == .config && badConfig hw x t then some (cINGRESS, 2)
  else if badHeader x t then some (cINGRESS, 3)
  else if t.kind == .endm && t.rank == 0#2 then some (cINGRESS, 4)
  else if toSlot t && badTarget hw x t then some (cINGRESS, 5)
  else if (t.kind == .data || t.kind == .null || t.kind == .endm) && t.tag != 0 then some (cINGRESS, 6)
  else if control && badRef hw x t then some (cHANDLE, 8)
  else none

/-! ## Taking tokens -/

/-- Sends a token of a stream to its element, with the generation of the port's partition (15 R386, R396). -/
def portSend (hw : Hw) (p : Nat) (x : Port) (t : Token) : Hw :=
  send hw (.port p) none (tget hw.pkg.parts {} x.part.toNat).gen t

/-- The last HEADER token of a record sends the record to its dispatcher; the stream waits for its acceptance
(10 R259, 15 R384, R385). -/
def portRecord (hw : Hw) (p : Nat) (x : Port) (t : Token) (off : BitVec 16) : Hw :=
  let ws := x.words ++ [t.value]
  if ws.length < 8 then setPort hw p { x with words := ws, seq := x.seq + 1 }
  else match portCluster hw x with
    | none => setPort hw p { portErr x off cINGRESS 3 with seq := x.seq + 1 }
    | some cc =>
      let r : RecMsg := { words := ws, psn := false, asid := portAsid hw x, cc := cc, site := none, port := some p }
      setPort { hw with recs := hw.recs ++ [r] } p { x with words := [], hold := .record, curOff := off, seq := x.seq + 1 }

/-- Takes one token that is no HOIST or INSTALL. -/
def portTake (hw : Hw) (p : Nat) (x : Port) (off : BitVec 16) (t : Token) : Hw :=
  if x.err then setPort hw p { x with seq := x.seq + 1 }
  else match tokenCheck hw x t with
    | some (code, cause) => setPort hw p { portErr x off code cause with seq := x.seq + 1 }
    | none =>
      if t.kind == .header then portRecord hw p x t off
      else portSend (setPort hw p { x with seq := x.seq + 1 }) p x t

/-- Whether the token at the head of a stream is a HOIST or INSTALL that passes its checks, and so an event of its
own. -/
def portStops (hw : Hw) (x : Port) (t : Token) : Bool :=
  !x.err && t.kind == .config && (t.aux = 7#7 || t.aux = 8#7) && (tokenCheck hw x t).isNone

/-- Whether a port's stream is held: by a cut, or by a pre-emption of its hoist's ASID (13 R364 step 2, 16 R416 step 1). -/
def portHeld (hw : Hw) (p : Nat) : Bool :=
  hw.pkg.cut.state ≠ 0 || (match handleOf hw (portAt hw p).hoist with
    | some h => heldAsid hw h.asid
    | none => false)

/-- Whether the next token of a stream waits in its port: the stream is held, or the links towards the token's element are full
(00 R9). -/
def tokenWaits (hw : Hw) (p : Nat) (x : Port) (t : Token) : Bool :=
  portHeld hw p || (!x.err && toSlot t && (tokenCheck hw x t).isNone && linksFull hw t)

/-- Takes the tokens of a stream in order, up to a HOIST, an INSTALL, a hold or a token that waits: `n` at most. -/
def portRun (p : Nat) : Nat → Hw → Hw
  | 0, hw => hw
  | n + 1, hw =>
    let x := portAt hw p
    match x.queue with
    | [] => hw
    | (off, b) :: rest =>
      let t := tokenOf b
      if x.hold != .none || portStops hw x t || tokenWaits hw p x t then hw
      else portRun p n (portTake hw p { x with queue := rest } off t)

/-- Goes on with what waits in a port. -/
def portGo (hw : Hw) (p : Nat) : Hw := portRun p (portAt hw p).queue.length hw

/-- Goes on with what waits in every port. -/
def portsGo (hw : Hw) : Hw := hw.pkg.ports.foldl (fun hw x => portGo hw x.1) hw

/-- Ends a port's hold, with an error at the token that it waited at if there is one, and goes on. -/
def portFree (hw : Hw) (p : Nat) (err : Option (Nat × Nat)) : Hw :=
  let x := portAt hw p
  let y := { x with hold := .none }
  let z := match err with
    | some (code, cause) => { portErr { y with seq := y.seq - 1 } x.curOff code cause with seq := y.seq }
    | none => y
  portGo (setPort hw p z) p

/-! ## Events -/

/-- The tokens of a write with their aperture offsets. -/
def writeTokens (off : Nat) (bs : List Byte) : List (BitVec 16 × BitVec 128) :=
  (List.range (bs.length / 16)).map fun i =>
    (BitVec.ofNat 16 (off + 16 * i), BitVec.ofNat 128 (ofBytes ((bs.drop (16 * i)).take 16)))

/-- The port behind an aperture: the physical function's apertures are the ports in order, a virtual function's the ports of its partition
in ascending order (15 R382). -/
def aperturePort (hw : Hw) (by_ : Writer) (i : Nat) : Option Nat :=
  match by_ with
  | .function (n + 1) => ((List.range 64).filter fun p => partOfFunction hw (n + 1) (portAt hw p).part.toNat)[i]?
  | _ => if i < 64 then some i else none

/-- Whether a port withholds the credits of a write (15 R384): its dispatcher is full or a HOIST or INSTALL is in progress, an earlier write
is still being taken, or its stream is held. -/
def writeWaits (hw : Hw) (p : Nat) : Bool :=
  let x := portAt hw p
  portHolds hw x || x.hold != .none || !x.queue.isEmpty || portHeld hw p

/-- INGRESS_WRITE: a host write at an aperture is taken at NEXT, or discarded as misplaced (15 R383, R385). The upper
half of the aperture aliases the lower. -/
def execIngressWrite (at_ : Aperture) (offset : Nat) (bytes : List Byte) (s : State) : Res State :=
  match aperturePort s.hw at_.by_ at_.number with
  | none => .next s
  | some port =>
    let x := portAt s.hw port
    let off := BitVec.ofNat 16 offset
    if !x.en then .next s
    else if writeWaits s.hw port then .fault .notEnabled
    else if off ≠ x.next || bytes.length % 16 ≠ 0 || 65536 < bytes.length then
      .next { s with hw := setPort s.hw port (portErr x off cINGRESS 7) }
    else
      let x := { x with queue := writeTokens offset bytes, next := x.next + BitVec.ofNat 16 bytes.length }
      .next { s with hw := portGo (setPort s.hw port x) port }

/-- The HOIST or INSTALL at the head of a port's stream. -/
def portControl (hw : Hw) (p : Nat) (code : BitVec 7) : Option (BitVec 16 × Token × List (BitVec 16 × BitVec 128)) :=
  let x := portAt hw p
  match x.queue with
  | [] => none
  | (off, b) :: rest =>
    let t := tokenOf b
    if x.hold == .none && portStops hw x t && t.aux = code && !portHeld hw p then some (off, t, rest) else none

/-- HOIST: makes the named hoist the stream's current hoist; one that is not resident wakes the loader and holds the
stream, a resident one is used as it stands (15 R386). -/
def execHoist (port : Nat) (s : State) : Res State :=
  match portControl s.hw port 7#7 with
  | none => .fault .notEnabled
  | some (off, t, rest) =>
    let x := portAt s.hw port
    let r := t.value.extractLsb' 0 32
    let x := { x with queue := rest, seq := x.seq + 1, cur := t.value, curOff := off }
    if hoistResident s.hw r then .next { s with hw := portGo (setPort s.hw port { x with hoist := r }) port }
    else .next { s with hw := setPort s.hw port { x with hold := .hoist } }

/-- HOIST_PLACEMENT: the loader makes the hoist that a port waits for resident, its regions starting in the entry's
configuration, or fails the stream with cause 9 (15 R386). -/
def execHoistPlacement (port : Nat) (s : State) : Res State :=
  let x := portAt s.hw port
  let r := x.cur.extractLsb' 0 32
  if x.hold != .hoist || portHeld s.hw port then .fault .notEnabled
  else
    if hoistResident s.hw r then .next { s with hw := portFree (setPort s.hw port { x with hoist := r }) port none }
    else match placeHoist s.hw r (bits x.cur.toNat 32 16) with
      | .error code => .next { s with hw := portFree s.hw port (some (code, 9)) }
      | .ok hw => .next { s with hw := portFree (setPort hw port { portAt hw port with hoist := r }) port none }

/-- INSTALL: names the object version to install, and holds the stream until that is complete (15 R386, R392). -/
def execInstall (port : Nat) (s : State) : Res State :=
  match portControl s.hw port 8#7 with
  | none => .fault .notEnabled
  | some (off, t, rest) =>
    let x := portAt s.hw port
    .next { s with hw := setPort s.hw port { x with queue := rest, seq := x.seq + 1, cur := t.value, curOff := off, hold := .install } }

/-- The task types of an ASID after an installation of a version (10 R261, 15 R392). -/
def typesAfter (t : Tab TType) (asid : BitVec 10) (r : BitVec 32) (o : Obj) : Tab TType :=
  o.types.foldl (fun t x =>
    let e : TType := { handle := r, block := BitVec.ofNat 20 x.block, holds := x.holds, scratch := x.scratch, tags := x.tags, valid := true }
    tput t {} (asid.toNat * 4096 + x.idx) e) t

/-- Whether every resident hoist of an ASID passes the tag-budget check (03 R87). -/
def hoistsFit (hw : Hw) (asid : BitVec 10) : Bool :=
  hw.pkg.handles.all fun x => x.2.asid != asid || x.2.placed.isEmpty || (match x.2.body with
    | .object _ => true
    | .hoist q n => match objOf hw q with
      | some o => hoistBudget o (o.hoists.getD n []) (budgetTypes hw asid q)
      | none => true)

/-- INSTALL_COMPLETE: the task-type entries take effect, the versions they replace are superseded, and the named
counter is decremented; or the installation fails the tag budget and nothing of it is kept (15 R392, 03 R87). -/
def execInstallComplete (port : Nat) (s : State) : Res State :=
  let x := portAt s.hw port
  let v := x.cur.toNat
  let r := x.cur.extractLsb' 0 32
  if x.hold != .install || portHeld s.hw port then .fault .notEnabled
  else match handleOf s.hw r, objOf s.hw r with
    | some h, some o =>
      let old := (o.types.map fun t => (typeAt s.hw h.asid t.idx)).filter fun e => e.valid && e.handle != r
      let hw := modPkg s.hw fun p => { p with ttypes := typesAfter p.ttypes h.asid r o }
      if !hoistsFit hw h.asid then .next { s with hw := portFree s.hw port (some (cTAGBUDGET, 9)) }
      else
        let hw := old.foldl (fun hw e => match handleOf hw e.handle with
          | none => hw
          | some k => modPkg hw fun p => { p with handles := tins p.handles (bits e.handle.toNat 0 12) { k with newer := some r } }) hw
        let gone := o.types.map fun t => h.asid.toNat * 4096 + t.idx
        let hw := { hw with cls := hw.cls.map fun k => (k.1, { k.2 with tcache := k.2.tcache.filter fun i => !gone.contains i }) }
        let hw := if bit v 47 then decCnt hw (crefCl (bits v 32 15)) (crefIdx (bits v 32 15)) 1 false else hw
        .next { s with hw := portFree hw port none }
    | _, _ => .next { s with hw := portFree s.hw port (some (cHANDLE, 8)) }

end Sys2Proof.Machine
end

