-- ==== Sys2Proof/Machine/Tasking.lean ====
section
/-! DEFINITION. The cluster's task machinery: acceptance, routing and placement of tasks (10 R259, R265, R273, R274), lock
keys (10 R276 to R281), dispatch (10 R283), stale notices (10 R270) and counters (11 R310). -/
namespace Sys2Proof.Machine

/-! ## Tasks by identifier -/

/-- A task. -/
def taskAt (hw : Hw) (id : Nat) : Option Task := hw.tasks.find? fun t => t.id = id
/-- Writes a task. -/
def setTask (hw : Hw) (t : Task) : Hw := { hw with tasks := hw.tasks.map fun u => if u.id = t.id then t else u }

/-- A task in Acquiring whose record has arrived and whose keys are all held becomes Ready (10 R265, R277). -/
def settleTask (hw : Hw) (id : Nat) : Hw :=
  match taskAt hw id with
  | none => hw
  | some t =>
    if t.state = .acquiring && !t.transit && t.tries = 0 && t.want.isNone && t.held.length = (recKeys t.words).length then
      let (n, hw) := stamp hw
      setTask hw { t with state := .ready, readyAt := n }
    else hw

/-! ## Acceptance (10 R259, R265, R282) -/

/-- A record that is refused: its SPAWN's element freezes, or its stream takes cause 3 (10 R259, R294). -/
def refuseRecord (hw : Hw) (r : RecMsg) (d : Nat) : Hw :=
  match r.site, r.port with
  | some s, _ => freeze hw s.elem s.slot s.tag s.op (.issued s.slot s.tag (some (.record r))) cILLFIELD d
  | none, some p => portFree hw p (some (cINGRESS, 3))
  | none, none => hw

/-- A record becomes a task of its counter cluster (10 R265). -/
def acceptRecord (hw : Hw) (r : RecMsg) : Hw :=
  let (n, hw) := stamp hw
  let go := recWaitc r.words = 0x3FF || (cntAt hw r.cc (recWaitc r.words)).v = 0
  let t : Task :=
    { id := n, words := r.words, psn := r.psn, asid := r.asid, cc := r.cc, cl := r.cc, state := if go then .routing else .counterWait }
  let hw := { hw with tasks := hw.tasks ++ [t] }
  match r.site, r.port with
  | some s, _ => settle hw s (emitBoth hw s [mkTok 0 s.tag .order])
  | none, some p => portFree hw p none
  | none, none => hw

/-- Whether a record of a stream follows a CONFIG token of it that is still on its way: the stream's tokens are in order (15 R386). -/
def behindConfig (hw : Hw) (r : RecMsg) : Bool :=
  match r.port with
  | some p => hw.net.any fun fl => fl.src = .port p && fl.tok.kind == .config
  | none => false

/-- TASK_RECORD_ACCEPT: a record reaches its counter cluster's dispatcher, in its turn and where there is room. -/
def execTaskRecordAccept (n : Nat) (s : State) : Res State :=
  match s.hw.recs[n]? with
  | none => .fault .notEnabled
  | some r =>
    if decide (4096 ≤ heldRecords s.hw r.cc) || (s.hw.recs.take n).any (fun y => y.cc = r.cc) || behindConfig s.hw r then
      .fault .notEnabled
    else
      let hw := { s.hw with recs := dropAt s.hw.recs n }
      .next { s with hw := match recordFault hw r.asid r.words with
        | some d => refuseRecord hw r d
        | none => acceptRecord hw r }

/-! ## Routing (10 R273, R277) -/

/-- The home cluster of a task (10 R273). -/
def homeOf (hw : Hw) (t : Task) : Nat :=
  let part := tget hw.pkg.parts {} ((partOfAsid hw t.asid).getD 16)
  match recTrefs t.words with
  | [] => t.cc
  | r :: _ => match directoryNames hw t.asid r with
    | some k => if part.valid && part.clusters.getLsbD k then k else t.cc
    | none => t.cc

/-- A request of a task for a key. -/
def keyReq (t : Task) (k : BitVec 31 × Bool) : KeyReq := { task := t.id, home := t.cl, asid := t.asid, key := k.1, excl := k.2, resv := t.aged }

/-- Sends a task's record from the cluster that holds it to another (10 R282). -/
def sendTask (hw : Hw) (t : Task) (k : Nat) : Hw :=
  let (n, hw) := stamp hw
  setTask hw { t with cl := k, transit := k != t.cl, sender := t.cl, sentAt := n }

/-- Whether an earlier task that the same counter released is still to be routed: they leave in acceptance order (10 R265). -/
def behindReleased (hw : Hw) (t : Task) : Bool :=
  hw.tasks.any fun u => u.state == .routing && u.cc = t.cc && recWaitc u.words = recWaitc t.words && recWaitc t.words != 0x3FF &&
    decide (u.id < t.id)

/-- TASK_ROUTING: a task chooses its home cluster, sends its key tries, and its record travels there. -/
def execTaskRouting (task : Nat) (s : State) : Res State :=
  match taskAt s.hw task with
  | none => .fault .notEnabled
  | some t =>
    if t.state ≠ .routing || behindReleased s.hw t then .fault .notEnabled
    else
      let home := homeOf s.hw t
      let keys := recKeys t.words
      let hw := sendTask s.hw { t with state := .acquiring, tries := keys.length, visited := [home], grantAt := s.hw.now } home
      let t := { t with cl := home }
      let hw := { hw with keyMsgs := hw.keyMsgs ++ keys.map fun k => KeyMsg.try_ (keyReq t k) }
      .next { s with hw := settleTask hw task }

/-- ROUTED_RECORD_ARRIVAL: a record in transit reaches its cluster's dispatcher, which must have room; the records that one cluster sends to
another keep their places (10 R282). -/
def execRoutedRecordArrival (n : Nat) (s : State) : Res State :=
  match taskAt s.hw n with
  | none => .fault .notEnabled
  | some t =>
    if !t.transit || decide (4096 ≤ heldRecords s.hw t.cl) ||
        s.hw.tasks.any (fun u => u.transit && u.sender = t.sender && u.cl = t.cl && decide (u.sentAt < t.sentAt)) then .fault .notEnabled
    else .next { s with hw := settleTask (setTask s.hw { t with transit := false }) n }

/-! ## Key slices (10 R278, R280) -/

/-- Whether a mode is compatible with an entry's holders. -/
def compatible (e : KeyEntry) (excl : Bool) : Bool := e.holders.isEmpty || (!excl && e.holders.all fun h => !h.2)

/-- Answers a try or request. -/
def keyReply (hw : Hw) (r : KeyReq) (granted wasTry : Bool) : Hw := { hw with keyMsgs := hw.keyMsgs ++ [.reply r granted wasTry] }

/-- Whether a slice has an entry free for a new key: each reserved request that waits for one has the first call on one that frees
(10 R278, R279). -/
def sliceFree (hw : Hw) (k : BitVec 31) : Bool :=
  let c := clAt hw (sliceOf k.toNat)
  decide (c.keys.length + (c.keyWait.filter (·.resv)).length < 2048)

/-- Whether a request for the same key waits at its slice for an entry: no later request passes it (10 R278). -/
def keyWaits (hw : Hw) (r : KeyReq) : Bool :=
  (clAt hw (sliceOf r.key.toNat)).keyWait.any fun x => x.asid = r.asid && x.key = r.key

/-- Grants a key to a request. -/
def grantKey (e : KeyEntry) (r : KeyReq) : KeyEntry := { e with holders := e.holders ++ [(r.task, r.excl)] }

/-- A new entry for a request's key. -/
def newKey (r : KeyReq) : KeyEntry := { asid := r.asid, key := r.key, holders := [], queue := [] }

/-- A try at its slice (10 Table 10.6). -/
def tryKey (hw : Hw) (r : KeyReq) : Hw :=
  match keyAt hw r.asid r.key with
  | none => if sliceFree hw r.key then keyReply (putKey hw (grantKey (newKey r) r)) r true true else keyReply hw r false true
  | some e =>
    if e.queue.isEmpty && compatible e r.excl then keyReply (putKey hw (grantKey e r)) r true true else keyReply hw r false true

/-- A request that has an entry (10 Table 10.6). -/
def requestAt (hw : Hw) (e : KeyEntry) (r : KeyReq) : Hw :=
  if e.queue.isEmpty && compatible e r.excl then keyReply (putKey hw (grantKey e r)) r true false
  else putKey hw { e with queue := e.queue ++ [r] }

/-- A request at its slice: it waits there for an entry if the slice is full (10 R280). -/
def requestKey (hw : Hw) (r : KeyReq) : Hw :=
  let waits := modCl hw (sliceOf r.key.toNat) fun c => { c with keyWait := c.keyWait ++ [r] }
  if keyWaits hw r then waits
  else match keyAt hw r.asid r.key with
    | some e => requestAt hw e r
    | none => if sliceFree hw r.key then requestAt hw (newKey r) r else waits

/-- Grants from the head of a key's queue (10 R278): `n` rounds; the entry and the requests granted. -/
def grantHead : Nat → KeyEntry → KeyEntry × List KeyReq
  | 0, e => (e, [])
  | n + 1, e => match e.queue with
    | [] => (e, [])
    | r :: q =>
      if compatible e r.excl then
        let (e, l) := grantHead n (grantKey { e with queue := q } r)
        (e, r :: l)
      else (e, [])

/-- A release at its slice: the task's holding and waiting requests go, and the queue is granted from its head. -/
def releaseKey (hw : Hw) (task : Nat) (asid : BitVec 10) (k : BitVec 31) : Hw :=
  let hw := modCl hw (sliceOf k.toNat) fun c =>
    { c with keyWait := c.keyWait.filter fun r => !(r.task = task && r.asid = asid && r.key = k) }
  match keyAt hw asid k with
  | none => hw
  | some e =>
    let e := { e with holders := e.holders.filter (fun h => h.1 != task), queue := e.queue.filter fun r => r.task != task }
    let (e, l) := grantHead e.queue.length e
    l.foldl (fun hw r => keyReply hw r true false) (putKey hw e)

/-- The task and key of a key message. -/
def keyMsgOf : KeyMsg → Nat × BitVec 31
  | .try_ r => (r.task, r.key)
  | .request r => (r.task, r.key)
  | .reply r _ _ => (r.task, r.key)
  | .release t _ k => (t, k)

/-- A key message in its order: none of the same task and key stands before it. -/
def keyMsgAt (hw : Hw) (n : Nat) : Option (KeyMsg × Hw) :=
  match hw.keyMsgs[n]? with
  | none => none
  | some m =>
    if (hw.keyMsgs.take n).any fun y => keyMsgOf y = keyMsgOf m then none
    else some (m, { hw with keyMsgs := dropAt hw.keyMsgs n })

/-- KEY_TRY (10 R278). -/
def execKeyTry (n : Nat) (s : State) : Res State :=
  match keyMsgAt s.hw n with
  | some (.try_ r, hw) => .next { s with hw := tryKey hw r }
  | _ => .fault .notEnabled

/-- KEY_REQUEST (10 R278). -/
def execKeyRequest (n : Nat) (s : State) : Res State :=
  match keyMsgAt s.hw n with
  | some (.request r, hw) => .next { s with hw := requestKey hw r }
  | _ => .fault .notEnabled

/-- KEY_RELEASE (10 R278). -/
def execKeyRelease (n : Nat) (s : State) : Res State :=
  match keyMsgAt s.hw n with
  | some (.release t a k, hw) => .next { s with hw := releaseKey hw t a k }
  | _ => .fault .notEnabled

/-- Sends the request of the lowest key that a task does not hold yet (10 R277 step 2). -/
def nextRequest (hw : Hw) (t : Task) : Hw :=
  match (recKeys t.words).find? fun k => !(t.held.any fun h => h.1 = k.1) with
  | none => settleTask hw t.id
  | some k =>
    let t := { t with want := some k.1 }
    let hw := setTask hw t
    { hw with keyMsgs := hw.keyMsgs ++ [.request (keyReq t k)] }

/-- The end of a task's try phase: Ready, or the ordered phase from the lowest key refused (10 R277). -/
def afterTries (hw : Hw) (t : Task) : Hw :=
  match argMin (fun (k : BitVec 31) => k.toNat) t.refused with
  | none => settleTask (setTask hw t) t.id
  | some k =>
    let above := t.held.filter fun h => decide (k.toNat < h.1.toNat)
    let t := { t with held := t.held.filter (fun h => decide (h.1.toNat < k.toNat)), refused := [] }
    let hw := setTask hw t
    nextRequest { hw with keyMsgs := hw.keyMsgs ++ above.map fun h => .release t.id t.asid h.1 } t

/-- A grant or refusal that reaches its task. -/
def takeReply (hw : Hw) (t : Task) (r : KeyReq) (granted wasTry : Bool) : Hw :=
  let t := if granted then { t with held := t.held ++ [(r.key, r.excl)] } else { t with refused := t.refused ++ [r.key] }
  if wasTry then
    let t := { t with tries := t.tries - 1, grantAt := if granted then hw.now else t.grantAt }
    if t.tries = 0 then afterTries hw t else setTask hw t
  else
    let t := { t with want := none, grantAt := hw.now }
    nextRequest (setTask hw t) t

/-- KEY_REPLY: grants and refusals reach the home cluster (10 R277); a grant to a task that has gone is released. -/
def execKeyReply (n : Nat) (s : State) : Res State :=
  match keyMsgAt s.hw n with
  | some (.reply r granted wasTry, hw) =>
    .next { s with hw := match taskAt hw r.task with
      | some t => takeReply hw t r granted wasTry
      | none => if granted then { hw with keyMsgs := hw.keyMsgs ++ [.release r.task r.asid r.key] } else hw }
  | _ => .fault .notEnabled

/-- Marks a task's requests as reserved wherever they are (10 R279). -/
def reserve (hw : Hw) (task : Nat) : Hw :=
  let mark := fun (r : KeyReq) => if r.task = task then { r with resv := true } else r
  { hw with
    cls := hw.cls.map fun k => (k.1, { k.2 with keys := k.2.keys.map (fun e => { e with queue := e.queue.map mark }), keyWait := k.2.keyWait.map mark })
    keyMsgs := hw.keyMsgs.map fun m => match m with
      | .request r => .request (mark r)
      | m => m }

/-- KEY_AGING: a task that has waited 64 rounds of 16 cycles for a key since its last grant (10 R279). -/
def execKeyAging (task : Nat) (s : State) : Res State :=
  match taskAt s.hw task with
  | none => .fault .notEnabled
  | some t =>
    if t.state ≠ .acquiring || t.aged || t.want.isNone || decide (s.hw.now < t.grantAt + 1024) then .fault .notEnabled
    else .next { s with hw := reserve (setTask s.hw { t with aged := true }) task }

/-- The requests that wait for an entry of a slice, the reserved ones first. -/
def waitOrder (l : List KeyReq) : List KeyReq := l.filter (·.resv) ++ l.filter fun r => !r.resv

/-- KEY_ENTRY_RETRY: the key of the first waiting request of a slice that can have an entry takes it, for the earliest of the key's requests
(10 R278, R279, R280). -/
def execKeyEntryRetry (cl : Nat) (s : State) : Res State :=
  let c := clAt s.hw cl
  let can := fun (r : KeyReq) => (keyAt s.hw r.asid r.key).isSome || decide (c.keys.length < 2048)
  match ((waitOrder c.keyWait).find? can).bind fun x => c.keyWait.find? fun r => r.asid = x.asid && r.key = x.key with
  | none => .fault .notEnabled
  | some r =>
    let hw := setCl s.hw cl { c with keyWait := eraseFirst (fun x => x = r) c.keyWait }
    .next { s with hw := requestAt hw ((keyAt hw r.asid r.key).getD (newKey r)) r }

/-! ## Dispatch (10 R274, R275, R283) -/

/-- Whether a task waits for a start: Ready at its cluster, or Saved and resumed. -/
def startable (hw : Hw) (t : Task) : Bool :=
  !t.transit && !heldAsid hw t.asid && (t.state == .ready || t.state == .saved)

/-- The block with which a task starts or resumes. -/
def startBlock (hw : Hw) (t : Task) : BitVec 32 × Nat :=
  let ty := typeAt hw t.asid (recType t.words)
  (ty.handle, ((t.resume.map (·.toNat)).getD ty.block.toNat))

/-- Whether a core's task area and context suffice for a task. -/
def areaOk (hw : Hw) (c : Nat) (t : Task) : Bool :=
  decide ((typeAt hw t.asid (recType t.words)).scratch ≤ min 32 (tget (clAt hw (clOf c)).tarea 0 (c % 8)).toNat)

/-- Whether a frame of a core holds a task's block, Resident or Cached, whatever activations are open in it (10 R274). -/
def holdsReady (hw : Hw) (c : Nat) (t : Task) : Bool :=
  let x := coreAt hw c
  let b := startBlock hw t
  (List.range 8).any fun f => blockThere x t.asid (currentRef hw 4096 b.1) b.2 f && (frameAt x f).state != .transient

/-- Whether a core is eligible for a task (10 R274). -/
def eligible (hw : Hw) (c : Nat) (t : Task) : Bool :=
  let x := coreAt hw c
  partOfCl hw (clOf c) == partOfAsid hw t.asid && !x.gated && ((List.range 16).any fun n => (ctxAt x n).state == .free) && areaOk hw c t &&
    (holdsReady hw c t || (takenFrame hw c).isSome)

/-- The score of a core for a task (10 R275). -/
def score (hw : Hw) (c : Nat) (t : Task) : Nat :=
  let l := (clAt hw (clOf c)).res.filter fun e => e.state == .valid && e.asid = t.asid
  let sum := fun (p : ResEntry → Bool) =>
    ((recTrefs t.words).map fun r => ((l.filter fun e => e.tref.toNat = r && p e).map (·.bytes)).sum).sum
  sum (fun e => decide (e.loc < 16) && e.loc / 2 = c % 8) + sum (fun e => e.loc = 16) / 2

/-- Contexts in use on a core. -/
def load (hw : Hw) (c : Nat) : Nat := ((List.range 16).filter fun n => (ctxAt (coreAt hw c) n).state != .free).length

/-- The core on which a task starts: the highest score, then the lowest load, then the first at or after the rotor
(10 R275). -/
def chooseCore (hw : Hw) (cl : Nat) (t : Task) : Option Nat :=
  let l := ((List.range 8).map fun i => cl * 8 + ((clAt hw cl).rotor.toNat + i) % 8).filter fun c => eligible hw c t
  let top := (l.map fun c => score hw c t).foldl max 0
  argMin (load hw) (l.filter fun c => score hw c t = top)

/-- The startable tasks of a cluster that have an eligible core and a weight, in the order they became Ready. -/
def candidates (hw : Hw) (cl : Nat) : List Task :=
  hw.tasks.filter fun t => t.cl = cl && startable hw t && (tget (clAt hw cl).asidw 1 t.asid.toNat) != 0 && (chooseCore hw cl t).isSome

/-- The ASID whose turn it is within a level, and the pointer and count after its start (10 R283 step 2). -/
def turnOf (hw : Hw) (cl lvl : Nat) (l : List Task) : Option (BitVec 10 × Nat × Nat) :=
  let c := clAt hw cl
  let (ptr, n) := tget c.levels (0, 0) lvl
  match argMin (fun (t : Task) => (t.asid.toNat + 1024 - ptr) % 1024) l with
  | none => none
  | some t =>
    let a := t.asid.toNat
    let k := (if a = ptr then n else 0) + 1
    let w := (tget c.asidw 1 a).toNat
    some (t.asid, if w ≤ k then ((a + 1) % 1024, 0) else (a, k))

/-- The task that a cluster's dispatcher starts next, with the level and its pointer (10 R283). -/
def pickTask (hw : Hw) (cl : Nat) : Option (Task × Nat × Nat × Nat) :=
  let l := candidates hw cl
  match argMin (fun (t : Task) => 7 - recPrio t.words) l with
  | none => none
  | some top =>
    let lvl := recPrio top.words
    let l := l.filter fun t => recPrio t.words = lvl
    match turnOf hw cl lvl l with
    | none => none
    | some (a, p, n) => (argMin (fun (t : Task) => t.readyAt) (l.filter fun t => t.asid = a)).map fun t => (t, lvl, p, n)

/-- The context with which a task starts (10 R283, 06 R173), or resumes (13 R370). -/
def startCtx (t : Task) : Ctx :=
  match t.saved with
  | some k => { k with state := .running, task := t.id, next := none, record := {} }
  | none =>
    let tr := (List.range 8).foldl (fun (h : Tab (Word × Bool)) i => tput h (0, false) i (BitVec.ofNat 64 (recTref t.words i), t.psn)) []
    { state := .running, hold := tput tr (0, false) 8 (BitVec.ofNat 64 (recArg t.words), t.psn), asid := t.asid, poison := t.psn, task := t.id }

/-- Writes a saved slice back to the task area of the context that resumes it (13 R370). -/
def putArea (m : Mem) (hw : Hw) (c i : Nat) (t : Task) : Mem × Hw :=
  let (lo, n) := taskSlice hw c i
  let m := t.area.foldl (fun m b => putByte m (lo + b.1) b.2) m
  let m := t.areaPsn.foldl (fun m a => poisonLine m (lo + a)) m
  (m, if t.area.isEmpty then hw else afterRange m hw lo n)

/-- Starts a task on a core, in a frame and context, with the PX entries saved with it (13 R370); a block that cannot be fetched parks it
(06 R178), and one that no frame can hold yet is the task's next block, for which it waits at the core (06 R163 step 4). None while the
entries must wait. -/
def startOn (m : Mem) (hw : Hw) (c : Nat) (t : Task) : Option (Mem × Hw) :=
  let (h, b) := startBlock hw t
  match pxBack (t.px.map fun x => (c, x)) hw, (least 16 fun n => (ctxAt (coreAt hw c) n).state == .free) with
  | some hw, some n =>
    let (m, hw, r) := ((blockFrame m hw c t.asid h b).map fun (m, hw, r) => (m, hw, some r)).getD
      (m, hw, (none : Option (Except (Nat × Nat) Nat)))
    let first : Succ :=
      { block := BitVec.ofNat 20 b, exit := 0, srcblk := 0, srchnd := h, srcSeq := (coreAt hw c).nextSeq }
    let hw := setTask hw
      { t with state := .running, core := c, ctx := n, saved := none, area := [], areaPsn := [], px := [], resume := none, visited := [t.cl] }
    let hw := modCore hw c fun x => setCtx x n { startCtx t with handle := h }
    let (m, hw) := putArea m hw c n t
    some (match r with
      | some (.ok f) => (m, openBlock hw c f n)
      | some (.error (k, tva)) =>
        let nx := { first with failed := some (BitVec.ofNat 4 k, tva) }
        (m, parkIfDue (modCore hw c fun x => setCtx x n { ctxAt x n with next := some nx }) c n)
      | none => (m, modCore hw c fun x => setCtx x n { ctxAt x n with next := some first }))
  | _, _ => none

/-- TASK_START: a cluster's dispatcher starts one task (10 R283). -/
def execTaskStart (cl : Nat) (s : State) : Res State :=
  match pickTask s.hw cl with
  | none => .fault .notEnabled
  | some (t, lvl, p, n) =>
    match (chooseCore s.hw cl t).bind fun c => startOn s.mem s.hw c t with
    | none => .fault .notEnabled
    | some (m, hw) =>
      let key := t.asid.toNat * 4096 + recType t.words
      let hw := modCl hw cl fun c =>
        { c with levels := tput c.levels (0, 0) lvl (p, n), rotor := c.rotor + 1, starts := c.starts + 1
                 tcache := (key :: c.tcache.filter fun i => i != key).take 256 }
      .next { mem := m, hw := hw }

/-- Whether a core could ever be eligible for a task, as its regions and task area stand (10 R274). -/
def everEligible (hw : Hw) (c : Nat) (t : Task) : Bool :=
  let b := startBlock hw t
  areaOk hw c t && ((List.range 8).any fun f => (regionOf hw c f).isNone ||
    (let fr := frameAt (coreAt hw c) f
     fr.state == .resident && fr.asid = t.asid && fr.handle = currentRef hw 4096 b.1 && fr.block.toNat = b.2))

/-- TASK_REROUTE: a task, Ready or Saved and resumed, whose cluster can never have an eligible core goes to the next cluster of its
partition, or leaves as at a discard when it has visited every one (10 R265, R274). -/
def execTaskReroute (task : Nat) (s : State) : Res State :=
  match taskAt s.hw task with
  | none => .fault .notEnabled
  | some t =>
    if !startable s.hw t || (List.range 8).any fun i => everEligible s.hw (t.cl * 8 + i) t then .fault .notEnabled
    else
      let ks := partClusters (tget s.hw.pkg.parts {} ((partOfAsid s.hw t.asid).getD 16))
      match argMin (fun k => (k + 32 - t.cl) % 32) (ks.filter fun k => !t.visited.contains k) with
      | none => .next { s with hw := report (discardTask s.hw t) t.cl cHANDLE (recWord t.words 0) }
      | some k => .next { s with hw := sendTask s.hw { t with state := .acquiring, visited := t.visited ++ [k] } k }

/-! ## Residency notices and counters -/

/-- RESIDENCY_STALE_NOTICE: the entries of a cluster that a notice names become stale, a filling one when it is full
(10 R270). -/
def execResidencyStaleNotice (n : Nat) (s : State) : Res State :=
  match s.hw.notices[n]? with
  | none => .fault .notEnabled
  | some (cl, a, tref) =>
    let (k, hw) := stamp { s.hw with notices := dropAt s.hw.notices n }
    let hit := fun (e : ResEntry) =>
      if e.asid ≠ a || e.tref ≠ tref then e
      else if e.state == .valid then { e with state := .stale, made := k }
      else if e.state == .filling then { e with notice := true } else e
    .next { s with hw := setRes hw cl ((clAt hw cl).res.map hit) }

/-- The ORDER that answers a counter operation. -/
def cntOrder (hw : Hw) (s : Option Site) : Hw :=
  match s with
  | some x => settle hw x (emitBoth hw x [mkTok 0 x.tag .order])
  | none => hw

/-- The unit that a source stands for in the order of counter operations: an element, whichever its slot (11 R310). -/
def cntSource : Src → Src
  | .slot e _ _ => .slot e 0 0
  | x => x

/-- COUNTER_APPLY: a counter applies an operation, those of one element in the order of their issue (11 R310). -/
def execCounterApply (n : Nat) (s : State) : Res State :=
  match s.hw.cntOps[n]? with
  | none => .fault .notEnabled
  | some o =>
    if (s.hw.cntOps.take n).any fun y => cntSource y.src = cntSource o.src && y.cl = o.cl && y.idx = o.idx then .fault .notEnabled
    else
      let hw := { s.hw with cntOps := dropAt s.hw.cntOps n }
      .next { s with hw := match o.body with
        | .init v f x => cntOrder (initCnt hw o.cl o.idx v f) x
        | .dec d f x => cntOrder (decCnt hw o.cl o.idx d.toNat f) x
        | .wait x => postWait hw o.cl o.idx x }

/-- The waits of every cluster, in the clusters' order. -/
def allWaits (hw : Hw) : List (Nat × CntWait) := hw.cls.flatMap fun k => k.2.waits.map fun w => (k.1, w)

/-- CNTWAIT_RETRY: a returned CNTWAIT reaches its counter again (11 R310). -/
def execCntwaitRetry (n : Nat) (s : State) : Res State :=
  match (allWaits s.hw)[n]? with
  | none => .fault .notEnabled
  | some (cl, w) =>
    if !w.returned || decide (s.hw.now < w.due) then .fault .notEnabled
    else
      let hw := modCl s.hw cl fun c => { c with waits := eraseFirst (fun y => y = w) c.waits }
      .next { s with hw := postWait hw cl w.idx w.site }

end Sys2Proof.Machine
end

