-- ==== Sys2Proof/Machine/Actions.lean ====
section
/-! DEFINITION. Service cores: the actions of 13 Table 13.9 on generators, nodes, stall records and regions, and the
services of 13 Table 13.8 (13 R357 to R360). -/
namespace Sys2Proof.Machine

/-! ## Inboxes -/

/-- Service core `sc` of a die. -/
def scAt (hw : Hw) (die sc : Nat) : ServiceCore := tget (dieAt hw die).scs {} sc
/-- Writes service core `sc` of a die. -/
def setSc (hw : Hw) (die sc : Nat) (x : ServiceCore) : Hw := modDie hw die fun d => { d with scs := tput d.scs {} sc x }

/-- Whether a SERVICE token is a request (13 R357); the others are reports. -/
def isRequest (m : SvcMsg) : Bool := m.tok.aux.getLsbD 6

/-- The reports at the front of the inbox that serves a cluster are read (log 16). -/
def readReports (hw : Hw) (cl : Nat) : Hw :=
  let sc := scOf hw cl
  let x := scAt hw (cl / 8) sc
  setSc hw (cl / 8) sc { x with inbox := x.inbox.dropWhile fun m => !isRequest m }

/-- A service action on a unit of a cluster: refused, with nothing changed, where the unit is in another state than the
one listed (13 R359). -/
def action (ok : Bool) (cl : Nat) (s : State) (hw : Hw) : Res State :=
  if ok then .next { s with hw := readReports hw cl } else .next s

/-! ## Actions (13 Table 13.9) -/

/-- A stopped generator goes on in another state, with no failure of its own remembered; its frame's stall watch starts anew
(11 R315, 13 R337). -/
def genUnstop (hw : Hw) (core g : Nat) (y : Gen) : Hw :=
  let hw := forgetFails (setGen hw core g y) (dieOf core) (core % 64)
  match y.site with
  | some s => moved hw core s.frame
  | none => hw

/-- A stopped generator runs again from POS with its queue kept; a CANCEL that waited for this now ends it (07 R217,
R219). -/
def genResume (hw : Hw) (core g : Nat) : Hw :=
  let x := genAt hw core g
  genUnstop hw core g (if x.cancel then genCancel x none else { x with state := .running, record := {} })

/-- GENRESUME (07 R217). -/
def execGenresume (core g : Nat) (s : State) : Res State :=
  action ((genAt s.hw core g).state == .stopped) (clOf core) s (genResume s.hw core g)

/-- A stopped generator ends its stream as a CANCEL does, with a FAULT of the record's code and VA on T1 (07 R217). -/
def genAbort (hw : Hw) (core g : Nat) : Hw :=
  let x := genAt hw core g
  genUnstop hw core g (genCancel x (some (x.record.code.toNat, x.record.fva.toNat, x.record.pos.toNat)))

/-- GENABORT (07 R217). -/
def execGenabort (core g : Nat) (s : State) : Res State :=
  action ((genAt s.hw core g).state == .stopped) (clOf core) s (genAbort s.hw core g)

/-- NODECLEAR of a core with a frozen node (08 R252); the stall watches of the nodes' frames start anew (11 R315). -/
def execNodeclear (core : Nat) (s : State) : Res State :=
  let x := coreAt s.hw core
  action (x.nodes.any fun n => n.2.stop.isSome) (clOf core) s
    ((x.nodes.filterMap fun n => stopFrame x n.2).foldl (fun hw f => moved hw core f) (nodeClear s.hw core))

/-- STALLCLEAR: a record's VALID clears and its watch counts again (07 R227, 11 R315). -/
def execStallclear (r : StallRef) (s : State) : Res State :=
  match r with
  | .channel c n =>
    let e := epAt s.hw c n
    action e.stall.valid (clOf c) s (setEp s.hw c n { e with stall := { e.stall with valid := false }, since := none })
  | .quiesce k i =>
    let q := tget (clAt s.hw k).qstall {} i
    action q.valid k s (modCl s.hw k fun c =>
      { c with qstall := tput c.qstall {} i { q with valid := false }, qsince := tput c.qsince 0 i s.hw.now })

/-- REGIONABORT (13 R360). -/
def execRegionabort (cl rc : Nat) (s : State) : Res State :=
  action (rcAt s.hw cl rc).valid cl s (regionAbort s.hw cl rc)

/-! ## Services (13 R357) -/

/-- The service number of a request (13 R357). -/
def svcNum (m : SvcMsg) : Nat := bits m.tok.aux.toNat 0 6

/-- Takes the first request that satisfies `p` out of an inbox, with the reports before it. -/
def takeRequest (hw : Hw) (die sc : Nat) (p : SvcMsg → Bool) : Option (SvcMsg × Hw) :=
  let x := scAt hw die sc
  let mine := fun (m : SvcMsg) => isRequest m && p m
  if x.reset then none
  else match x.inbox.find? mine with
    | none => none
    | some m => some (m, setSc hw die sc { x with inbox := (eraseFirst mine x.inbox).dropWhile fun m => !isRequest m })

/-- Sends the reply of an SVC firing on its way: DATA, or a FAULT of a code (13 R358). -/
def svcAnswer (hw : Hw) (m : SvcMsg) (fault : Option (BitVec 8)) (v : Word) : Hw :=
  match m.reply, m.site with
  | true, some s => { hw with replies := hw.replies ++ [{ site := s, fault := fault, value := v }] }
  | _, _ => hw

/-- Refuses a request (13 R357). -/
def svcRefuse (hw : Hw) (m : SvcMsg) : Hw :=
  svcAnswer { hw with free := hw.free + 1 } m (some (BitVec.ofNat 8 cREFUSED)) (Config.refusalDetail hw.free)

/-- A service that takes its first request. -/
def serve (die sc : Nat) (p : SvcMsg → Bool) (s : State) (go : SvcMsg → Hw → Hw) : Res State :=
  match takeRequest s.hw die sc p with
  | none => .fault .notEnabled
  | some (m, hw) => .next { s with hw := go m hw }

/-- ECHO: the value sent. -/
def execEcho (die sc : Nat) (s : State) : Res State :=
  serve die sc (fun m => svcNum m == 0) s fun m hw => svcAnswer hw m none m.tok.value

/-- Whether the page of a VA is present for an ASID (13 R335). -/
def pagePresent (m : Mem) (hw : Hw) (die : Nat) (asid : BitVec 10) (va : Word) : Bool :=
  decide (va.toNat < 2 ^ 48) && (match walk m hw die asid va.toNat false with
    | .ok _ => true
    | .error _ => false)

/-- The codes with which system software refuses a MAPREQ (13 Table 13.8). -/
def mapRefusal (c : BitVec 8) : Bool := c = BitVec.ofNat 8 cPAGE || c = BitVec.ofNat 8 cPROT

/-- MAPREQ: 0 once the page is present, whatever waits before it, or the code with which system software refuses the first,
PAGE_NOT_PRESENT or PROTECTION. -/
def execMapreq (die sc : Nat) (refusal : Option (BitVec 8)) (s : State) : Res State :=
  let there := fun (m : SvcMsg) => svcNum m == 1 && pagePresent s.mem s.hw die m.asid m.tok.value
  match takeRequest s.hw die sc there with
  | some (m, hw) => .next { s with hw := svcAnswer hw m none 0 }
  | none => match refusal with
    | none => .fault .notEnabled
    | some c =>
      if mapRefusal c then serve die sc (fun m => svcNum m == 1) s fun m hw => svcAnswer hw m none (c.setWidth 64)
      else .fault .notEnabled

/-- LOG: the value joins the event log of the caller's partition; the reply is 0. -/
def execLog (die sc : Nat) (s : State) : Res State :=
  serve die sc (fun m => svcNum m == 2) s fun m hw =>
    let hw := match partOfAsid hw m.asid with
      | none => hw
      | some p => modPkg hw fun g => { g with logs := tput g.logs [] p (tget g.logs [] p ++ [m.tok.value]) }
    svcAnswer hw m none 0

/-- Discards the calling task of a request, while it is still there, or aborts the calling region (13 Table 13.8). -/
def abortCaller (hw : Hw) (m : SvcMsg) : Hw :=
  match m.task, m.site with
  | some id, _ => match taskAt hw id with
    | some t => discardTask hw t
    | none => hw
  | none, some s => match regionOf hw (coreOf s.elem) s.frame with
    | some (k, i, _) => regionAbort hw k i
    | none => hw
  | none, none => hw

/-- ABORTSELF: no reply. -/
def execAbortself (die sc : Nat) (s : State) : Res State :=
  serve die sc (fun m => svcNum m == 3) s fun m hw => abortCaller hw m

/-- HOST_SERVICE: the host driver replies, or refuses. -/
def execHostService (die sc : Nat) (reply : Option Word) (s : State) : Res State :=
  serve die sc (fun m => decide (32 ≤ svcNum m)) s fun m hw => match reply with
    | some v => svcAnswer hw m none v
    | none => svcRefuse hw m

/-- SERVICE_REFUSED: a number that is not listed. -/
def execServiceRefused (die sc : Nat) (s : State) : Res State :=
  serve die sc (fun m => decide (4 ≤ svcNum m ∧ svcNum m < 32)) s fun m hw => svcRefuse hw m

/-- SVC_REPLY: each target of the SVC receives the reply (13 R358). -/
def execSvcReply (n : Nat) (s : State) : Res State :=
  match s.hw.replies[n]? with
  | none => .fault .notEnabled
  | some r =>
    let t := match r.fault with
      | none => mkTok 0 r.site.tag .data r.value
      | some c => mkTok 0 r.site.tag .fault r.value (c.setWidth 7)
    let hw := { s.hw with replies := dropAt s.hw.replies n }
    .next { s with hw := settle hw r.site (emitBoth hw r.site [t]) }

end Sys2Proof.Machine
end

