-- ==== Sys2Proof/Machine/HomeEvents.lean ====
section
/-! DEFINITION. Accesses at their homes (11 R298, 07 R200 to R203, R211, R212), accesses that leave for another package
(16 R410, R412), monitor entries (11 R312): ACCESS_AT_HOME, ATOMIC_AT_HOME, STREL_RELEASE, BANK_STARVATION_GRANT,
MONITOR_POST, MONITOR_DEADLINE. -/
namespace Sys2Proof.Machine

/-! ## Reading and writing at a home -/

/-- `w` bytes at a local address with their poison. Bytes of register space are those of the register (log 17). -/
def homeRead (m : Mem) (hw : Hw) (l w : Nat) : Nat × Bool × Hw :=
  if inRegs l then
    let r := regRead hw (l / 8 * 8)
    (bits r.1.toNat (8 * (l % 8)) (8 * w), false, r.2)
  else (memRead m l w, rangePsn m l w, hw)

/-- Writes `w` bytes at a local address for an ASID; none while a register's action cannot start. A register takes the write of its
owner only (11 R311; log 77); one narrower than it is ignored (log 17). -/
def homePut (asid : BitVec 10) (m : Mem) (hw : Hw) (l w v : Nat) (psn : Bool) : Option (Mem × Hw) :=
  if inRegs l then (if w = 8 then regStore asid m hw l (BitVec.ofNat 64 v) else some (m, hw))
  else some (homeWrite m hw l w v psn)

/-! ## Completion -/

/-- The access code of a kind (07 Table 7.4). -/
def accCode : AccKind → Nat
  | .load .. => 0
  | .store => 1
  | .atomic .. => 2
  | .monitor .. => 2
  | .genRead .. => 3
  | .rowLine .. => 5
  | .fetchWord => 4

/-- Fills a word that a firing waits for (16 R412). -/
def fillWord (hw : Hw) (a : Access) (v : Nat) (psn : Bool) : Hw :=
  { hw with scratch := hw.scratch.map fun x =>
      if scratchOf a.site x && !x.page && x.key = a.pa then { x with got := some (BitVec.ofNat 64 v, psn) } else x }

/-- Ends an access with the value read (of a store, none) and, of a WAITA, its status. -/
def endAccess (hw : Hw) (a : Access) (v : Nat) (psn : Bool) (status : Nat := 0) : Hw :=
  match a.kind with
  | .load sgn acq =>
    let hw := if acq then countIssued hw a.site a.lsid.toNat else hw
    settle hw a.site (loadOut hw a.site sgn a.width v (psn || a.psn))
  | .store => settle hw a.site (emitBoth hw a.site [mkTok 0 a.site.tag .order])
  | .atomic _ _ _ _ _ sgn => settle hw a.site (loadOut hw a.site sgn a.width v psn)
  | .monitor _ _ _ sgn => monDone hw a.site a.width v sgn psn status
  | .genRead g pos => genFill hw a.core g pos a.id v psn
  | .fetchWord => fillWord hw a v psn
  | .rowLine .. =>
    if hw.acc.any fun y => y.site = a.site && (match y.kind with
      | .rowLine .. => true
      | _ => false) then hw
    else settle hw a.site (emitBoth hw a.site [mkTok 0 a.site.tag .order])

/-- A fault that an access meets after it has issued: a generator stops at the position, the firing that waits for a
word faults, any other unit's element freezes with the access to be made again (07 R217, 03 R98, 16 R412). -/
def accFault (hw : Hw) (a : Access) (code detail : Nat) : Hw :=
  let s := a.site
  match a.kind with
  | .genRead g pos =>
    let x := genAt hw a.core g
    if x.queue[pos - x.emitted]? = some (.pending a.id) then genFail hw a.core g code detail pos else hw
  | .fetchWord =>
    let waits := (coreAt hw a.core).lsq.any fun y => y.elem = s.elem && y.slot = s.slot && y.tag = s.tag && y.occ = s.occ
    freeze (dropScratch hw s) s.elem s.slot s.tag s.op
      (if waits then .queued s.slot s.tag s.occ else .firing s.slot s.tag) code detail
  | _ => freeze hw s.elem s.slot s.tag s.op (.issued s.slot s.tag (some (.access a))) code detail

/-! ## Leaving for another package (16 R407, R410, R412) -/

/-- The fabric domain of an ASID (16 Table 16.3). -/
def fdomOf (hw : Hw) (a : BitVec 10) : BitVec 16 :=
  match partOfAsid hw a with
  | some p => (tget hw.pkg.parts {} p).fdom
  | none => 0

/-- What a remote access asks of its home. Of a WAITA, the condition stands above the limit. -/
def remoteOf (hw : Hw) (a : Access) : RemoteOp :=
  let base : RemoteOp :=
    { op := 0x180, addr := paLocal a.pa, width := a.width, y := 0, z := 0, psn := false, dom := fdomOf hw a.site.asid, gen := a.gen }
  match a.kind with
  | .store => { base with op := 0x181, y := a.data }
  | .atomic op y z _ _ _ => { base with op := op, y := y, z := z }
  | .monitor cond y lim _ => { base with op := 0x051, y := y, z := BitVec.ofNat 64 (lim + cond.toNat * 2 ^ 40) }
  | _ => base

/-- Sends access `n` towards another package: a store that has been released waits for an entry that is not off. -/
def sendAccess (hw : Hw) (n : Nat) (a : Access) : Option Hw :=
  let lc := paLC a.pa
  let detail := a.va % 2 ^ 48 + accCode a.kind * 2 ^ 48 + b2n a.isPa * 2 ^ 51 + lc * 2 ^ 52
  match fabCheck hw (dieOf a.core) lc 0 detail with
  | .ok () => some (fabSend { hw with acc := putAt hw.acc n { a with sent := true } } (dieOf a.core) lc 0 (.request (remoteOf hw a) a.id))
  | .error (.wait _) => none
  | .error (.fault code d) =>
    if a.kind == .store then none else some (accFault { hw with acc := dropAt hw.acc n } a code d)

/-! ## Performing at a home of this package -/

/-- The value a load takes: the bytes forwarded when it issued, and the home's (06 R181). -/
def withForwarded (a : Access) (v : Nat) : Nat :=
  ofBytes ((List.range a.width).map fun i => match a.fwd.find? fun x => x.1 = i with
    | some x => x.2.1
    | none => byteOf v i)

/-- Whether a byte that a load takes from its home is poisoned, or one forwarded to it. -/
def loadPsn (m : Mem) (a : Access) (l : Nat) : Bool :=
  (a.fwd.any fun x => x.2.2) ||
    (List.range a.width).any fun i => !(a.fwd.any fun x => x.1 = i) && !inRegs l && linePsn m (l + i)

/-- Performs an atomic: the old value, its poison, and memory after (07 R212). -/
def atomAt (asid : BitVec 10) (m : Mem) (hw : Hw) (op l w : Nat) (y z : Word) (psn : Bool) : Option (Nat × Bool × Mem × Hw) :=
  let (v, p, hw) := homeRead m hw l w
  match atomNew op w v y z with
  | none => some (v, p, m, hw)
  | some v' => (homePut asid m hw l w v' (p || psn)).map fun r => (v, p, r.1, r.2)

/-- A WAITA at its home (11 R312): done, refused for a full table, or an entry. A register has no table. -/
def monitorAt (m : Mem) (hw : Hw) (e : MonEntry) (lim : Nat) : Hw :=
  let (v, p, hw) := homeRead m hw e.addr e.width
  let k := homeCluster e.addr
  let reply := fun (hw : Hw) (status : Nat) => match e.remote with
    | none => monDone hw e.site e.width v e.sx p status
    | some (lc, u, gen) => fabSend hw (k / 8) lc 1 (.reply u (if p then 0 else BitVec.ofNat 64 v) (BitVec.ofNat 9 status) p false gen)
  if monHolds e.cond e.width v e.y then reply hw 0
  else if inRegs e.addr then reply hw cMONOVER
  else if 256 ≤ (clAt hw k).mons.length then reply (modCl hw k fun c => { c with monOver := c.monOver + 1 }) cMONOVER
  else
    let due := if lim = 0 then none else some (hw.now + lim)
    modCl hw k fun c => { c with mons := c.mons ++ [{ e with due := due }] }

/-- Performs an access that has been taken off its way; none while it must wait. -/
def performAt (m : Mem) (hw : Hw) (a : Access) : Option (Mem × Hw) :=
  let l := paLocal a.pa
  match a.kind with
  | .store => (homePut a.site.asid m hw l a.width a.data.toNat a.psn).map fun r => (r.1, endAccess r.2 a 0 false)
  | .atomic op y z yp zp _ => (atomAt a.site.asid m hw op l a.width y z (yp || zp)).map fun r => (r.2.2.1, endAccess r.2.2.2 a r.1 r.2.1)
  | .monitor cond y lim sgn =>
    some (m, monitorAt m hw
      { addr := l, width := a.width, cond := cond, y := y, sx := sgn, due := none, site := a.site } lim)
  | .rowLine rb line =>
    let hw := modCore hw a.core fun c =>
      { c with rowbuf := (List.range 64).foldl (fun t i => tput t 0 (rb * 512 + line * 64 + i) (memByte m (l + i))) c.rowbuf
               rowPsn := tput c.rowPsn false (rb * 8 + line) (linePsn m l) }
    some (m, endAccess hw a 0 false)
  | _ =>
    let psn := loadPsn m a l
    let (v, _, hw) := homeRead m hw l a.width
    some (m, endAccess hw a (withForwarded a v) psn)

/-- An access that leaves, or is performed. -/
def accessEvent (ok : Access → Bool) (n : Nat) (s : State) : Res State :=
  match s.hw.acc[n]? with
  | none => .fault .notEnabled
  | some a =>
    if !ok a || !accDue s.hw n a || (paLC a.pa == ownLC s.hw && zeroing s.hw (paLocal a.pa)) then .fault .notEnabled
    else if paLC a.pa ≠ ownLC s.hw then
      match sendAccess s.hw n a with
      | none => .fault .notEnabled
      | some hw => .next { s with hw := hw }
    else match performAt s.mem (grant s.hw n a) a with
      | none => .fault .notEnabled
      | some (m, hw) => .next { mem := m, hw := hw }

/-! ## Events -/

/-- Whether an access is an atomic. -/
def isAtomic (a : Access) : Bool := match a.kind with
  | .atomic .. => true
  | _ => false

/-- Whether an access is the read of a WAITA. -/
def isMonitor (a : Access) : Bool := match a.kind with
  | .monitor .. => true
  | _ => false

/-- ACCESS_AT_HOME: a load, store, generator, row-buffer or descriptor read (11 R298). -/
def execAccessAtHome (n : Nat) (s : State) : Res State :=
  accessEvent (fun a => !isAtomic a && !isMonitor a && a.strel.isNone && !outranked s.hw a) n s

/-- ATOMIC_AT_HOME (07 R211, R212). -/
def execAtomicAtHome (n : Nat) (s : State) : Res State := accessEvent (fun a => isAtomic a && !outranked s.hw a) n s

/-- STREL_RELEASE: a release store whose activation's other stores have performed (11 R304, R318). -/
def execStrelRelease (n : Nat) (s : State) : Res State := accessEvent (fun a => a.strel.isSome && !outranked s.hw a) n s

/-- MONITOR_POST: the read of a WAITA at its home (11 R312). -/
def execMonitorPost (n : Nat) (s : State) : Res State := accessEvent (fun a => isMonitor a && !outranked s.hw a) n s

/-- BANK_STARVATION_GRANT: a request refused for 16 cycles is granted next (07 R202). -/
def execBankStarvationGrant (n : Nat) (s : State) : Res State := accessEvent (fun a => decide (16 ≤ a.refused)) n s

/-- MONITOR_DEADLINE: the deadline of an entry has passed (11 R312). -/
def execMonitorDeadline (cl n : Nat) (s : State) : Res State :=
  match (clAt s.hw cl).mons[n]? with
  | none => .fault .notEnabled
  | some e =>
    match e.due with
    | none => .fault .notEnabled
    | some d =>
      if s.hw.now < d then .fault .notEnabled
      else .next { s with hw := monEnd s.mem (modCl s.hw cl fun c => { c with mons := dropAt c.mons n }) e 0x100 }

end Sys2Proof.Machine
end

