-- ==== Sys2Proof/Machine/DieEvents.lean ====
section
/-! DEFINITION. A die's directory, page walkers and invalidation units: DIRECTORY_LOOKUP, PAGE_WALK, INVALIDATION
(13 R335 to R339, R344, R345). -/
namespace Sys2Proof.Machine

/-- Removes request `n` of a die. -/
def endReq (hw : Hw) (die n : Nat) : Hw := modDie hw die fun d => { d with reqs := dropAt d.reqs n }

/-- DIRECTORY_LOOKUP: a miss is served by the directory, or goes to one of sixteen walkers (13 R338). -/
def execDirectoryLookup (die n : Nat) (s : State) : Res State :=
  let d := dieAt s.hw die
  match d.reqs[n]? with
  | none => .fault .notEnabled
  | some r =>
    if r.walking then .fault .notEnabled
    else match d.dir.find? fun e => xlServes e.x r.asid (r.va * 4096) r.write with
      | some e =>
        let hw := modDie (endReq s.hw die n) die fun d => { d with dhits := d.dhits + 1 }
        match returnXlat hw die r.holder e.x with
        | none => .fault .notEnabled
        | some hw => .next { s with hw := hw }
      | none =>
        if 16 ≤ (d.reqs.filter (·.walking)).length then .fault .notEnabled
        else .next { s with hw := modDie s.hw die fun d => { d with reqs := putAt d.reqs n { r with walking := true } } }

/-- PAGE_WALK: a walk ends in a translation, its A and D set at the entry's home before it is used, or in a failure for the one that
asked (13 R335 to R337); a walk waits while the directory has no room for what it returns (13 R339). -/
def execPageWalk (die n : Nat) (s : State) : Res State :=
  match (dieAt s.hw die).reqs[n]? with
  | none => .fault .notEnabled
  | some r =>
    if !r.walking || walkWaits s.mem s.hw die r.asid (r.va * 4096) then .fault .notEnabled
    else
      let hw := modDie (endReq s.hw die n) die fun d => { d with walks := d.walks + 1 }
      match walk s.mem s.hw die r.asid (r.va * 4096) r.write with
      | .error e =>
        let f : XlReply := { holder := r.holder, asid := r.asid, va := r.va, write := r.write, fail := e, who := r.who }
        .next { s with hw := modDie hw die fun d => { d with fails := d.fails ++ [f] } }
      | .ok (x, a, p) =>
        let (m, hw) := if memRead s.mem a 8 = p then (s.mem, hw) else homeWrite s.mem hw a 8 p false
        match returnXlat hw die r.holder x with
        | none => .fault .notEnabled
        | some hw => .next { mem := m, hw := hw }

/-- Lets every die's shoot-down complete that waits for nothing more. -/
def settleShoots (hw : Hw) : Hw :=
  [0, 1, 2, 3].foldl (fun hw d => shootSettle d ((dieAt hw d).shootQ.length + 1) hw) hw

/-- INVALIDATION: a holder's unit removes the translation, and acknowledges once the accesses that used it have
performed (13 R345). -/
def execInvalidation (n : Nat) (s : State) : Res State :=
  match s.hw.invs[n]? with
  | none => .fault .notEnabled
  | some m =>
    let out := xlOutstanding s.hw m.die m.holder m.x
    if m.removed && out then .fault .notEnabled
    else
      let hw := if m.removed then s.hw else holderDrop s.hw m.die m.holder m.x
      if out then .next { s with hw := { hw with invs := putAt hw.invs n { m with removed := true } } }
      else .next { s with hw := settleShoots { hw with invs := dropAt hw.invs n } }

end Sys2Proof.Machine
end

