-- ==== Sys2Proof/Machine/HalyardUnit.lean ====
section
/-! DEFINITION. The halyard copy engine: HALYARD_UNIT (13 R350 to R354). -/
namespace Sys2Proof.Machine

/-! ## Items and units (13 R350) -/

/-- Request `n` of a cluster's engine replaced. -/
def setHal (hw : Hw) (cl n : Nat) (r : HalReq) : Hw := modCl hw cl fun c => { c with hal := putAt c.hal n r }

/-- An address of item `k` before its offset: base + k or idx[k] times the stride. -/
def itemBase (d : List Word) (dst : Bool) (k : Nat) : Int := (bits (dWord d (if dst then 1 else 0)) 0 48 : Int) + k * halStride d dst

/-- Bytes of the unit at an offset of an item whose destination begins at `t`: up to the end of its 256-byte block. -/
def unitLen (d : List Word) (t : Int) (off : Nat) : Nat := min (halLen d - off) (256 - ((t + off) % 256).toNat)

/-- A range split where it crosses multiples of `q`. -/
def splitAt (q : Nat) : Nat → Int → Nat → List (Int × Nat)
  | 0, _, _ => []
  | fuel + 1, a, n =>
    if n = 0 then []
    else
      let k := min n (q - (a % (q : Int)).toNat)
      (a, k) :: splitAt q fuel (a + (k : Int)) (n - k)

/-! ## Addresses -/

/-- What ends or holds up a unit: a wait, in a state that may have posted a request, or a failure (13 R352). -/
inductive HalStop where
  | wait (hw : Hw)
  | fail (f : HalFail)
  deriving DecidableEq, Repr

/-- A memory fault as the failure of a side (13 Table 13.6). -/
def halFault (side va : Nat) : Stop → HalStop
  | .wait hw => .wait hw
  | .fault code d => .fail { code := code, reason := if code = cPROT then bits d 52 4 else 0, side := side, va := va }

/-- The physical address of one byte of a request, for the engine of its cluster, with what it needs (13 R347, R352). -/
def halByte (hw : Hw) (r : HalReq) (va : Int) (needR needW dst : Bool) : Except Stop (Hw × Nat) :=
  let v := ofSigned 48 va
  let core := coreOf r.site.elem
  if va < 0 ∨ 2 ^ 48 ≤ va then .error (protFault v 4 false 5)
  else do
    let (hw, pa) ← (if inWindow v then do
        let l ← windowResolve hw core r.site.frame v 4
        .ok (hw, ownPa hw l)
      else do
        let (hw, x) ← translate hw (dieOf core) (64 + clOf core % 8) r.site.asid v needW
        match x with
        | .error e => .error (xlFault e v 4)
        | .ok x => do
          permCheck x needR needW v 4 false
          .ok (hw, x.pa + (v - x.va)))
    if dst && paLC pa ≠ ownLC hw && decide (r.scope < 4) then .error (protFault v 4 false 11)
    physCheck hw (dieOf core) r.site.asid 4 { pa := pa, addr := v, isPa := false }
    .ok (hw, pa)

/-- The pieces of a range as (VA, physical address, bytes), page by page, or the failure at the lowest VA that fails. -/
def halPages (r : HalReq) (side : Nat) (needR needW : Bool) : List (Int × Nat) → Hw → Except HalStop (Hw × List (Nat × Nat × Nat))
  | [], hw => .ok (hw, [])
  | (va, n) :: rest, hw =>
    match halByte hw r va needR needW (side == 1) with
    | .error e => .error (halFault side (ofSigned 48 va) e)
    | .ok (hw, pa) => match halPages r side needR needW rest hw with
      | .error e => .error e
      | .ok (hw, l) => .ok (hw, (ofSigned 48 va, pa, n) :: l)

/-- The pieces of `n` bytes from a VA. -/
def halRange (r : HalReq) (side : Nat) (needR needW : Bool) (va : Int) (n : Nat) (hw : Hw) :
    Except HalStop (Hw × List (Nat × Nat × Nat)) :=
  halPages r side needR needW (splitAt 4096 3 va n) hw

/-! ## Reading -/

/-- The parts of a piece that lie in one 8-byte word each, as (VA, physical address, bytes). -/
def wordParts (p : Nat × Nat × Nat) : List (Nat × Nat × Nat) :=
  (splitAt 8 34 p.2.1 p.2.2).map fun x => (p.1 + (x.1.toNat - p.2.1), x.1.toNat, x.2)

/-- Bytes with their poison. -/
abbrev PsnBytes := List (Byte × Bool)

/-- Reads one part: from its home here, or from what another package has answered. -/
def readPart (m : Mem) (hw : Hw) (r : HalReq) (p : Nat × Nat × Nat) : PsnBytes × Hw :=
  let (_, pa, n) := p
  if paLC pa ≠ ownLC hw then
    let v := ((r.got.find? fun g => g.1 = pa / 8 * 8).map (·.2)).getD 0
    ((List.range n).map fun i => (byteOf v.toNat (pa % 8 + i), false), hw)
  else
    let (v, psn, hw) := homeRead m hw (paLocal pa) n
    ((List.range n).map fun i => (byteOf v i, psn), hw)

/-- Reads parts in order. -/
def readParts (m : Mem) (r : HalReq) (l : List (Nat × Nat × Nat)) (hw : Hw) : PsnBytes × Hw :=
  l.foldl (fun x p => let y := readPart m x.2 r p; (x.1 ++ y.1, y.2)) ([], hw)

/-- Asks other packages for the words of some parts (16 R410). -/
def askParts (hw : Hw) (cl n : Nat) (r : HalReq) (side : Nat) (l : List (Nat × Nat × Nat)) : Hw :=
  let (hw, r) := l.foldl (fun (x : Hw × HalReq) p =>
    let (va, pa, _) := p
    let (id, hw) := stamp x.1
    let q : RemoteOp :=
      { op := 0x180, addr := paLocal pa / 8 * 8, width := 8, y := 0, z := 0, psn := false, dom := fdomOf hw r.site.asid, gen := r.gen }
    (fabSend hw (cl / 8) (paLC pa) 0 (.request q id), { x.2 with asked := x.2.asked ++ [(id, pa / 8 * 8, side, va)] })) (hw, r)
  setHal hw cl n r

/-- Reads some pieces, at banks that grant them (07 R202), or asks for what another package holds and waits. -/
def halRead (m : Mem) (hw : Hw) (cl n : Nat) (r : HalReq) (side : Nat) (pieces : List (Nat × Nat × Nat)) :
    Except HalStop (PsnBytes × Hw) :=
  let parts := pieces.flatMap wordParts
  let missing := parts.filter fun p => paLC p.2.1 != ownLC hw && !(r.got.any fun g => g.1 = p.2.1 / 8 * 8)
  let here := (pieces.filter fun p => paLC p.2.1 = ownLC hw).map fun p => (paLocal p.2.1, p.2.2)
  if missing.isEmpty then
    if here.any fun p => bankBusy hw rankOutside p.1 p.2 then .error (.wait hw)
    else .ok (readParts m r parts (here.foldl (fun hw p => bankTake hw p.1 p.2) hw))
  else if !r.asked.isEmpty || !replayRoom hw (cl / 8) 0 missing.length then .error (.wait hw)
  else .error (.wait (askParts hw cl n r side missing))

/-! ## Writing -/

/-- Writes bytes to one line, or to registers word by word. -/
def writeLine (asid : BitVec 10) (m : Mem) (hw : Hw) (l : Nat) (bs : PsnBytes) : Mem × Hw :=
  if inRegs l then
    (splitAt 8 9 l bs.length).foldl (fun x p =>
      let a := p.1.toNat
      (homePut asid x.1 x.2 a p.2 (ofBytes (((bs.drop (a - l)).take p.2).map (·.1))) false).getD x) (m, hw)
  else homeWriteBytes m hw l (bs.map (·.1)) (bs.any (·.2))

/-- Writes the bytes of a unit at their home, line by line (07 R200). -/
def writeUnit (asid : BitVec 10) (m : Mem) (hw : Hw) (l : Nat) (bs : PsnBytes) : Mem × Hw :=
  (splitAt 64 6 l bs.length).foldl (fun x p => writeLine asid x.1 x.2 p.1.toNat ((bs.drop (p.1.toNat - l)).take p.2)) (m, hw)

/-- Whether the rows that a copy or fill has written, `u` bytes of the present unit with them, cover a byte of the destination. -/
def rowCovers (r : HalReq) (u : Nat) (b : Int) : Bool :=
  let inRow := fun (k n : Nat) => let t := itemBase r.desc true k; decide (t ≤ b ∧ b < t + n)
  r.op != 2 && r.op != 3 && (inRow r.item (r.off + u) || (List.range r.item).any fun k => inRow k (halLen r.desc))

/-- The lines of a unit that are written with poison. -/
def psnLines (l : Nat) (bs : PsnBytes) : List Nat :=
  ((List.range bs.length).zip bs).filterMap fun x => if x.2.2 then some (lineOf (l + x.1)) else none

/-- Clears the poison of a unit's lines that the request now covers whole without poison (07 R200), the unit standing at local address `l`
and VA `t`. -/
def cleanUnit (m : Mem) (r : HalReq) (u : Nat) (t : Int) (l : Nat) : Mem :=
  (linesOf l u).foldl (fun m a =>
    if linePsn m a && !r.marked.contains a && (List.range 64).all fun (i : Nat) => rowCovers r u (t + ((a : Int) - l) + i) then cleanRange m a 64
    else m) m

/-- Merges the elements of an HRED unit at their home, each as one atomic (13 R351). -/
def reduceUnit (asid : BitVec 10) (m : Mem) (hw : Hw) (d : List Word) (l : Nat) (bs : PsnBytes) : Mem × Hw :=
  let w := halWidth d
  (List.range (bs.length / w)).foldl (fun x i =>
    let e := (bs.drop (i * w)).take w
    let (old, p, hw) := homeRead x.1 x.2 (l + i * w) w
    let v := rportMerge (halRop d) (halFmt d) w old (ofBytes (e.map (·.1)))
    (homePut asid x.1 hw (l + i * w) w v (p || e.any (·.2))).getD (x.1, hw)) (m, hw)

/-- The requests that write bytes at another package: of HRED one an element, else one an aligned word, or one a byte where
a word is written in part (16 R410, R413). -/
def remoteWrites (op : Nat) (d : List Word) (dom : BitVec 16) (gen : BitVec 6) (pa : Nat) (bs : List Byte) : List RemoteOp :=
  let put := fun (a w : Nat) => ({ op := 0x181, addr := paLocal a, width := w, y := BitVec.ofNat 64 (ofBytes ((bs.drop (a - pa)).take w))
                                   z := 0, psn := false, dom := dom, gen := gen } : RemoteOp)
  if op = 3 then
    let w := halWidth d
    (List.range (bs.length / w)).map fun i =>
      { put (pa + i * w) w with op := 0x1CD, z := BitVec.ofNat 64 (halRop d + halFmt d * 16) }
  else (splitAt 8 34 pa bs.length).flatMap fun p =>
    if p.2 = 8 then [put p.1.toNat 8] else (List.range p.2).map fun i => put (p.1.toNat + i) 1

/-- Sends requests to another package, whose acknowledgements the request then awaits; none while there is no room. -/
def halSend (hw : Hw) (cl n : Nat) (r : HalReq) (lc : Nat) (l : List RemoteOp) : Option Hw :=
  if !replayRoom hw (cl / 8) 0 l.length then none
  else
    let (hw, ids) := l.foldl (fun (x : Hw × List Nat) q =>
      let (id, hw) := stamp x.1
      (fabSend hw (cl / 8) lc 0 (.request q id), x.2 ++ [id])) (hw, [])
    some (setHal hw cl n { r with sent := true, pending := ids })

/-! ## One unit -/

/-- A request with its present unit written (13 R350). -/
def unitDone (r : HalReq) (u : Nat) : HalReq :=
  let whole := decide (halLen r.desc ≤ r.off + u)
  { r with off := if whole then 0 else r.off + u, item := if whole then r.item + 1 else r.item, bytes := r.bytes + u
           items := if whole then r.items + 1 else r.items, sent := false, pending := [], asked := [], got := []
           ended := whole && decide (halCount r.desc ≤ r.item + 1) }

/-- A request ended by a failure (13 R352). -/
def unitFails (r : HalReq) (f : HalFail) : HalReq :=
  { r with failed := some f, ended := true, sent := false, pending := [], asked := [], got := [] }

/-- The index of an item of HGATH and HSCAT, with its poison, which every byte that it picks or places takes (00 R10; log 26); the item's own
number for the others. -/
def itemIndex (m : Mem) (hw : Hw) (cl n : Nat) (r : HalReq) : Except HalStop (Nat × Bool × Hw) :=
  if r.op = 1 || r.op = 2 then do
    let (hw, p) ← halRange r 2 true false ((dWord r.desc 4 : Int) + 4 * r.item) 4 hw
    let (bs, hw) ← halRead m hw cl n r 2 p
    .ok (ofBytes (bs.map (·.1)), bs.any (·.2), hw)
  else .ok (r.item, false, hw)

/-- The first VA of a poisoned source byte, as a failure at the boundary (16 R412). -/
def poisonStop (src : Int) (bs : PsnBytes) : HalStop :=
  let i := (posOf (fun (b : Byte × Bool) => b.2) bs).getD 0
  .fail { code := cPOISON, reason := 0, side := 0, va := ofSigned 48 (src + i) }

/-- The present unit of request `n` of a cluster: translated, read and written, or sent to another package (13 R350). -/
def unitRun (m : Mem) (hw : Hw) (cl n : Nat) (r : HalReq) : Except HalStop (Mem × Hw) := do
  let d := r.desc
  let (k, kp, hw) ← itemIndex m hw cl n r
  let src := itemBase d false (if r.op = 2 then r.item else k) + r.off
  let t := itemBase d true (if r.op = 1 then r.item else k)
  let u := unitLen d t r.off
  let (hw, sp) ← (if r.op = 4 then .ok (hw, []) else halRange r 0 true false src u hw)
  let (hw, dp) ← halRange r 1 (r.op == 3) true (t + r.off) u hw
  let (bs, hw) ← (if r.op = 4 then
      .ok ((List.range u).map fun (i : Nat) => (byteOf (dWord d 0) ((t + r.off + (i : Int)) % 8).toNat, false), hw)
    else halRead m hw cl n r 0 sp)
  let bs := bs.map fun b => (b.1, b.2 || kp)
  let pa := (dp.map fun x => x.2.1).headD 0
  if paLC pa ≠ ownLC hw then
    if bs.any (·.2) then .error (poisonStop src bs)
    else match halSend hw cl n { r with unit := u, dva := ofSigned 48 (t + r.off) } (paLC pa) (remoteWrites r.op d (fdomOf hw r.site.asid) r.gen pa (bs.map (·.1))) with
      | none => .error (.wait hw)
      | some hw => .ok (m, hw)
  else
    let l := paLocal pa
    if bankBusy hw rankOutside l u then .error (.wait hw)
    else
    let r := { r with marked := (psnLines l bs).foldl sins r.marked }
    let hw := bankTake hw l u
    let (m, hw) := if r.op = 3 then reduceUnit r.site.asid m hw d l bs else writeUnit r.site.asid m hw l bs
    .ok (cleanUnit m r u (t + r.off) l, setHal hw cl n (unitDone r u))

/-! ## Completion (13 R353) -/

/-- The completion record (13 Table 13.6). -/
def halRecord (r : HalReq) : List Byte :=
  let f := r.failed.getD { code := 0, reason := 0, side := 3, va := 0 }
  let w0 := f.code + r.op * 2 ^ 8 + f.reason * 2 ^ 12 + f.side * 2 ^ 16 + r.site.tag.toNat * 2 ^ 32
  bytesOf 8 w0 ++ bytesOf 8 (r.bytes % 2 ^ 48) ++ bytesOf 8 (f.va % 2 ^ 48) ++ bytesOf 8 (r.items % 2 ^ 32)

/-- What follows the record: the decrement, the residency entry, then T0. -/
def halEnd (hw : Hw) (cl n : Nat) (r : HalReq) : Hw :=
  let hw := modCl hw cl fun c =>
    { c with hal := dropAt c.hal n, halDone := c.halDone + 1, halFails := if r.failed.isSome then c.halFails + 1 else c.halFails }
  let ref := halCref r.desc
  let hw := if halCen r.desc then decCnt hw (crefCl ref) (crefIdx ref) 1 r.failed.isSome else hw
  let hw := match r.entry with
    | none => hw
    | some at' => resFill hw cl at' r.bytes r.failed.isNone
  let t := match r.failed with
    | none => mkTok 0 r.site.tag .order
    | some f => mkTok 0 r.site.tag .fault (BitVec.ofNat 64 f.va) (BitVec.ofNat 7 f.code)
  settle hw r.site (emitList hw r.site (siteSrc r.site) r.site.t0 [t])

/-- The completion of request `n`: its record, which is dropped where it cannot be written, and what follows. -/
def halComplete (m : Mem) (hw : Hw) (cl n : Nat) (r : HalReq) : Except HalStop (Mem × Hw) :=
  let rec_ := bits (dWord r.desc 6) 0 48
  if rec_ = 0 || r.sent then .ok (m, halEnd hw cl n r)
  else match halRange r 1 false true rec_ 32 hw with
    | .error (.wait hw) => .error (.wait hw)
    | .error (.fail _) => .ok (m, halEnd hw cl n r)
    | .ok (hw, p) =>
      let pa := (p.map fun x => x.2.1).headD 0
      if paLC pa ≠ ownLC hw then
        match halSend hw cl n r (paLC pa) (remoteWrites 0 r.desc (fdomOf hw r.site.asid) r.gen pa (halRecord r)) with
        | none => .error (.wait hw)
        | some hw => .ok (m, hw)
      else if bankBusy hw rankOutside (paLocal pa) 32 then .error (.wait hw)
      else
        let (m, hw) := writeUnit r.site.asid m (bankTake hw (paLocal pa) 32) (paLocal pa) ((halRecord r).map fun b => (b, false))
        .ok (m, halEnd hw cl n r)

/-- HALYARD_UNIT: request `n` of a cluster's engine writes its next unit, ends, or completes (13 R350 to R353). -/
def execHalyardUnit (cl n : Nat) (s : State) : Res State :=
  match (clAt s.hw cl).hal[n]? with
  | none => .fault .notEnabled
  | some r =>
    if !r.pending.isEmpty then .fault .notEnabled
    else
      let go := if r.ended then halComplete s.mem s.hw cl n r
        else if r.sent then .ok (s.mem, setHal s.hw cl n (unitDone r r.unit))
        else unitRun s.mem s.hw cl n r
      match go with
      | .ok (m, hw) => .next { mem := m, hw := hw }
      | .error (.wait hw) => .next { s with hw := { hw with waited := true } }
      | .error (.fail f) => .next { s with hw := setHal s.hw cl n (unitFails r f) }

end Sys2Proof.Machine
end

