-- ==== Sys2Proof/Machine/Fabric.lean ====
section
/-! DEFINITION. What comes from other packages (16 R410 to R413, R415, R417): REMOTE_ITEM_ARRIVAL, ACKNOWLEDGEMENT,
E2E_TIMEOUT, MARKER_ARRIVAL. -/
namespace Sys2Proof.Machine

/-! ## Streams (16 R410) -/

/-- Whether number `k` lies at or below number `d`, modulo 2^32. -/
def atOrBelow (k d : Nat) : Bool := decide ((d + 2 ^ 32 - k % 2 ^ 32) % 2 ^ 32 < 2 ^ 31)

/-- The numbers of the stream of an item that has arrived. -/
def numsOf (hw : Hw) (it : FabItem) : FabNums := tget hw.pkg.nums {} (streamKey it.src it.cls)

/-- Whether an item that has arrived was delivered before: it is dropped and acknowledged again. -/
def isOld (hw : Hw) (it : FabItem) : Bool := atOrBelow (it.num + 1) (numsOf hw it).nextIn

/-- Whether the next item of its stream may be delivered: no marker holds the stream, no image is being written or
restored (16 R415, R416). -/
def mayDeliver (hw : Hw) (it : FabItem) : Bool :=
  it.num = (numsOf hw it).nextIn && (numsOf hw it).held.isNone && (hw.pkg.cut.state = 0 || hw.pkg.cut.state = 1)

/-- Takes item `n` out of the receive buffer, its stream's next number after it. -/
def takeItem (hw : Hw) (n : Nat) (it : FabItem) : Hw :=
  modPkg hw fun p =>
    let k := streamKey it.src it.cls
    let x := tget p.nums {} k
    { p with recvBuf := dropAt p.recvBuf n, nums := tput p.nums {} k { x with nextIn := (x.nextIn + 1) % 2 ^ 32 } }

/-! ## Requests at their home here (16 R412, R413) -/

/-- Whether a request may be performed: HBM, in a granule shared by a partition of the request's domain, which is not 0. -/
def remoteOk (hw : Hw) (r : RemoteOp) : Bool :=
  let g := tget hw.pkg.granules (0, 0) (r.addr / 2 ^ 21)
  inHbm r.addr && g.1 = 2 && r.dom ≠ 0 && (tget hw.pkg.parts {} (g.2.toNat % 16)).fdom = r.dom

/-- The die of an address's home, whose router sends what answers a request there. -/
def homeDie (l : Nat) : Nat := homeCluster l / 8

/-- The reply from a die to a request: data never goes with poison. -/
def fabReply (hw : Hw) (d lc unit v : Nat) (psn refused : Bool) (gen : BitVec 6) : Hw :=
  fabSend hw d lc 1 (.reply unit (if psn then 0 else BitVec.ofNat 64 v) 0 psn refused gen)

/-- Performs a request of logical chip `lc` for its unit. -/
def performRemote (m : Mem) (hw : Hw) (lc unit : Nat) (r : RemoteOp) : Mem × Hw :=
  if !remoteOk hw r then (m, fabReply hw (homeDie r.addr) lc unit 0 false true r.gen)
  else if r.op = 0x180 then (m, fabReply hw (homeDie r.addr) lc unit (memRead m r.addr r.width) (rangePsn m r.addr r.width) false r.gen)
  else if r.op = 0x181 then homeWrite m hw r.addr r.width r.y.toNat r.psn
  else if r.op = 0x051 then
    let site : Site := { elem := 0, frame := 0, slot := 0, tag := 0, occ := 0, seq := none, asid := 0, op := 0x051#9, t0 := 0, t1 := 0 }
    let e : MonEntry :=
      { addr := r.addr, width := r.width, cond := r.z.extractLsb' 40 2, y := zx (8 * r.width) r.y, sx := false, due := none
        site := site, remote := some (lc, unit, r.gen) }
    (m, monitorAt m hw e (bits r.z.toNat 0 40))
  else if r.op = 0x1CD then
    let v := rportMerge (bits r.z.toNat 0 4) (bits r.z.toNat 4 4) r.width (memRead m r.addr r.width) r.y.toNat
    homeWrite m hw r.addr r.width v (rangePsn m r.addr r.width || r.psn)
  else
    let v := memRead m r.addr r.width
    let p := rangePsn m r.addr r.width
    let (m, hw) := match atomNew r.op r.width v r.y r.z with
      | some v' => homeWrite m hw r.addr r.width v' (p || r.psn)
      | none => (m, hw)
    (m, fabReply hw (homeDie r.addr) lc unit v p false r.gen)

/-! ## Replies at their unit here (16 R412, 15 R396) -/

/-- Counts a reply dropped for its generation (15 R396). -/
def staleReply (hw : Hw) : Hw := modPkg hw fun p => { p with stale := p.stale + 1 }

/-- The DETAIL of an access that its remote home refused. -/
def refusedDetail (a : Access) : Nat := memDetail a.va (accCode a.kind) a.isPa 13

/-- A reply to an access. -/
def replyAccess (hw : Hw) (n : Nat) (a : Access) (v : Word) (status : BitVec 9) (psn refused : Bool) (gen : BitVec 6) : Hw :=
  if gen ≠ genOfCl hw (clOf a.core) then staleReply { hw with acc := dropAt hw.acc n }
  else
    let hw := { hw with acc := dropAt hw.acc n }
    if refused then accFault hw a cPROT (refusedDetail a)
    else if psn then accFault hw a cPOISON 0
    else endAccess hw a (withForwarded a v.toNat) (a.fwd.any fun x => x.2.2) status.toNat

/-- The halyard request that a unit number belongs to: cluster, position, request. -/
def halUnit (hw : Hw) (u : Nat) : Option (Nat × Nat × HalReq) :=
  let mine := fun (r : HalReq) => (r.asked.any fun x => x.1 = u) || r.pending.contains u
  (hw.cls.findSome? fun k => (posOf mine k.2.hal).bind fun n => (k.2.hal[n]?).map fun r => (k.1, n, r))

/-- A reply to a halyard request: a word that it asked for, or the refusal of a write. A refused record is dropped. -/
def replyHal (hw : Hw) (u cl n : Nat) (r : HalReq) (v : Word) (psn refused : Bool) (gen : BitVec 6) : Hw :=
  let ask := r.asked.find? fun x => x.1 = u
  let side := (ask.map fun x => x.2.2.1).getD 1
  let va := (ask.map fun x => x.2.2.2).getD r.dva
  let fail := fun (hw : Hw) (code reason : Nat) =>
    if r.ended then setHal hw cl n { r with pending := sdel r.pending u }
    else setHal hw cl n (unitFails r { code := code, reason := reason, side := side, va := va })
  if gen ≠ genOfCl hw cl then fail (staleReply hw) cSTALE 0
  else if refused then fail hw cPROT 13
  else if psn then fail hw cPOISON 0
  else match ask with
    | none => hw
    | some x => setHal hw cl n { r with asked := r.asked.filter fun y => y.1 != u, got := r.got ++ [(x.2.1, v)] }

/-- A reply delivered to the unit that asked. One for a unit of a partition that has been reset since is dropped and counted
(15 R396); the refusal of a store that an acknowledgement has completed still faults its element (16 R412; log 27). -/
def deliverReply (hw : Hw) (u : Nat) (v : Word) (status : BitVec 9) (psn refused : Bool) (gen : BitVec 6) : Hw :=
  match posOf (fun (a : Access) => a.sent && a.id = u) hw.acc with
  | some n => match hw.acc[n]? with
    | some a => replyAccess hw n a v status psn refused gen
    | none => hw
  | none => match halUnit hw u with
    | some (cl, n, r) => replyHal hw u cl n r v psn refused gen
    | none =>
      if hw.pkg.late.contains u then modPkg (staleReply hw) fun p => { p with late := sdel p.late u }
      else match hw.pkg.acked.find? fun a => a.id = u && refused with
        | some a => accFault (modPkg hw fun p => { p with acked := p.acked.filter fun x => x.id != u }) a cPROT (refusedDetail a)
        | none => hw

/-! ## Events -/

/-- REMOTE_ITEM_ARRIVAL: the next item of its stream is delivered and acknowledged, or an old one dropped and acknowledged again
(16 R410 to R412). A request waits for a replay entry for its reply and for its granule, a token for room on the links of its
element (00 R9); it is acknowledged once accepted. -/
def execRemoteItemArrival (n : Nat) (s : State) : Res State :=
  match s.hw.pkg.recvBuf[n]? with
  | none => .fault .notEnabled
  | some it =>
    if isOld s.hw it then .next { s with hw := ackOut (modPkg s.hw fun p => { p with recvBuf := dropAt p.recvBuf n }) it.src }
    else if !mayDeliver s.hw it then .fault .notEnabled
    else
      let hw := takeItem s.hw n it
      match it.body with
      | .marker _ => .fault .notEnabled
      | .token t =>
        if contLC t.cont ≠ ownLC hw then .next { s with hw := ackOut hw it.src }
        else if linksFull hw t then .fault .notEnabled
        else .next { s with hw := send hw (.fabric it.src) none (genOfCl hw (clOf (contCore t.cont))) t it.num }
      | .reply u v status psn refused gen => .next { s with hw := ackOut (deliverReply hw u v status psn refused gen) it.src }
      | .request r u =>
        if !replayFree hw (homeDie r.addr) 1 || zeroing hw r.addr then .fault .notEnabled
        else
          let (m, hw) := performRemote s.mem hw it.src u r
          .next { mem := m, hw := ackOut hw it.src }

/-- What an acknowledgement of an item of this package completes: a store, or a write of a halyard unit (11 Table 11.1). Until its
home's refusal could no longer come, the store is kept by (16 R412; log 27). -/
def ackItem (hw : Hw) (it : FabItem) : Hw :=
  match it.body with
  | .request _ u =>
    match posOf (fun (a : Access) => a.sent && a.id = u && a.kind == .store) hw.acc with
    | some n => match hw.acc[n]? with
      | some a => endAccess (modPkg { hw with acc := dropAt hw.acc n } fun p => { p with acked := p.acked ++ [a] }) a 0 false
      | none => hw
    | none => match halUnit hw u with
      | some (cl, n, r) => setHal hw cl n { r with pending := sdel r.pending u }
      | none => hw
  | _ => hw

/-- ACKNOWLEDGEMENT of every item up to a number of a stream, from a package whose last recorded cut is `cut`: its replay
entries are freed, or kept for a cut that is not recorded here (16 R411, R417). -/
def execAcknowledgement (lc cls num cut : Nat) (s : State) : Res State :=
  let mine := fun (r : RplEntry) => r.item.dst = lc && r.item.cls = cls && atOrBelow r.item.num num && r.kept.isNone
  let done := s.hw.pkg.replay.filter mine
  let ahead := decide (s.hw.pkg.cut.num.toNat < cut)
  let keep := fun (r : RplEntry) => if mine r then { r with kept := some cut, due := false } else r
  let hw := modPkg s.hw fun p =>
    { p with replay := if ahead then p.replay.map keep else p.replay.filter fun r => !mine r }
  .next { s with hw := done.foldl (fun hw r => ackItem hw r.item) hw }

/-- Sets an ensign entry to draining on every die (16 R411). -/
def ensDrain (hw : Hw) (lc : Nat) : Hw :=
  [0, 1, 2, 3].foldl (fun hw d => modDie hw d fun y =>
    let e := (tget y.ens 0 lc).toNat
    { y with ens := tput y.ens 0 lc (BitVec.ofNat 32 (ensSet e 2 (bits e 16 2))) }) hw

/-- E2E_TIMEOUT: an item is resent on the present path; after LIMIT resends its destination drains, with a report, and the
item waits for a path (16 R411). -/
def execE2eTimeout (n : Nat) (s : State) : Res State :=
  match s.hw.pkg.replay[n]? with
  | none => .fault .notEnabled
  | some r =>
    let d := dieAt s.hw r.die
    let lc := r.item.dst
    let put := fun (hw : Hw) (r : RplEntry) => modPkg hw fun p => { p with replay := putAt p.replay n r }
    let again := fun (r : RplEntry) => let x := entryOut s.hw r; State.mk s.mem (put x.1 x.2)
    let room := (flitOut s.hw (ensLink (ensEntry s.hw r.die lc)) lc []).isSome
    if r.kept.isSome || s.hw.pkg.cut.state = 3 then .fault .notEnabled
    else if r.due then if fabPath s.hw r.die lc && room then .next (again { r with tries := 0 }) else .fault .notEnabled
    else if s.hw.now < r.sentAt + d.e2eTmo.toNat * 1024 || !(dieAt s.hw 0).ensSelf.getLsbD 63 then .fault .notEnabled
    else if r.tries < d.e2eLim.toNat then .next (again { r with tries := r.tries + 1 })
    else
      let hw := put (ensDrain s.hw lc) { r with due := true }
      .next { s with hw := report hw (r.die * 8) cREPLAY lc }

/-- The report of the first marker of a cut (16 R415), to a service core of die 0. The spec gives it no code or VALUE: both are free
(log 28). -/
def markerReport (hw : Hw) (cut : Nat) : Hw :=
  if hw.pkg.nums.any fun x => x.2.held == some cut then hw
  else report hw 0 (oneCode reportCodes (Config.markerCode cut).toNat) (Config.markerValue cut).toNat

/-- MARKER_ARRIVAL: a marker of a cut that is not recorded yet holds the items behind it, and the first is reported (16 R415). -/
def execMarkerArrival (n : Nat) (s : State) : Res State :=
  match s.hw.pkg.recvBuf[n]? with
  | none => .fault .notEnabled
  | some it =>
    match it.body with
    | .marker cut =>
      if !mayDeliver s.hw it then .fault .notEnabled
      else
        let hw := takeItem s.hw n it
        let k := streamKey it.src it.cls
        let hw := if cut ≤ hw.pkg.cut.num.toNat then hw
          else modPkg (markerReport hw cut) fun p => { p with nums := tput p.nums {} k { tget p.nums {} k with held := some cut } }
        .next { s with hw := ackOut hw it.src }
    | _ => .fault .notEnabled

end Sys2Proof.Machine
end

