-- ==== Sys2Proof/Machine/HostEvents.lean ====
section
/-! DEFINITION. The package's own events: bring-up, package reset and attestation (15 R399 to R402), cores assigned and
power-gated (07 R197, 13 R345, 15 R395), and the containment of errors (15 R398). -/
namespace Sys2Proof.Machine

/-! ## Reset, bring-up, attestation -/

/-- Everything volatile at its reset value; what stands in secure non-volatile storage stays (15 R400, R401). -/
def powerOn (s : State) : State :=
  { mem := {}
    hw := { inputs := s.hw.inputs, free := s.hw.free
            pkg := { attIdx := s.hw.pkg.attIdx, attested := s.hw.pkg.attested, fwVersion := s.hw.pkg.fwVersion } } }

/-- PACKAGE_RESET: ownership is cleared and the device reset (15 R399). -/
def execPackageReset (s : State) : Res State := .next (powerOn s)

/-- BRING_UP: firmware that fails its signature, or is older than the version counter, is not run, and nothing but
management is live (15 R400, R402). -/
def execBringUp (fw : Firmware) (s : State) : Res State :=
  let t := powerOn s
  let ok := Config.signatureOk fw.image && decide (s.hw.pkg.fwVersion ≤ fw.version)
  .next { t with hw := modPkg t.hw fun p =>
    if ok then { p with fwImage := fw.image, fwVersion := fw.version } else { p with stopped := true } }

/-- What an attestation report signs: the firmware digest, the version counter, the feature level, PART_CFG; the nonce stands
beside it (15 R401). -/
def attestation (hw : Hw) : List Word :=
  let digest := shake256 hw.pkg.fwImage
  ((List.range 4).map fun i => BitVec.ofNat 64 (ofBytes ((digest.drop (8 * i)).take 8))) ++
    [BitVec.ofNat 64 hw.pkg.fwVersion, 3] ++ (List.range 16).map fun n => regValue hw (.partCfg n)

/-- ATTESTATION_REQUEST: the index advances before the signature leaves, and none is used twice; when they are spent the
request is refused (15 R401). -/
def execAttestationRequest (nonce : List Byte) (s : State) : Res State :=
  let p := s.hw.pkg
  if 2 ^ 40 ≤ p.attIdx then .next { s with hw := modPkg s.hw fun p => { p with attCode := BitVec.ofNat 8 cREFUSED } }
  else
    let r := attestation s.hw ++ [Config.signature s.hw.free]
    .next { s with hw := modPkg { s.hw with free := s.hw.free + 1 } fun p =>
      { p with attIdx := p.attIdx + 1, attested := p.attested ++ [(p.attIdx, nonce, r)], attCode := 0 } }

/-! ## Cores -/

/-- Clears a holder's bits in its die's directory, with its translations and the invalidations it owes (13 R345). -/
def clearHolder (hw : Hw) (die holder : Nat) : Hw :=
  let hw := modDie (setHolderTlb hw die holder []) die fun d =>
    { d with dir := d.dir.map fun e => { e with holders := sdel e.holders holder } }
  settleShoots { hw with invs := hw.invs.filter fun m => !(m.die = die && m.holder = holder) }

/-- CORE_POWER_GATE: a core is gated and holds no translation (13 R345, 15 Table 15.7). -/
def execCorePowerGate (core : Nat) (s : State) : Res State :=
  if 256 ≤ core || (coreAt s.hw core).gated then .fault .notEnabled
  else .next { s with hw := clearHolder (modCore s.hw core fun c => { c with gated := true }) (dieOf core) (core % 64) }

/-- POWER_GATING_RETURN: the cycle counter starts at 0 again (06 R189). -/
def execPowerGatingReturn (core : Nat) (s : State) : Res State :=
  if !(coreAt s.hw core).gated then .fault .notEnabled
  else .next { s with hw := modCore s.hw core fun c => { c with gated := false, cycleAt0 := s.hw.now } }

/-- CORE_ASSIGNMENT: a service core writes the owner of a core's memory tiles; a core that passes to another ASID is zeroed
first (07 R197, 15 R395). -/
def execCoreAssignment (core asid : Nat) (s : State) : Res State :=
  if 256 ≤ core || 1024 ≤ asid then .fault .notEnabled
  else
    let a := BitVec.ofNat 10 asid
    let (m, hw) := if tget s.hw.pkg.tileOwner 0 (core * 2) = a then (s.mem, s.hw) else passCore s.mem s.hw core
    .next { mem := m, hw := modPkg hw fun p => { p with tileOwner := tput (tput p.tileOwner 0 (core * 2) a) 0 (core * 2 + 1) a } }

/-! ## Contained errors (15 Table 15.6) -/

/-- The code of a class whose code the spec leaves open: one of those that may be reported (00 R8; log 18). -/
def containCode (cls : Nat) : Nat := oneCode reportCodes (Config.errorCode cls).toNat

/-- The report and ERR_LAST of a class under a code, with a packing the spec leaves open (log 18). -/
def containedAs (hw : Hw) (code cls part cl unit : Nat) : Hw :=
  let w := (Config.errorWhere cls unit).toNat
  report (errLast hw cls code part w) cl code w

/-- The report and ERR_LAST of a class whose code the spec leaves open too (log 18). -/
def contained (hw : Hw) (cls part cl unit : Nat) : Hw := containedAs hw (containCode cls) cls part cl unit

/-- THERMAL_LIMIT: issue is withheld in some cycles, seen as delay only. -/
def execThermalLimit (on : Bool) (s : State) : Res State :=
  .next { s with hw := modPkg s.hw fun p => { p with thermal := on } }

/-- CORRECTABLE_ERROR, class 1: corrected and counted. -/
def execCorrectableError (_part _where : Nat) (s : State) : Res State :=
  .next { s with hw := modPkg s.hw fun p => { p with ce := p.ce + 1 } }

/-- UNCORRECTABLE_ERROR, class 2: the line is poisoned, counted and reported with its address (07 R200, 15 R398). -/
def execUncorrectableError (addr : Nat) (s : State) : Res State :=
  if !(inHbm addr || (inAperture addr && decide (bits addr 28 12 = 0))) then .fault .notEnabled
  else
    let l := lineOf addr
    let cl := homeCluster l
    let pa := ownPa s.hw l
    let hw := modPkg s.hw fun p => { p with ue := p.ue + 1 }
    let hw := errLast hw 2 0 ((partOfCl hw cl).getD 0) (bits pa 12 44)
    .next { mem := poisonLine s.mem l, hw := report hw cl 0 (pa + 2 ^ 63) }

/-- Makes the configuration frames of a region Free, so that they are loaded anew. -/
def freeFrames (hw : Hw) (k : Nat) (r : Region) : Hw :=
  (regionCores (k / 8) r).foldl (fun hw c => modCore hw c fun x =>
    ((List.range 8).filter fun f => r.frames.getLsbD f).foldl (fun x f => setFrame x f { frameAt x f with state := .free }) x) hw

/-- Rewrites the configuration of a region from its object (15 R398 class 3). -/
def reloadRegion (hw : Hw) (k i : Nat) : Hw :=
  match handleOf hw (rcAt hw k i).hoist with
  | none => hw
  | some h =>
    match h.body with
    | .object _ => hw
    | .hoist q _ => match objOf hw q, h.placed.find? fun x => x.2 = (k, i) with
      | some o, some x => match o.regions[x.1]? with
        | none => hw
        | some g => loadRegion (freeFrames hw k (rcAt hw k i)) h.asid q o h.placed g (k, i)
      | _, _ => hw

/-- The tasks of a core whose context satisfies `p` discarded. -/
def discardTasksOf (hw : Hw) (core : Nat) (p : Nat → Bool) : Hw :=
  (hw.tasks.filter fun t => t.core = core && (t.state == .running || t.state == .parked || t.state == .retiring) && p t.ctx).foldl discardTask hw

/-- ELEMENT_STATE_ERROR, class 3: the region is aborted and its configuration rewritten from the object. Of a frame that no
region holds, the tasks with an activation in it are discarded and the frame is emptied (log 18). -/
def execElementStateError (elem frame : Nat) (s : State) : Res State :=
  let c := coreOf elem
  let part := (partOfCl s.hw (clOf c)).getD 0
  match regionOf s.hw c frame with
  | some (k, i, _) => .next { s with hw := contained (reloadRegion (regionAbort s.hw k i) k i) 3 part k elem }
  | none =>
    let uses := fun (n : Nat) => (actsOf (coreAt s.hw c) frame).any fun a => a.ctx == some n
    let hw := discardTasksOf s.hw c uses
    let hw := discardActs hw c fun a => a.frame = frame
    let hw := clearCounts (clearSlots hw c frame true) c frame
    .next { s with hw := contained (modCore hw c fun x => setFrame x frame {}) 3 part (clOf c) elem }

/-- Resets a core (15 R398 class 4): everything it held is gone; the stores that had left it perform, without their tokens. -/
def resetCore (hw : Hw) (core : Nat) : Hw :=
  let hw := discardActs hw core fun _ => true
  let mute := fun (a : Access) => { a with site := { a.site with t0 := 0, t1 := 0 } }
  let hw := { hw with acc := hw.acc.filterMap fun a =>
                        if a.core ≠ core then some a else if a.kind == .store then some (mute a) else none
                      net := hw.net.filter fun x => !(contLC x.tok.cont = ownLC hw && contCore x.tok.cont = core)
                      elems := tkeep (fun e => coreOf e != core) hw.elems }
  clearHolder (setCore hw core { cycleAt0 := hw.now, nextSeq := (coreAt hw core).nextSeq }) (dieOf core) (core % 64)

/-- CORE_STATE_ERROR, class 4: the core's regions are aborted, its tasks discarded with DONEC decremented with FAULT, and the
core is reset. -/
def execCoreStateError (core : Nat) (s : State) : Res State :=
  if 256 ≤ core then .fault .notEnabled
  else
    let rs := (dieRegions s.hw (dieOf core)).filter fun x => x.2.2.valid && (regionCores (dieOf core) x.2.2).contains core
    let hw := rs.foldl (fun hw x => regionAbort hw x.1 x.2.1) s.hw
    let hw := resetCore (discardTasksOf hw core fun _ => true) core
    .next { s with hw := contained hw 4 ((partOfCl hw (clOf core)).getD 0) (clOf core) core }

/-- A list in an order of free choice, which takes one free value for each element, from the `k`-th on. -/
def anyOrder {α : Type} : List α → Nat → List α
  | [], _ => []
  | a :: r, k =>
    let l := anyOrder r (k + 1)
    let j := Config.choice k % (l.length + 1)
    l.take j ++ a :: l.drop j

/-- Key entries with their queues in orders of free choice, from the `k`-th free value on, and the next free value. -/
def anyQueues : List KeyEntry → Nat → List KeyEntry × Nat
  | [], k => ([], k)
  | e :: r, k =>
    let (l, n) := anyQueues r (k + e.queue.length)
    ({ e with queue := anyOrder e.queue k } :: l, n)

/-- The entries of a slice as other partitions announce them again: the queues take any order (15 R398 class 5). -/
def reannounce (hw : Hw) (cl : Nat) : Hw :=
  let c := clAt hw cl
  let (keys, k) := anyQueues c.keys hw.free
  { setCl hw cl { c with keys := keys, keyWait := anyOrder c.keyWait k } with free := k + c.keyWait.length }

/-- CLUSTER_CONTROL_ERROR, class 5: the cluster's partition is reset. -/
def execClusterControlError (cl : Nat) (s : State) : Res State :=
  if 32 ≤ cl then .fault .notEnabled
  else
    let p := partOfCl s.hw cl
    let (m, hw) := match p with
      | some p => partReset s.mem s.hw p
      | none => (s.mem, s.hw)
    .next { mem := m, hw := contained (reannounce hw cl) 5 (p.getD 0) cl cl }

/-- The partitions with granules on an HBM stack (15 R394). -/
def stackParts (hw : Hw) (stack : Nat) : List Nat :=
  let own := fun (g : Nat × (BitVec 2 × BitVec 10)) =>
    if g.1 / 2 ^ 15 ≠ stack then none
    else if g.2.1 = 1 then partOfAsid hw g.2.2
    else if g.2.1 = 2 then some (g.2.2.toNat % 16)
    else none
  (hw.pkg.granules.filterMap own).eraseDups

/-- HBM_STACK_FAILURE, class 6: the stack is off line, its lines poisoned, and the partitions with granules on it reset. -/
def execHbmStackFailure (stack : Nat) (s : State) : Res State :=
  if 8 ≤ stack then .fault .notEnabled
  else
    let m := { s.mem with dead := sins s.mem.dead stack }
    let hw := modPkg s.hw fun p => { p with offline := sins p.offline stack }
    let ps := stackParts hw stack
    let (m, hw) := ps.foldl (fun (x : Mem × Hw) p => partReset x.1 x.2 p) (m, hw)
    .next { mem := m, hw := contained hw 6 (ps.headD 0) (stack / 2 * 8) stack }

/-- UCIE_LINK_ERROR, class 7: the link retrains, or, with its replays exhausted, which its report says, its traffic takes the third die;
delay only. -/
def execUcieLinkError (d1 d2 : Nat) (exhausted : Bool) (s : State) : Res State :=
  if 4 ≤ d1 || 4 ≤ d2 || d1 = d2 then .fault .notEnabled
  else
    let hw := if exhausted then modPkg s.hw fun p => { p with detour := p.detour ++ [(d1, d2)] } else s.hw
    .next { s with hw := containedAs hw (if exhausted then cREPLAY else containCode 7) 7 0 (d1 * 8) (d1 * 4 + d2) }

/-- The units of a core that are stopped at a fault report again (15 R398 class 9). -/
def reportAgain (hw : Hw) (c : Nat) : Hw :=
  let x := coreAt hw c
  let cl := clOf c
  let hw := x.gens.foldl (fun hw g => if g.2.record.valid then report hw cl g.2.record.code.toNat g.2.record.fva.toNat else hw) hw
  let hw := x.ctxs.foldl (fun hw k => if k.2.record.valid then report hw cl k.2.record.code.toNat (recLow k.2.record) else hw) hw
  let hw := if x.relRec.valid then report hw cl x.relRec.code.toNat (recLow x.relRec) else hw
  if x.matRec.valid then matReport hw c x.matRec else hw

/-- SERVICE_CORE_FAILURE, class 9: the service core is reset and its clusters pass on; a pending SVC is refused; units still
faulted report again. The last service core of a die is of class 10. -/
def execServiceCoreFailure (die sc : Nat) (s : State) : Res State :=
  if 4 ≤ die || 4 ≤ sc || (scAt s.hw die sc).reset then .fault .notEnabled
  else
    let served := (List.range 8).filter fun k => scOf s.hw (die * 8 + k) = sc
    let inbox := (scAt s.hw die sc).inbox
    let hw := setSc s.hw die sc { reset := true, inbox := [] }
    let hw := inbox.foldl svcRefuse hw
    let hw := served.foldl (fun hw k => (List.range 8).foldl (fun hw i => reportAgain hw ((die * 8 + k) * 8 + i))
      (modCl hw (die * 8 + k) fun c => { c with copies := [] })) hw
    let last := (List.range 4).all fun i => (scAt hw die i).reset
    if last then .next { s with hw := modPkg (contained hw 10 0 (die * 8) die) fun p => { p with stopped := true } }
    else .next { s with hw := contained hw 9 0 (die * 8) (die * 4 + sc) }

/-- PACKAGE_ERROR, class 10: the package stops. -/
def execPackageError (s : State) : Res State :=
  let hw := contained s.hw 10 0 0 0
  .next { s with hw := modPkg hw fun p => { p with stopped := true } }

end Sys2Proof.Machine
end

