-- ==== Sys2Proof/Machine/Checkpoint.lean ====
section
/-! DEFINITION. Checkpoint cuts and rollback (16 R415 to R421): CHKPT and ROLLBACK. -/
namespace Sys2Proof.Machine

/-! ## The cut descriptor (16 R419, Table 16.4) -/

/-- The descriptor at port a with its poison: a 64-byte record of this package's memory. -/
def cutDesc (f : Fire) (m : Mem) (hw : Hw) : Except Stop (List Word × Bool) :=
  let a := f.a.value.toNat
  let l := paLocal a
  if a / 2 ^ 56 ≠ 0 || paLC a ≠ ownLC hw || a % 64 ≠ 0 || !(inHbm l || (inAperture l && bits l 28 12 == 0)) then
    .error (outOfRange 0 f.a.value)
  else .ok ((List.range 8).map fun i => BitVec.ofNat 64 (memRead m (l + 8 * i) 8), linePsn m l)

/-- CUT of a descriptor. -/
def cutNum (d : List Word) : Nat := bits (dWord d 0) 0 32

/-- The lowest word of a descriptor that breaks Table 16.4. -/
def badCut (hw : Hw) (d : List Word) : Option Nat :=
  let bad := [(0, bits (dWord d 0) 33 31 != 0 || cutNum d == 0), (1, bits (dWord d 1) 56 8 != 0 || paLC (dWord d 1) == ownLC hw),
    (2, bits (dWord d 2) 24 40 != 0)] ++ (List.range 5).map fun i => (i + 3, dWord d (i + 3) != 0)
  (bad.find? (·.2)).map (·.1)

/-- T0 of CHKPT: a status with the cut number (16 R420). -/
def cutStatus (f : Fire) (hw : Hw) (status n : Nat) : Except Stop Hw :=
  emit0 f hw [tokOf f .data (BitVec.ofNat 64 (status + n * 2 ^ 32))]

/-- Changes the checkpoint state. -/
def modCut (hw : Hw) (g : Cut → Cut) : Hw := modPkg hw fun p => { p with cut := g p.cut }

/-! ## Steps 1 and 2 of R416 -/

/-- The live ASIDs (15 Table 15.3). -/
def liveAsids (hw : Hw) : List (BitVec 10) := hw.pkg.asids.map fun x => BitVec.ofNat 10 x.1

/-- Whether an activation runs in a frame that firmware loaded: the cut itself is taken from one. -/
def ofFirmware (hw : Hw) (c : Nat) (a : Act) : Bool := (frameAt (coreAt hw c) a.frame).firmware

/-- The exposed activations that the drain waits for. -/
def cutExposed (hw : Hw) : List (Nat × Act) :=
  (actsOfAsid hw fun a => (liveAsids hw).contains a).filter fun x => x.2.exposed && !ofFirmware hw x.1 x.2

/-- The live ASIDs whose work is still to be saved for the cut. -/
def cutLive (hw : Hw) : List (BitVec 10) := (liveAsids hw).filter fun a => !isSaved hw a

/-- Discards what is not exposed of every live ASID (13 R367). -/
def cutDiscard (hw : Hw) : Hw := discardAsids hw (fun a => (cutLive hw).contains a) (ofFirmware hw)

/-- Whether messages of channels, and what committed activations of the live ASIDs have under way, have all arrived (13 R367). -/
def cutSettled (hw : Hw) : Bool := hw.chan.isEmpty && (cutLive hw).all fun a => !underWay hw a

/-- Saves every live ASID. -/
def cutSave (m : Mem) (hw : Hw) : Mem × Hw :=
  (cutLive hw).foldl (fun (x : Mem × Hw) a =>
    let (m, hw, w) := saveVictim x.1 x.2 a true
    (m, modCut hw fun c => { c with works := c.works ++ [(a, w)] })) (m, hw)

/-- Restores some saved work; none while a directory has no room for its PX entries (13 R339, R370). -/
def worksBack : List (BitVec 10 × SavedWork) → Mem → Hw → Option (Mem × Hw)
  | [], m, hw => some (m, hw)
  | w :: rest, m, hw =>
    if (pxBack w.2.px hw).isNone then none
    else
      let (m, hw) := restoreVictim m hw w.2
      worksBack rest m hw

/-- Restores every ASID saved for the cut. -/
def cutResume (m : Mem) (hw : Hw) : Option (Mem × Hw) := worksBack hw.pkg.cut.works m (modCut hw fun c => { c with works := [] })

/-- Lets the streams that markers of cuts up to `n` held deliver again; one that a later cut's marker holds stays held (16 R415). -/
def releaseStreams (n : Nat) (hw : Hw) : Hw :=
  modPkg hw fun p => { p with nums := p.nums.map fun x => (x.1, if x.2.held.any fun k => decide (k ≤ n) then { x.2 with held := none } else x.2) }

/-! ## Steps 3 and 4 -/

/-- The record of a cut: a marker at which a stream is held has been delivered to no unit (16 R415). -/
def cutRecord (hw : Hw) (d : List Word) : CutRec :=
  let p := hw.pkg
  let back := fun (x : Nat × FabNums) => if x.2.held.isSome then (x.1, { x.2 with nextIn := (x.2.nextIn + 2 ^ 32 - 1) % 2 ^ 32, held := none }) else x
  { num := cutNum d, before := p.cut.num.toNat, dest := dWord d 1
    replay := p.replay.map fun r => { r with kept := none }, nums := p.nums.map back
    ens := [0, 1, 2, 3].map fun i => (i, (dieAt hw i).ens), full := !bit (dWord d 0) 32
    works := p.cut.works, pre := p.pre, tasks := hw.tasks.filter fun t => t.state == .saved }

/-- Sends a marker in each stream to every logical chip whose entry is not off, from the die of the firmware that takes the cut; one
without a path or a replay entry waits. -/
def sendMarkers (hw : Hw) (d n : Nat) : Hw :=
  if !(dieAt hw 0).ensSelf.getLsbD 63 then hw
  else
    let lcs := (List.range 1024).filter fun lc => ensState hw d lc ≠ 0 && lc ≠ ownLC hw
    lcs.foldl (fun hw lc => [0, 1, 2].foldl (fun hw c => fabSend hw d lc c (.marker n)) hw) hw

/-- Records a cut and sends its markers; replay entries kept for it are freed (16 R417). -/
def cutTake (hw : Hw) (die : Nat) (d : List Word) : Hw :=
  let r := cutRecord hw d
  let n := cutNum d
  let done := fun (e : RplEntry) => match e.kept with
    | some k => decide (k ≤ n)
    | none => false
  let hw := modPkg hw fun p =>
    { p with replay := p.replay.filter fun e => !done e
             cut := { p.cut with recs := r :: p.cut.recs, num := BitVec.ofNat 32 n, state := 2, written := false } }
  sendMarkers hw die n

/-! ## Step 5: the image (16 R418) -/

/-- The leaves under a table as (address, entry, page base, bytes). -/
def leavesFrom (m : Mem) (hw : Hw) : List PtLevel → Nat → List (Nat × Nat × Nat × Nat)
  | [], _ => []
  | lv :: rest, t => (List.range (2 ^ lv.len)).flatMap fun i =>
    let a := paLocal t + 8 * i
    let p := memRead m a 8
    if !bit p 0 || pteMalformed hw lv p then []
    else if bit p 1 then [(a, p, pteAddr p, pageBytes (lv.leaf.getD 0))]
    else leavesFrom m hw rest (pteAddr p)

/-- The tables from one downward as (base, bytes). -/
def tablesFrom (m : Mem) (hw : Hw) : List PtLevel → Nat → List (Nat × Nat)
  | [], _ => []
  | lv :: rest, t => (paLocal t, 8 * 2 ^ lv.len) :: (List.range (2 ^ lv.len)).flatMap fun i =>
    let p := memRead m (paLocal t + 8 * i) 8
    if !bit p 0 || pteMalformed hw lv p || bit p 1 then [] else tablesFrom m hw rest (pteAddr p)

/-- The page-table roots of the package's ASIDs. -/
def ptRoots (hw : Hw) : List Nat :=
  ([0, 1, 2, 3].flatMap fun d => ((dieAt hw d).xlAsid.filter fun x => x.2.getLsbD 63).map fun x => bits x.2.toNat 12 44 * 2 ^ 12).eraseDups

/-- Every leaf with D = 1. -/
def dirtyLeaves (m : Mem) (hw : Hw) : List (Nat × Nat × Nat × Nat) :=
  (ptRoots hw).flatMap fun t => (leavesFrom m hw ptLevels t).filter fun x => bit x.2.1 6

/-- The ranges of an image: all of HBM, or the dirty pages, the page tables and the granules that service cores have written
physically. -/
def imagePages (m : Mem) (hw : Hw) (full : Bool) : List (Nat × Nat) :=
  if full then [(0, 2 ^ 39)]
  else
    let own := (dirtyLeaves m hw).filter fun x => paLC x.2.2.1 = ownLC hw && inHbm (paLocal x.2.2.1)
    (own.map fun x => (paLocal x.2.2.1, x.2.2.2)) ++ (ptRoots hw).flatMap (tablesFrom m hw ptLevels) ++
      hw.pkg.cut.phys.map fun g => (g * 2 ^ 21, 2 ^ 21)

/-- Whether an address lies in some ranges. -/
def inPages (ps : List (Nat × Nat)) (a : Nat) : Bool := ps.any fun p => decide (p.1 ≤ a ∧ a < p.1 + p.2)

/-- Clears D in some leaves, and shoots down every ASID. -/
def cleanLeaves (m : Mem) (hw : Hw) (die : Nat) (ls : List (Nat × Nat × Nat × Nat)) : Mem × Hw :=
  let (m, hw) := ls.foldl (fun (y : Mem × Hw) x => homeWriteBytes y.1 y.2 x.1 (bytesOf 8 (x.2.1 - 2 ^ 6)) false) (m, hw)
  let all := fun (a : Nat) => BitVec.ofNat 64 (2 ^ 63 + 2 ^ 62 + a * 2 ^ 48)
  (m, (([0, 1, 2, 3].flatMap fun d => (dieAt hw d).xlAsid.map (·.1)).eraseDups).foldl (fun hw a => shootWrite hw die (all a)) hw)

/-- Writes the image of the cut recorded last. -/
def cutWrite (m : Mem) (hw : Hw) (die : Nat) : Mem × Hw :=
  match hw.pkg.cut.recs with
  | [] => (m, modCut hw fun c => { c with written := true })
  | r :: rest =>
    let ps := imagePages m hw r.full
    let r := { r with pages := ps, image := m.bytes.filter fun b => inPages ps b.1, poison := m.poison.filter (inPages ps) }
    let (m, hw) := if r.full then (m, hw) else cleanLeaves m hw die (dirtyLeaves m hw)
    (m, modCut hw fun c => { c with written := true, recs := r :: rest })

/-! ## BEGIN -/

/-- Ends the part of a cut that CHKPT ABANDON, or the drain limit, has abandoned: the ASIDs resume, held arrivals go on. -/
def cutAbandon (n : Nat) (m : Mem) (hw : Hw) : Option (Mem × Hw) :=
  (cutResume m (releaseStreams n hw)).map fun (m, hw) =>
    (m, modCut hw fun c => { c with state := 0, abandoned := true, written := false })

/-- What the next phase of a CHKPT comes to: memory, the rest, and whether the firing is complete. -/
abbrev CutStep := Except Stop (Mem × Hw × Bool)

/-- The phases of a cut that is being taken by this firing (16 R416, R420). -/
def cutPhase (f : Fire) (m : Mem) (hw : Hw) (d : List Word) : CutStep :=
  let c := hw.pkg.cut
  let n := cutNum d
  let ended := fun (hw : Hw) => modCut hw fun c => { c with taking := none, stopping := false }
  let abandon := fun (m : Mem) (hw : Hw) => (do
    let hw ← cutStatus f (ended hw) 1 n
    .ok (m, hw, true) : CutStep)
  if c.stopping then abandon m hw
  else if c.state = 1 then
    if !(cutExposed hw).isEmpty then
      if hw.now < c.since + bits (dWord d 2) 0 24 then .error (.wait hw)
      else match cutAbandon n m hw with
        | none => .error (.wait hw)
        | some (m, hw) => abandon m hw
    else if !cutSettled (cutDiscard hw) then .error (.wait (cutDiscard hw))
    else do
      let (m, hw) := cutSave m (cutDiscard hw)
      let hw ← emit1 f (releaseStreams n (cutTake hw (dieOf f.core) d)) [tokOf f .order]
      .ok (m, hw, false)
  else if !c.written then
    let (m, hw) := cutWrite m hw (dieOf f.core)
    .ok (m, hw, false)
  else if (dieAt hw (dieOf f.core)).shoot.isSome then .error (.wait hw)
  else match cutResume m hw with
    | none => .error (.wait hw)
    | some (m, hw) => do
      let hw ← cutStatus f (ended (modCut hw fun c => { c with state := 0, written := false })) 0 n
      .ok (m, hw, true)

/-- DATA 0 with poison to both targets: a descriptor read from a poisoned line is treated as a poisoned port (log 19). -/
def cutPoison (f : Fire) (m : Mem) (hw : Hw) : CutStep := do
  let hw ← passPoison f m hw
  .ok (m, hw, true)

/-- A checked descriptor handed to an operation. -/
def withDesc (f : Fire) (m : Mem) (hw : Hw) (go : List Word → CutStep) : CutStep := do
  let (d, psn) ← cutDesc f m hw
  if psn then cutPoison f m hw
  else match badCut hw d with
    | some i => .error (badField i (d.getD i 0))
    | none => go d

/-- CHKPT BEGIN: refused unless idle and the number is new (16 R420); it starts, or goes on with, its cut. -/
def cutBegin (f : Fire) (m : Mem) (hw : Hw) : CutStep :=
  match hw.pkg.cut.taking with
  | some (s, d) => if s = f.site then cutPhase f m hw d
    else withDesc f m hw fun d => do
      let hw ← cutStatus f hw 2 (cutNum d)
      .ok (m, hw, true)
  | none => withDesc f m hw fun d =>
    if hw.pkg.cut.state ≠ 0 || cutNum d ≤ hw.pkg.cut.num.toNat then do
      let hw ← cutStatus f hw 2 (cutNum d)
      .ok (m, hw, true)
    else .ok (m, modCut hw fun c => { c with state := 1, taking := some (f.site, d), since := hw.now, written := false }, false)

/-! ## ABANDON, RESTORE -/

/-- Forgets the cut recorded last if it has a number: CUT is the cut before again. -/
def cutForget (n : Nat) (hw : Hw) : Hw :=
  modCut hw fun c => match c.recs with
    | r :: rest => if r.num = n && c.num.toNat = n then { c with num := BitVec.ofNat 32 r.before, recs := rest } else c
    | [] => c

/-- CHKPT ABANDON of the cut being taken, or recorded last (16 R420). -/
def cutDrop (f : Fire) (m : Mem) (hw : Hw) : CutStep := withDesc f m hw fun d => do
  let n := cutNum d
  let taking := match hw.pkg.cut.taking with
    | some (_, e) => decide (cutNum e = n) && !hw.pkg.cut.stopping
    | none => false
  let after := if taking then
      (cutAbandon n m (cutForget n hw)).map fun (m, hw) => (m, modCut hw fun c => { c with stopping := true })
    else if hw.pkg.cut.num.toNat = n then
      some (m, modCut (releaseStreams n (cutForget n hw)) fun c => { c with abandoned := true })
    else some (m, hw)
  match after with
  | none => .error (.wait hw)
  | some (m, hw) =>
    let hw ← cutStatus f hw 0 n
    let hw ← emit1 f hw [tokOf f .order]
    .ok (m, hw, true)

/-- Gives saved tasks their keys back in the slices (10 R276, R281). -/
def reholdKeys (hw : Hw) (t : Task) : Hw :=
  t.held.foldl (fun hw k =>
    let e := (keyAt hw t.asid k.1).getD { asid := t.asid, key := k.1, holders := [], queue := [] }
    putKey hw { e with holders := e.holders ++ [(t.id, k.2)] }) hw

/-- Steps 4 and 5 of R421: stream numbers, ensign tables and replay entries of the record, every entry to be resent; then,
where the package is rolling back, it is idle again and the saved ASIDs resume. None while a directory has no room. -/
def cutRestore (m : Mem) (hw : Hw) (r : CutRec) : Option (Mem × Hw) :=
  let hw := modPkg hw fun p =>
    { p with nums := r.nums, replay := r.replay.map fun e => { e with due := true, tries := 0 }, recvBuf := [] }
  let hw := r.ens.foldl (fun hw x => modDie hw x.1 fun y => { y with ens := x.2 }) hw
  if hw.pkg.cut.state ≠ 3 then some (m, hw)
  else
    let hw := modPkg hw fun p => { p with pre := r.pre, cut := { p.cut with state := 0, works := r.works } }
    let hw := r.tasks.foldl reholdKeys { hw with tasks := hw.tasks ++ r.tasks }
    cutResume m hw

/-- The record of the image of a cut at an address: this package's own, else the one that another package took, which a spare
restores (16 R422); what that one holds is free, as the layout of an image is firmware's (log 10). -/
def imageRec (hw : Hw) (dest n : Nat) : CutRec :=
  (hw.pkg.cut.recs.find? fun r => r.dest = dest && r.num = n).getD { Config.cutImage n with num := n, dest := dest }

/-- CHKPT RESTORE, with the record of the image at DEST (16 R420, R421). -/
def cutBack (f : Fire) (m : Mem) (hw : Hw) : CutStep := withDesc f m hw fun d => do
  let n := cutNum d
  match cutRestore m hw (imageRec hw (dWord d 1) n) with
  | none => .error (.wait hw)
  | some (m, hw) =>
    let hw ← cutStatus f hw 0 n
    let hw ← emit1 f hw [tokOf f .order]
    .ok (m, hw, true)

/-! ## The instructions (16 R419, R420) -/

/-- What CHKPT does before its own effect: its checks, and the cases that have none. -/
def chkptMeaning : Meaning :=
  { pre := firmwareOnly
    body := fun f m hw => if tokPsn f.a then passPoison f m hw else .ok hw }

/-- Whether a CHKPT firing has its own effect. -/
def chkptActs (f : Fire) (hw : Hw) : Bool :=
  !dropped hw f && predOf f.w.pr f.p = .fires && f.data.all fun t => t.kind == .data && !t.psn

/-- The end of a phase: of a firing that is not complete its operands stay. -/
def chkptEnd (f : Fire) (s : State) (r : CutStep) : Res State :=
  match r with
  | .error e => finish f s (.error e)
  | .ok (m, hw, true) => .next { mem := m, hw := { consume f hw with focus := none, waited := false } }
  | .ok (m, hw, false) => .next { mem := m, hw := { hw with focus := none, waited := false } }

/-- The firing of a CHKPT that changes memory. -/
def chkptFire (sp : OpSpec) (go : Fire → Mem → Hw → CutStep) (w : Fields) (s : State) : Res State :=
  match focusFire sp w s.hw with
  | none => .fault .notEnabled
  | some f =>
    match effect sp chkptMeaning f s.mem s.hw with
    | .ok hw => if chkptActs f s.hw then chkptEnd f s (go f s.mem s.hw) else finish f s (.ok hw)
    | r => finish f s r

/-- CHKPT BEGIN (16 R416, R420). -/
def execChkptBegin (w : Fields) (s : State) : Res State := chkptFire specChkptBegin cutBegin w s
/-- CHKPT RESTORE (16 R420, R421). -/
def execChkptRestore (w : Fields) (s : State) : Res State := chkptFire specChkptRestore cutBack w s
/-- CHKPT ABANDON (16 R420). -/
def execChkptAbandon (w : Fields) (s : State) : Res State := chkptFire specChkptAbandon cutDrop w s
/-- CHKPT QUERY: PART_CUT (16 R420); DEDUCED (log 19): the address on port a is ignored, a NULL or poison there is not (16 R419). -/
def execChkptQuery (w : Fields) (s : State) : Res State :=
  fire specChkptQuery
    { pre := firmwareOnly
      body := fun f m hw =>
        if tokPsn f.a then passPoison f m hw
        else do
          let hw ← emit0 f hw [tokOf f .data (regValue hw .partCut)]
          emit1 f hw [tokOf f .order] } w s

/-! ## ROLLBACK -/

/-- Writes an image back over its ranges (16 R421 step 3). -/
def imageBack (m : Mem) (r : CutRec) : Mem :=
  let m := r.pages.foldl (fun m p => memZero m p.1 p.2) m
  r.poison.foldl poisonLine (r.image.foldl (fun m b => putByte m b.1 b.2) m)

/-- The images that a rollback to a cut writes, the last full one first; none without one. -/
def imagesFor (recs : List CutRec) (cut : Nat) : Option (List CutRec) :=
  let upto := recs.filter fun r => decide (r.num ≤ cut)
  match posOf (fun (r : CutRec) => r.full) upto with
  | none => none
  | some i => if upto.any fun r => r.num = cut then some (upto.take (i + 1)).reverse else none

/-- ROLLBACK: steps 1 to 3 of R421; CHKPT RESTORE takes the others. Where this package has not recorded the cut, it writes back what
another package recorded, as a spare does (16 R422; log 10). Cuts are numbered from 1 (16 Table 16.4). -/
def execRollback (cut : Nat) (s : State) : Res State :=
  if cut = 0 then .fault .notEnabled
  else
    let rs := (imagesFor s.hw.pkg.cut.recs cut).getD [{ Config.cutImage cut with num := cut }]
    let valid := (s.hw.pkg.parts.filter fun p => p.2.valid).map (·.1)
    let (m, hw) := valid.foldl (fun (x : Mem × Hw) p => partReset x.1 x.2 p) (s.mem, modCut s.hw fun c => { c with state := 3 })
    let recs := hw.pkg.cut.recs.filter fun r => decide (r.num ≤ cut)
    let hw := modCut hw fun c =>
      { c with num := BitVec.ofNat 32 cut, recs := recs, taking := none, stopping := false, works := [], written := false }
    .next { mem := rs.foldl imageBack m, hw := hw }

end Sys2Proof.Machine
end

