-- ==== Sys2Proof/Machine/Dispatch.lean ====
section
/-! DEFINITION. The dispatch: one arm per constructor of `Instr`, each one call of its meaning. -/
namespace Sys2Proof.Machine

/-- What an instruction at the focus, or an event, does. -/
def exec (i : Instr) (s : State) : Host.Outcome State Fault Refusal :=
  match i with
  | .mov w => Sys2Proof.Machine.execMov w s
  | .const w => Sys2Proof.Machine.execConst w s
  | .fan w => Sys2Proof.Machine.execFan w s
  | .steer w => Sys2Proof.Machine.execSteer w s
  | .merge w => Sys2Proof.Machine.execMerge w s
  | .gate w => Sys2Proof.Machine.execGate w s
  | .sink w => Sys2Proof.Machine.execSink w s
  | .nullgen w => Sys2Proof.Machine.execNullgen w s
  | .isnull w => Sys2Proof.Machine.execIsnull w s
  | .coalesce w => Sys2Proof.Machine.execCoalesce w s
  | .endm w => Sys2Proof.Machine.execEndm w s
  | .endrank w => Sys2Proof.Machine.execEndrank w s
  | .skip w => Sys2Proof.Machine.execSkip w s
  | .chsend w => Sys2Proof.Machine.execChsend w s
  | .chrecv w => Sys2Proof.Machine.execChrecv w s
  | .credit w => Sys2Proof.Machine.execCredit w s
  | .chopen w => Sys2Proof.Machine.execChopen w s
  | .chclose w => Sys2Proof.Machine.execChclose w s
  | .packt w => Sys2Proof.Machine.execPackt w s
  | .talloc w => Sys2Proof.Machine.execTalloc w s
  | .tfree w => Sys2Proof.Machine.execTfree w s
  | .tnext w => Sys2Proof.Machine.execTnext w s
  | .tidx w => Sys2Proof.Machine.execTidx w s
  | .tset w => Sys2Proof.Machine.execTset w s
  | .tget w => Sys2Proof.Machine.execTget w s
  | .tcall w => Sys2Proof.Machine.execTcall w s
  | .tret w => Sys2Proof.Machine.execTret w s
  | .read w => Sys2Proof.Machine.execRead w s
  | .readHoldAtOpen w => Sys2Proof.Machine.execReadHoldAtOpen w s
  | .write w => Sys2Proof.Machine.execWrite w s
  | .exit w => Sys2Proof.Machine.execExit w s
  | .exitx w => Sys2Proof.Machine.execExitx w s
  | .spawn w => Sys2Proof.Machine.execSpawn w s
  | .spawni w => Sys2Proof.Machine.execSpawni w s
  | .cntinit w => Sys2Proof.Machine.execCntinit w s
  | .cntdec w => Sys2Proof.Machine.execCntdec w s
  | .cntwait w => Sys2Proof.Machine.execCntwait w s
  | .waita w => Sys2Proof.Machine.execWaita w s
  | .switch w => Sys2Proof.Machine.execSwitch w s
  | .quiet w => Sys2Proof.Machine.execQuiet w s
  | .getid w => Sys2Proof.Machine.execGetid w s
  | .cycle w => Sys2Proof.Machine.execCycle w s
  | .trap w => Sys2Proof.Machine.execTrap w s
  | .svc w => Sys2Proof.Machine.execSvc w s
  | .brk w => Sys2Proof.Machine.execBrk w s
  | .pin w => Sys2Proof.Machine.execPin w s
  | .unpin w => Sys2Proof.Machine.execUnpin w s
  | .resq w => Sys2Proof.Machine.execResq w s
  | .keyq w => Sys2Proof.Machine.execKeyq w s
  | .add w => Sys2Proof.Machine.execAdd w s
  | .sub w => Sys2Proof.Machine.execSub w s
  | .rsub w => Sys2Proof.Machine.execRsub w s
  | .neg w => Sys2Proof.Machine.execNeg w s
  | .abs w => Sys2Proof.Machine.execAbs w s
  | .adds w => Sys2Proof.Machine.execAdds w s
  | .subs w => Sys2Proof.Machine.execSubs w s
  | .mul w => Sys2Proof.Machine.execMul w s
  | .mulh w => Sys2Proof.Machine.execMulh w s
  | .mulhz w => Sys2Proof.Machine.execMulhz w s
  | .div w => Sys2Proof.Machine.execDiv w s
  | .divz w => Sys2Proof.Machine.execDivz w s
  | .rem w => Sys2Proof.Machine.execRem w s
  | .remz w => Sys2Proof.Machine.execRemz w s
  | .min w => Sys2Proof.Machine.execMin w s
  | .max w => Sys2Proof.Machine.execMax w s
  | .minz w => Sys2Proof.Machine.execMinz w s
  | .maxz w => Sys2Proof.Machine.execMaxz w s
  | .and w => Sys2Proof.Machine.execAnd w s
  | .or w => Sys2Proof.Machine.execOr w s
  | .xor w => Sys2Proof.Machine.execXor w s
  | .andn w => Sys2Proof.Machine.execAndn w s
  | .orn w => Sys2Proof.Machine.execOrn w s
  | .not w => Sys2Proof.Machine.execNot w s
  | .shl w => Sys2Proof.Machine.execShl w s
  | .shr w => Sys2Proof.Machine.execShr w s
  | .sar w => Sys2Proof.Machine.execSar w s
  | .rol w => Sys2Proof.Machine.execRol w s
  | .ror w => Sys2Proof.Machine.execRor w s
  | .clz w => Sys2Proof.Machine.execClz w s
  | .ctz w => Sys2Proof.Machine.execCtz w s
  | .popc w => Sys2Proof.Machine.execPopc w s
  | .brev w => Sys2Proof.Machine.execBrev w s
  | .bswap w => Sys2Proof.Machine.execBswap w s
  | .ext w => Sys2Proof.Machine.execExt w s
  | .extz w => Sys2Proof.Machine.execExtz w s
  | .ins w => Sys2Proof.Machine.execIns w s
  | .sext w => Sys2Proof.Machine.execSext w s
  | .zext w => Sys2Proof.Machine.execZext w s
  | .lea w => Sys2Proof.Machine.execLea w s
  | .packw w => Sys2Proof.Machine.execPackw w s
  | .cmpeq w => Sys2Proof.Machine.execCmpeq w s
  | .cmpne w => Sys2Proof.Machine.execCmpne w s
  | .cmplt w => Sys2Proof.Machine.execCmplt w s
  | .cmple w => Sys2Proof.Machine.execCmple w s
  | .cmpltz w => Sys2Proof.Machine.execCmpltz w s
  | .cmplez w => Sys2Proof.Machine.execCmplez w s
  | .testz w => Sys2Proof.Machine.execTestz w s
  | .testnz w => Sys2Proof.Machine.execTestnz w s
  | .sel w => Sys2Proof.Machine.execSel w s
  | .bound w => Sys2Proof.Machine.execBound w s
  | .clamp w => Sys2Proof.Machine.execClamp w s
  | .pand w => Sys2Proof.Machine.execPand w s
  | .por w => Sys2Proof.Machine.execPor w s
  | .pnot w => Sys2Proof.Machine.execPnot w s
  | .fadd w => Sys2Proof.Machine.execFadd w s
  | .fsub w => Sys2Proof.Machine.execFsub w s
  | .fmul w => Sys2Proof.Machine.execFmul w s
  | .ffma w => Sys2Proof.Machine.execFfma w s
  | .ffms w => Sys2Proof.Machine.execFfms w s
  | .fmin w => Sys2Proof.Machine.execFmin w s
  | .fmax w => Sys2Proof.Machine.execFmax w s
  | .fabs w => Sys2Proof.Machine.execFabs w s
  | .fneg w => Sys2Proof.Machine.execFneg w s
  | .fcpys w => Sys2Proof.Machine.execFcpys w s
  | .fcmpeq w => Sys2Proof.Machine.execFcmpeq w s
  | .fcmplt w => Sys2Proof.Machine.execFcmplt w s
  | .fcmple w => Sys2Proof.Machine.execFcmple w s
  | .fcmpun w => Sys2Proof.Machine.execFcmpun w s
  | .frcp w => Sys2Proof.Machine.execFrcp w s
  | .frsq w => Sys2Proof.Machine.execFrsq w s
  | .fsqrt w => Sys2Proof.Machine.execFsqrt w s
  | .fdiv w => Sys2Proof.Machine.execFdiv w s
  | .fexp2 w => Sys2Proof.Machine.execFexp2 w s
  | .flog2 w => Sys2Proof.Machine.execFlog2 w s
  | .ftanh w => Sys2Proof.Machine.execFtanh w s
  | .fsin w => Sys2Proof.Machine.execFsin w s
  | .fcos w => Sys2Proof.Machine.execFcos w s
  | .frnd w => Sys2Proof.Machine.execFrnd w s
  | .fscale w => Sys2Proof.Machine.execFscale w s
  | .fgete w => Sys2Proof.Machine.execFgete w s
  | .cvtf w => Sys2Proof.Machine.execCvtf w s
  | .cvtfi w => Sys2Proof.Machine.execCvtfi w s
  | .cvtif w => Sys2Proof.Machine.execCvtif w s
  | .fclass w => Sys2Proof.Machine.execFclass w s
  | .vadd w => Sys2Proof.Machine.execVadd w s
  | .vsub w => Sys2Proof.Machine.execVsub w s
  | .vmul w => Sys2Proof.Machine.execVmul w s
  | .vmulh w => Sys2Proof.Machine.execVmulh w s
  | .vadds w => Sys2Proof.Machine.execVadds w s
  | .vsubs w => Sys2Proof.Machine.execVsubs w s
  | .vmin w => Sys2Proof.Machine.execVmin w s
  | .vmax w => Sys2Proof.Machine.execVmax w s
  | .vavg w => Sys2Proof.Machine.execVavg w s
  | .vshl w => Sys2Proof.Machine.execVshl w s
  | .vshr w => Sys2Proof.Machine.execVshr w s
  | .vsar w => Sys2Proof.Machine.execVsar w s
  | .vcmpeq w => Sys2Proof.Machine.execVcmpeq w s
  | .vcmplt w => Sys2Proof.Machine.execVcmplt w s
  | .vsel w => Sys2Proof.Machine.execVsel w s
  | .vsplat w => Sys2Proof.Machine.execVsplat w s
  | .vshuf w => Sys2Proof.Machine.execVshuf w s
  | .vpack w => Sys2Proof.Machine.execVpack w s
  | .vunpkl w => Sys2Proof.Machine.execVunpkl w s
  | .vunpkh w => Sys2Proof.Machine.execVunpkh w s
  | .vredadd w => Sys2Proof.Machine.execVredadd w s
  | .vredmax w => Sys2Proof.Machine.execVredmax w s
  | .vredmin w => Sys2Proof.Machine.execVredmin w s
  | .vdot w => Sys2Proof.Machine.execVdot w s
  | .vfma w => Sys2Proof.Machine.execVfma w s
  | .vfadd w => Sys2Proof.Machine.execVfadd w s
  | .vfmul w => Sys2Proof.Machine.execVfmul w s
  | .vfmax w => Sys2Proof.Machine.execVfmax w s
  | .vcvt w => Sys2Proof.Machine.execVcvt w s
  | .pfxc w => Sys2Proof.Machine.execPfxc w s
  | .isect w => Sys2Proof.Machine.execIsect w s
  | .obt w => Sys2Proof.Machine.execObt w s
  | .obti w => Sys2Proof.Machine.execObti w s
  | .digit w => Sys2Proof.Machine.execDigit w s
  | .ld w => Sys2Proof.Machine.execLd w s
  | .st w => Sys2Proof.Machine.execSt w s
  | .ldacq w => Sys2Proof.Machine.execLdacq w s
  | .strel w => Sys2Proof.Machine.execStrel w s
  | .fence w => Sys2Proof.Machine.execFence w s
  | .pref w => Sys2Proof.Machine.execPref w s
  | .xlate w => Sys2Proof.Machine.execXlate w s
  | .leap w => Sys2Proof.Machine.execLeap w s
  | .aadd w => Sys2Proof.Machine.execAadd w s
  | .asub w => Sys2Proof.Machine.execAsub w s
  | .amin w => Sys2Proof.Machine.execAmin w s
  | .amax w => Sys2Proof.Machine.execAmax w s
  | .aminz w => Sys2Proof.Machine.execAminz w s
  | .amaxz w => Sys2Proof.Machine.execAmaxz w s
  | .aand w => Sys2Proof.Machine.execAand w s
  | .aor w => Sys2Proof.Machine.execAor w s
  | .axor w => Sys2Proof.Machine.execAxor w s
  | .axchg w => Sys2Proof.Machine.execAxchg w s
  | .acas w => Sys2Proof.Machine.execAcas w s
  | .afadd w => Sys2Proof.Machine.execAfadd w s
  | .aincw w => Sys2Proof.Machine.execAincw w s
  | .stream w => Sys2Proof.Machine.execStream w s
  | .strmkQuery w => Sys2Proof.Machine.execStrmkQuery w s
  | .strmkCancel w => Sys2Proof.Machine.execStrmkCancel w s
  | .strmkDrain w => Sys2Proof.Machine.execStrmkDrain w s
  | .wring w => Sys2Proof.Machine.execWring w s
  | .spread w => Sys2Proof.Machine.execSpread w s
  | .rport w => Sys2Proof.Machine.execRport w s
  | .ldrb w => Sys2Proof.Machine.execLdrb w s
  | .mcfg w => Sys2Proof.Machine.execMcfg w s
  | .mldb w => Sys2Proof.Machine.execMldb w s
  | .mswap w => Sys2Proof.Machine.execMswap w s
  | .mbc w => Sys2Proof.Machine.execMbc w s
  | .mbcw w => Sys2Proof.Machine.execMbcw w s
  | .accset w => Sys2Proof.Machine.execAccset w s
  | .acccnt w => Sys2Proof.Machine.execAcccnt w s
  | .accrd w => Sys2Proof.Machine.execAccrd w s
  | .accclr w => Sys2Proof.Machine.execAccclr w s
  | .mchk w => Sys2Proof.Machine.execMchk w s
  | .hcopy w => Sys2Proof.Machine.execHcopy w s
  | .hgath w => Sys2Proof.Machine.execHgath w s
  | .hscat w => Sys2Proof.Machine.execHscat w s
  | .hred w => Sys2Proof.Machine.execHred w s
  | .hfill w => Sys2Proof.Machine.execHfill w s
  | .chkptBegin w => Sys2Proof.Machine.execChkptBegin w s
  | .chkptRestore w => Sys2Proof.Machine.execChkptRestore w s
  | .chkptAbandon w => Sys2Proof.Machine.execChkptAbandon w s
  | .chkptQuery w => Sys2Proof.Machine.execChkptQuery w s
  | .sysrd w => Sys2Proof.Machine.execSysrd w s
  | .syswr w => Sys2Proof.Machine.execSyswr w s
  | .tokenArrival n => Sys2Proof.Machine.execTokenArrival n s
  | .overflowRefill elem => Sys2Proof.Machine.execOverflowRefill elem s
  | .iwordLo m => Sys2Proof.Machine.execIwordLo m s
  | .iwordHi m => Sys2Proof.Machine.execIwordHi m s
  | .bhdrLo m => Sys2Proof.Machine.execBhdrLo m s
  | .bhdrHi m => Sys2Proof.Machine.execBhdrHi m s
  | .route m => Sys2Proof.Machine.execRoute m s
  | .kset m => Sys2Proof.Machine.execKset m s
  | .hoist port => Sys2Proof.Machine.execHoist port s
  | .install port => Sys2Proof.Machine.execInstall port s
  | .installComplete port => Sys2Proof.Machine.execInstallComplete port s
  | .hoistPlacement port => Sys2Proof.Machine.execHoistPlacement port s
  | .objectLoad asid base image => Sys2Proof.Machine.execObjectLoad asid base image s
  | .faultReport cl j => Sys2Proof.Machine.execFaultReport cl j s
  | .serviceInboxEntry n => Sys2Proof.Machine.execServiceInboxEntry n s
  | .errEfaultAck cl j => Sys2Proof.Machine.execErrEfaultAck cl j s
  | .reissue elem => Sys2Proof.Machine.execReissue elem s
  | .nullify elem => Sys2Proof.Machine.execNullify elem s
  | .step elem => Sys2Proof.Machine.execStep elem s
  | .genresume core g => Sys2Proof.Machine.execGenresume core g s
  | .genabort core g => Sys2Proof.Machine.execGenabort core g s
  | .nodeclear core => Sys2Proof.Machine.execNodeclear core s
  | .taskresume core ctx => Sys2Proof.Machine.execTaskresume core ctx s
  | .taskdiscard task => Sys2Proof.Machine.execTaskdiscard task s
  | .stallclear r => Sys2Proof.Machine.execStallclear r s
  | .regionabort cl rc => Sys2Proof.Machine.execRegionabort cl rc s
  | .frameUnload core frame => Sys2Proof.Machine.execFrameUnload core frame s
  | .commit core seq => Sys2Proof.Machine.execCommit core seq s
  | .successorOpen core ctx => Sys2Proof.Machine.execSuccessorOpen core ctx s
  | .fetch core ctx => Sys2Proof.Machine.execFetch core ctx s
  | .retirement core ctx => Sys2Proof.Machine.execRetirement core ctx s
  | .quiescenceProbe cl rc => Sys2Proof.Machine.execQuiescenceProbe cl rc s
  | .regionSwitch cl rc => Sys2Proof.Machine.execRegionSwitch cl rc s
  | .quietRequestTaken cl rc => Sys2Proof.Machine.execQuietRequestTaken cl rc s
  | .quiescenceStall cl j => Sys2Proof.Machine.execQuiescenceStall cl j s
  | .bankStarvationGrant n => Sys2Proof.Machine.execBankStarvationGrant n s
  | .accessAtHome n => Sys2Proof.Machine.execAccessAtHome n s
  | .atomicAtHome n => Sys2Proof.Machine.execAtomicAtHome n s
  | .strelRelease n => Sys2Proof.Machine.execStrelRelease n s
  | .generatorStep core g => Sys2Proof.Machine.execGeneratorStep core g s
  | .wringEmit core u => Sys2Proof.Machine.execWringEmit core u s
  | .spreadSessionToken core u => Sys2Proof.Machine.execSpreadSessionToken core u s
  | .reductionSessionToken core tile => Sys2Proof.Machine.execReductionSessionToken core tile s
  | .channelTokenArrival n => Sys2Proof.Machine.execChannelTokenArrival n s
  | .creditArrival n => Sys2Proof.Machine.execCreditArrival n s
  | .channelStall core ep => Sys2Proof.Machine.execChannelStall core ep s
  | .broadcast core macr => Sys2Proof.Machine.execBroadcast core macr s
  | .nullBroadcast core macr => Sys2Proof.Machine.execNullBroadcast core macr s
  | .mcfgEffect core macr => Sys2Proof.Machine.execMcfgEffect core macr s
  | .mldbEffect core macr => Sys2Proof.Machine.execMldbEffect core macr s
  | .mswapEffect core macr => Sys2Proof.Machine.execMswapEffect core macr s
  | .mchkEffect core macr => Sys2Proof.Machine.execMchkEffect core macr s
  | .contribution core macr => Sys2Proof.Machine.execContribution core macr s
  | .taskRecordAccept n => Sys2Proof.Machine.execTaskRecordAccept n s
  | .taskRouting task => Sys2Proof.Machine.execTaskRouting task s
  | .keyTry n => Sys2Proof.Machine.execKeyTry n s
  | .keyRequest n => Sys2Proof.Machine.execKeyRequest n s
  | .keyReply n => Sys2Proof.Machine.execKeyReply n s
  | .keyRelease n => Sys2Proof.Machine.execKeyRelease n s
  | .keyAging task => Sys2Proof.Machine.execKeyAging task s
  | .keyEntryRetry cl => Sys2Proof.Machine.execKeyEntryRetry cl s
  | .taskStart cl => Sys2Proof.Machine.execTaskStart cl s
  | .taskReroute task => Sys2Proof.Machine.execTaskReroute task s
  | .residencyStaleNotice n => Sys2Proof.Machine.execResidencyStaleNotice n s
  | .counterApply n => Sys2Proof.Machine.execCounterApply n s
  | .cntwaitRetry n => Sys2Proof.Machine.execCntwaitRetry n s
  | .cntValWrite by_ cl idx v => Sys2Proof.Machine.execCntValWrite by_ cl idx v s
  | .monitorPost n => Sys2Proof.Machine.execMonitorPost n s
  | .monitorDeadline cl n => Sys2Proof.Machine.execMonitorDeadline cl n s
  | .directoryLookup die n => Sys2Proof.Machine.execDirectoryLookup die n s
  | .pageWalk die n => Sys2Proof.Machine.execPageWalk die n s
  | .shootDown by_ die v => Sys2Proof.Machine.execShootDown by_ die v s
  | .shootDownAll by_ die v => Sys2Proof.Machine.execShootDownAll by_ die v s
  | .invalidation n => Sys2Proof.Machine.execInvalidation n s
  | .halyardUnit cl n => Sys2Proof.Machine.execHalyardUnit cl n s
  | .echo die sc => Sys2Proof.Machine.execEcho die sc s
  | .mapreq die sc refusal => Sys2Proof.Machine.execMapreq die sc refusal s
  | .log die sc => Sys2Proof.Machine.execLog die sc s
  | .abortself die sc => Sys2Proof.Machine.execAbortself die sc s
  | .hostService die sc reply => Sys2Proof.Machine.execHostService die sc reply s
  | .serviceRefused die sc => Sys2Proof.Machine.execServiceRefused die sc s
  | .svcReply n => Sys2Proof.Machine.execSvcReply n s
  | .softPreemption by_ v => Sys2Proof.Machine.execSoftPreemption by_ v s
  | .hardPreemption by_ v => Sys2Proof.Machine.execHardPreemption by_ v s
  | .drainLimit part => Sys2Proof.Machine.execDrainLimit part s
  | .save part => Sys2Proof.Machine.execSave part s
  | .preemptResume by_ v => Sys2Proof.Machine.execPreemptResume by_ v s
  | .ingressWrite port offset bytes => Sys2Proof.Machine.execIngressWrite port offset bytes s
  | .ingCfgWrite by_ port v => Sys2Proof.Machine.execIngCfgWrite by_ port v s
  | .ingErrClear by_ port v => Sys2Proof.Machine.execIngErrClear by_ port v s
  | .granuleAssign by_ v => Sys2Proof.Machine.execGranuleAssign by_ v s
  | .granuleZeroed => Sys2Proof.Machine.execGranuleZeroed s
  | .partCfgWrite by_ n v => Sys2Proof.Machine.execPartCfgWrite by_ n v s
  | .partReset by_ v => Sys2Proof.Machine.execPartReset by_ v s
  | .ownClaim agent => Sys2Proof.Machine.execOwnClaim agent s
  | .ownSucc agent next => Sys2Proof.Machine.execOwnSucc agent next s
  | .registerWrite by_ addr v => Sys2Proof.Machine.execRegisterWrite by_ addr v s
  | .registerReadClear addr => Sys2Proof.Machine.execRegisterReadClear addr s
  | .packageReset => Sys2Proof.Machine.execPackageReset s
  | .bringUp fw => Sys2Proof.Machine.execBringUp fw s
  | .attestationRequest nonce => Sys2Proof.Machine.execAttestationRequest nonce s
  | .corePowerGate core => Sys2Proof.Machine.execCorePowerGate core s
  | .thermalLimit on => Sys2Proof.Machine.execThermalLimit on s
  | .correctableError part wher => Sys2Proof.Machine.execCorrectableError part wher s
  | .uncorrectableError addr => Sys2Proof.Machine.execUncorrectableError addr s
  | .elementStateError elem frame => Sys2Proof.Machine.execElementStateError elem frame s
  | .coreStateError core => Sys2Proof.Machine.execCoreStateError core s
  | .clusterControlError cl => Sys2Proof.Machine.execClusterControlError cl s
  | .hbmStackFailure stack => Sys2Proof.Machine.execHbmStackFailure stack s
  | .ucieLinkError d1 d2 exhausted => Sys2Proof.Machine.execUcieLinkError d1 d2 exhausted s
  | .serviceCoreFailure die sc => Sys2Proof.Machine.execServiceCoreFailure die sc s
  | .packageError => Sys2Proof.Machine.execPackageError s
  | .flitReceive link crcOk items => Sys2Proof.Machine.execFlitReceive link crcOk items s
  | .linkRetrain link ok => Sys2Proof.Machine.execLinkRetrain link ok s
  | .linkDown link => Sys2Proof.Machine.execLinkDown link s
  | .linkUp link lanes => Sys2Proof.Machine.execLinkUp link lanes s
  | .lnkCtlWrite by_ link v => Sys2Proof.Machine.execLnkCtlWrite by_ link v s
  | .ensSelfWrite by_ v => Sys2Proof.Machine.execEnsSelfWrite by_ v s
  | .remoteItemArrival n => Sys2Proof.Machine.execRemoteItemArrival n s
  | .acknowledgement lc cls num cut => Sys2Proof.Machine.execAcknowledgement lc cls num cut s
  | .e2eTimeout n => Sys2Proof.Machine.execE2eTimeout n s
  | .markerArrival n => Sys2Proof.Machine.execMarkerArrival n s
  | .rollback cut => Sys2Proof.Machine.execRollback cut s
  | .powerGatingReturn core => Sys2Proof.Machine.execPowerGatingReturn core s
  | .objectUnload href => Sys2Proof.Machine.execObjectUnload href s
  | .coreAssignment core asid => Sys2Proof.Machine.execCoreAssignment core asid s
  | .routedRecordArrival n => Sys2Proof.Machine.execRoutedRecordArrival n s
  | .firmwareUpdate href => Sys2Proof.Machine.execFirmwareUpdate href s

end Sys2Proof.Machine
end

