-- ==== Sys2Proof/Machine/Choose.lean ====
section
/-! DEFINITION. What may come next in a package that is not focused: the ready firings and the events that are
enabled now, and the choice among them (03 R76, R77, R107, 11 R301; log 3 to 6), and the model's clock. -/
namespace Sys2Proof.Machine

/-- Something that may come next, as what it makes of the state: `exec` of an instruction word at a focus, of an event,
or of an input from outside. -/
abbrev Cand := State → Res State

/-- A state without the model's own marks of a firing. -/
def unmarked (s : State) : State := { s with hw := { s.hw with focus := none, waited := false } }

/-- The firing of an instruction word at a focus. -/
def firing (fo : Focus) (i : Instr) : Cand := fun s => exec i { s with hw := { s.hw with focus := some fo } }

/-- An input from outside: it arrives and has its effect. -/
def arriving (i : Instr) : Cand := fun s => exec i { s with hw := { s.hw with inputs := eraseFirst (fun y => y == i) s.hw.inputs } }

/-- Whether a candidate changes the state: a firing that waits may post its request (03 R107), and then waits. -/
def enabled (s : State) (x : Cand) : Bool :=
  match x (unmarked s) with
  | .next t => decide (unmarked t ≠ unmarked s)
  | _ => false

/-! ## Firings -/

/-- Whether a core runs: powered, and its cluster in a partition (15 R393, R403). -/
def coreRuns (hw : Hw) (c : Nat) : Bool := !(coreAt hw c).gated && (partOfCl hw (clOf c)).isSome

/-- The rank of a ready set in the order of R77: when it became ready, frame and slot, tag index, tag space. Tokens of a port that is not of
the set do not count. -/
def readyRank (hw : Hw) (e : Nat) (y : Nat × BitVec 20) : List Nat :=
  let ports := match slotSpec hw e y.1 with
    | some (sp, w) => setPorts sp w
    | none => []
  let heads := ports.filterMap fun p => headAt (elemAt hw e) y.1 y.2 p
  [heads.foldl (fun n (o : Operand) => max n o.stamp) 0, y.1, tagIndex y.2, tagSpace y.2]

/-- Lexicographic order. -/
def lexLe : List Nat → List Nat → Bool
  | [], _ => true
  | _ :: _, [] => false
  | a :: r, b :: t => decide (a < b) || (a == b && lexLe r t)

/-- Inserts a ready set by its rank. -/
def insertReady (hw : Hw) (e : Nat) (y : Nat × BitVec 20) : List (Nat × BitVec 20) → List (Nat × BitVec 20)
  | [] => [y]
  | z :: r => if lexLe (readyRank hw e y) (readyRank hw e z) then y :: z :: r else z :: insertReady hw e y r

/-- The ready sets of an element, in the order of R77. -/
def readySets (hw : Hw) (e : Nat) : List (Nat × BitVec 20) :=
  ((waitingSets (elemAt hw e)).filter fun y => setReady hw e y.1 y.2).foldr (insertReady hw e) []

/-- The firing at a focus, as a candidate. -/
def firingAt (hw : Hw) (fo : Focus) : Option Cand :=
  match decode (focusWord hw fo) with
  | .ok i => some (firing fo i)
  | .error _ => none

/-- Whether a firing issues: it does not wait (03 R107). -/
def issues (s : State) (x : Cand) : Bool :=
  match x (unmarked s) with
  | .next t => !t.hw.waited && decide (unmarked t ≠ unmarked s)
  | _ => false

/-- Whether a firing waits, but posts a request first (03 R107). -/
def posts (s : State) (x : Cand) : Bool := enabled s x && !issues s x

/-- The ready firings of an element whose targets have room (00 R9; log 72), those of its core's LSID queue first, then in the order of R77
(03 R77, 06 R182). -/
def elemReady (hw : Hw) (e : Nat) : List Cand :=
  let queued := ((coreAt hw (coreOf e)).lsq.filter fun y => y.elem = e).map fun y =>
    ({ elem := e, slot := y.slot, tag := y.tag, queued := true } : Focus)
  let sets := (readySets hw e).map fun y => ({ elem := e, slot := y.1, tag := y.2 } : Focus)
  ((queued ++ sets).filter fun fo => slotRoom hw e fo.slot fo.tag).filterMap (firingAt hw)

/-- The firing that an element issues next, the first that does not wait, and the requests of those that wait (03 R77, R107). -/
def elemFirings (s : State) (e : Nat) : List Cand :=
  if frozen s.hw e || !coreRuns s.hw (coreOf e) then []
  else
    let l := elemReady s.hw e
    (l.find? (issues s)).toList ++ l.filter (posts s)

/-- The tags under which a CHRECV slot may fire: of the operands that a restore has delivered to it again, else of the head of its
endpoint's buffer (04 R120, 13 R370). -/
def recvTags (hw : Hw) (e slot : Nat) (x : Endpoint) : List (BitVec 20) :=
  let again := ((elemAt hw e).ops.filter fun o => o.slot = slot).map (·.tok.tag)
  if again.isEmpty then (x.buf.head?.map (·.1.tag)).toList else again.eraseDups

/-- The firings of CHRECV that a core's endpoints feed (04 R120), while the links of its targets have room (00 R9). -/
def recvFirings (hw : Hw) (c : Nat) : List Cand :=
  (coreAt hw c).eps.flatMap fun x => match x.2.recv with
    | some (e, slot) => ((recvTags hw e slot x.2).filter (slotRoom hw e slot)).filterMap fun t =>
        firingAt hw { elem := e, slot := slot, tag := t }
    | none => []

/-! ## Events -/

/-- The events of a list's positions. -/
def perPos {α : Type} (l : List α) (g : Nat → Cand) : List Cand := (List.range l.length).map g

/-- Events of a core (03, 06, 07, 08). -/
def coreEvents (hw : Hw) (c : Nat) : List Cand :=
  let x := coreAt hw c
  let macs := (List.range 8).flatMap fun m =>
    [execMcfgEffect c m, execMldbEffect c m, execMswapEffect c m, execMchkEffect c m, execBroadcast c m, execNullBroadcast c m, execContribution c m]
  (x.acts.map fun a => execCommit c a.seq) ++
    ((List.range 16).flatMap fun n => [execSuccessorOpen c n, execFetch c n, execRetirement c n]) ++
    (x.gens.map fun g => execGeneratorStep c g.1) ++
    (x.spread.flatMap fun u => [execWringEmit c u.1, execSpreadSessionToken c u.1]) ++
    (x.rport.map fun t => execReductionSessionToken c t.1) ++
    (x.eps.map fun p => execChannelStall c p.1) ++ (if x.macros.isEmpty then [] else macs)

/-- Events of a cluster: its region and task controllers, key slice, monitors, waits and halyard units. -/
def clusterEvents (hw : Hw) (k : Nat) : List Cand :=
  let x := clAt hw k
  (x.rcs.flatMap fun r => [execQuiescenceProbe k r.1, execRegionSwitch k r.1, execQuietRequestTaken k r.1]) ++
    ((List.range 12).flatMap fun i => [execQuiescenceStall k i, execFaultReport k i]) ++
    [execKeyEntryRetry k, execTaskStart k] ++
    perPos x.mons (execMonitorDeadline k) ++ perPos x.hal (execHalyardUnit k)

/-- Events of a die: its directory, walkers and service cores. -/
def dieEvents (hw : Hw) (d : Nat) : List Cand :=
  let x := dieAt hw d
  (perPos x.reqs fun n => execDirectoryLookup d n) ++ (perPos x.reqs fun n => execPageWalk d n) ++
    (x.scs.flatMap fun c => [execEcho d c.1, execMapreq d c.1 none, execLog d c.1, execAbortself d c.1, execServiceRefused d c.1])

/-- Events of an ingress port. -/
def portEvents (p : Nat) : List Cand := [execHoist p, execInstall p, execInstallComplete p, execHoistPlacement p]

/-- The arrival of token `n` of those on their way. -/
def flightEvent (n : Nat) (fl : Flight) : Cand :=
  match fl.src with
  | .port p => if portConfig fl then execKset { tok := fl.tok, src := .ingress p } else execTokenArrival n
  | _ => execTokenArrival n

/-- Events of what is on its way. -/
def wayEvents (hw : Hw) : List Cand :=
  ((List.range hw.net.length).zip hw.net).map (fun x => flightEvent x.1 x.2) ++
    ((List.range hw.acc.length).flatMap fun n =>
      [execBankStarvationGrant n, execAccessAtHome n, execAtomicAtHome n, execStrelRelease n, execMonitorPost n]) ++
    perPos hw.cntOps execCounterApply ++ perPos hw.svc execServiceInboxEntry ++ perPos hw.replies execSvcReply ++
    ((List.range hw.chan.length).flatMap fun n => [execChannelTokenArrival n, execCreditArrival n]) ++
    ((List.range hw.keyMsgs.length).flatMap fun n => [execKeyTry n, execKeyRequest n, execKeyReply n, execKeyRelease n]) ++
    perPos hw.recs execTaskRecordAccept ++
    (hw.tasks.flatMap fun t => [execTaskRouting t.id, execTaskReroute t.id, execKeyAging t.id, execRoutedRecordArrival t.id]) ++
    perPos hw.notices execResidencyStaleNotice ++ perPos hw.invs execInvalidation ++
    ((List.range (hw.cls.flatMap fun k => k.2.waits).length).map fun n => execCntwaitRetry n)

/-- Events of the package. -/
def pkgEvents (hw : Hw) : List Cand :=
  (hw.pkg.pre.map fun p => execDrainLimit p.1) ++ [execGranuleZeroed] ++
    ((List.range hw.pkg.recvBuf.length).flatMap fun n => [execRemoteItemArrival n, execMarkerArrival n]) ++
    perPos hw.pkg.replay execE2eTimeout

/-! ## Inputs -/

/-- Whether an event comes from outside the package: a configuration message of the loader or of firmware, the host,
a management agent, system software on a service core, a link, or a failing part (log 5). -/
def external : Instr → Bool
  | .iwordLo m | .iwordHi m | .bhdrLo m | .bhdrHi m | .route m | .kset m => m.src == .loader || m.src == .firmware
  | .mapreq _ _ r => r.isSome
  | .objectLoad .. | .errEfaultAck .. | .reissue .. | .nullify .. | .step .. | .genresume .. | .genabort .. | .nodeclear ..
  | .taskresume .. | .taskdiscard .. | .stallclear .. | .regionabort .. | .frameUnload .. | .hostService .. | .cntValWrite ..
  | .shootDown .. | .shootDownAll .. | .softPreemption .. | .hardPreemption .. | .preemptResume .. | .ingressWrite ..
  | .ingCfgWrite .. | .ingErrClear .. | .granuleAssign .. | .partCfgWrite .. | .partReset .. | .ownClaim .. | .ownSucc ..
  | .registerWrite .. | .registerReadClear .. | .packageReset | .bringUp .. | .attestationRequest .. | .corePowerGate ..
  | .thermalLimit .. | .correctableError .. | .uncorrectableError .. | .elementStateError .. | .coreStateError ..
  | .clusterControlError .. | .hbmStackFailure .. | .ucieLinkError .. | .serviceCoreFailure .. | .packageError
  | .flitReceive .. | .linkRetrain .. | .linkDown .. | .linkUp .. | .lnkCtlWrite .. | .ensSelfWrite .. | .acknowledgement ..
  | .rollback .. | .powerGatingReturn .. | .objectUnload .. | .coreAssignment .. | .firmwareUpdate .. => true
  | _ => false

/-- The inputs that may come, as candidates. -/
def inputCands (hw : Hw) : List Cand :=
  (hw.inputs.filter external).map arriving

/-! ## The choice -/

/-- The cores that hold anything. -/
def usedCores (hw : Hw) : List Nat :=
  ((hw.cores.map (·.1)) ++ (hw.elems.map fun x => coreOf x.1)).eraseDups

/-- The clusters that hold anything. -/
def usedClusters (hw : Hw) : List Nat :=
  ((hw.cls.map (·.1)) ++ ((usedCores hw).map clOf) ++ (hw.tasks.map (·.cl))).eraseDups

/-- Whether no firing of a core issues now (03 R107). -/
def coreIdle (s : State) (c : Nat) : Bool :=
  (List.range 32).all fun e5 => frozen s.hw (c * 32 + e5) || (elemReady s.hw (c * 32 + e5)).all fun x => !issues s x

/-- The saves that may come: after a soft pre-emption only once no firing of its regions issues (13 R362, R364). -/
def saveEvents (s : State) : List Cand :=
  (s.hw.pkg.pre.filter fun p => p.2.phase != .soft || (List.range 4).all fun d => (dieRegions s.hw d).all fun r =>
    !(r.2.2.valid && r.2.2.asid = p.2.asid) || (regionCores d r.2.2).all (coreIdle s)).map fun p => execSave p.1

/-- Every event that the state could take, enabled or not. -/
def allEvents (hw : Hw) : List Cand :=
  wayEvents hw ++ ((usedCores hw).filter (coreRuns hw)).flatMap (coreEvents hw) ++
    ((hw.elems.filter fun x => coreRuns hw (coreOf x.1)).map fun x => execOverflowRefill x.1) ++
    ((usedClusters hw).filter fun k => (partOfCl hw k).isSome).flatMap (clusterEvents hw) ++ (hw.dies.map (·.1)).flatMap (dieEvents hw) ++
    (hw.pkg.ports.map (·.1)).flatMap portEvents ++ pkgEvents hw

/-- What may come next: the firing each element would issue, the enabled events, and the first input that is enabled. -/
def choices (s : State) : List Cand :=
  let elems := ((s.hw.elems.map (·.1)) ++ s.hw.cores.flatMap fun c => c.2.lsq.map (·.elem)).eraseDups
  let recvs := ((usedCores s.hw).filter (coreRuns s.hw)).flatMap (recvFirings s.hw)
  elems.flatMap (elemFirings s) ++ recvs.filter (enabled s) ++ (allEvents s.hw ++ saveEvents s).filter (enabled s) ++ ((inputCands s.hw).find? (enabled s)).toList

/-- The free value that picks one of several candidates, which no proof can see (log 4). -/
def pick (s : State) (l : List Cand) : Option Cand := l[Config.choice s.hw.free % l.length]?

/-! ## The clock -/

/-- Time passes: a number of cycles that the model leaves free (log 2), after which every channel's stall watch stands as
its conditions do (07 R227), and what waited for the fabric, or in a port, leaves where it may (16 R407, 15 R384, 00 R9). -/
def advance (s : State) : State :=
  let hw := { s.hw with now := s.hw.now + 1 + Config.elapsed s.hw.free, free := s.hw.free + 1 }
  { s with hw := portsGo (fabRetry (hw.cores.foldl (fun hw c => watchChannels hw c.1) hw)) }

/-- A step's answer, with the time it takes. -/
def clock (r : Res State) : Res State :=
  match r with
  | .next s => .next (advance s)
  | .fault e => .fault e
  | .refused e => .refused e

/-- Runs a candidate. -/
def runCand (s : State) (x : Cand) : Res State := x (unmarked s)

/-- The step of a package that is not focused: the only candidate; one of several; or nothing but time. -/
def freeStep (s : State) : Res State :=
  match choices s with
  | [] => .next s
  | [x] => runCand s x
  | l => match pick s l with
    | some x => runCand { s with hw := { s.hw with free := s.hw.free + 1 } } x
    | none => .next s

/-- The step of a package that has stopped: only a reset or a bring-up acts (15 R398, R400). -/
def stoppedStep (s : State) : Res State :=
  let wakes := fun (i : Instr) => match i with
    | .packageReset => true
    | .bringUp _ => true
    | _ => false
  match s.hw.inputs.find? wakes with
  | some i => runCand s (arriving i)
  | none => .fault .packageStopped

/-! ## Placing an instruction -/

/-- A token that a port of a word takes, for the placed instruction: DATA 0 where the port takes DATA, else a token of
the first kind it takes. -/
def placedTok (sp : OpSpec) (port : Nat) : Token :=
  let ks := if port = 3 then [Kind.data] else sp.kinds port
  mkTok (mkCont 0 0 0 port) 0 (if ks.contains .data then .data else ks.headD .data) 0 0 false (if ks.contains .data then 0 else 1)

/-- A state in which the firing of a word is what the next step runs: the word stands in slot 0 of frame 0 of element 0,
the frame is resident with every LSID in its SMASK, cluster 0 is in a partition, the ground activation of the frame is
open, and an operand waits at each port of the word's set (for CHRECV, in the buffer of its endpoint). -/
def placeWord (w : BitVec 128) (s : State) : State :=
  let x : Elem := { elemAt s.hw 0 with words := tput (elemAt s.hw 0).words 0 0 w, fault := {}, why := .none, ops := [] }
  let hdr : BitVec 128 := BitVec.ofNat 128 ((2 ^ 32 - 1) * 2 ^ 96 + (2 ^ 64 - 1) * 2 ^ 32)
  let fr : Frame := { frameAt (coreAt s.hw 0) 0 with state := .resident, header := hdr }
  let part : Part := { tget s.hw.pkg.parts {} 0 with valid := true, clusters := 1 }
  let hw := setElem s.hw 0 x
  let hw := modCore hw 0 fun c => setFrame c 0 fr
  let hw := modPkg hw fun p => { p with parts := tput p.parts {} 0 part, stopped := false }
  let hw := openAct hw 0 0 0
  let put := fun (hw : Hw) (sp : OpSpec) (ports : List Nat) => ports.foldl (fun hw p =>
    if (headAt (elemAt hw 0) 0 0 p).isSome then hw
    else
      let o : Operand := { slot := 0, tok := placedTok sp p, place := .direct, stamp := hw.ids, side := none }
      { setElem hw 0 { elemAt hw 0 with ops := (elemAt hw 0).ops ++ [o] } with ids := hw.ids + 1 }) hw
  let hw := match slotSpec hw 0 0 with
    | some (sp, f) =>
      if wordOp w = opCHRECV then
        setEp hw 0 (epOf f) { state := .consumer, depth := 1, peer := (0, epOf f + 1), buf := [(mkTok 0 0 .data 0, none)], recv := some (0, 0) }
      else put hw sp (setPorts sp f)
    | none => hw
  { s with hw := { hw with focus := some { elem := 0, slot := 0, tag := 0 } } }

end Sys2Proof.Machine
end

