-- ==== Sys2Proof/Machine/Step.lean ====
section
/-! DEFINITION. One step of the package, and the placing of an instruction that the next step runs. A step is one firing,
one event or one input; which comes next is a free choice among those enabled (Machine/Choose.lean). A state with a focus
runs the instruction word there. -/
namespace Sys2Proof.Machine

/-- One step (03 R75 to R77, R107). -/
def step (s : State) : Host.Outcome State Fault Refusal :=
  if s.hw.pkg.stopped then clock (stoppedStep s)
  else match s.hw.focus with
    | some fo => match decode (focusWord s.hw fo) with
      | .ok i => clock (exec i s)
      | .error _ => .fault .notEnabled
    | none => clock (freeStep s)

/-- The state with an instruction, given as the bits of its word, placed where the next step runs it (log 5). -/
def State.withFetchWord (s : State) (_nbits w : Nat) : State := placeWord (BitVec.ofNat 128 w) s

end Sys2Proof.Machine
end

