-- ==== Sys2Proof/Safety.lean ====
section
/-! DEFINITION. The terms in which statements speak of a run: safe answers, the firing of an instruction word that stands
at the focus, and the three ends of a firing. -/
namespace Sys2Proof

/-- A state from which no number of steps ends in a stop of the model. -/
def Safe (s : Machine.State) : Prop := ∀ n, ∃ t, Host.Core.run core n s = .next t

end Sys2Proof

namespace Sys2Proof.Machine

/-- The firing `f` of word `w` stands at the focus with its operand set complete: its element is not frozen (03 R98), no
NULLIFY waits for the set (13 Table 13.9), and the word's own fields raise no fault (02 R47 to R50, R54). -/
structure Ready (sp : OpSpec) (w : Fields) (s : State) (f : Fire) : Prop where
  focus : focusFire sp w s.hw = some f
  kept  : dropped s.hw f = false
  word  : wordFault sp f.w (frameAt (coreAt s.hw f.core) f.frame).header = none

/-- A firing that meets none of the common cases of 03 R84, R90, R94 and R96: it does not come from the LSID queue, no
operand is an END or a NULL, and its predicate, if it has one, lets it fire. -/
structure Plain (sp : OpSpec) (w : Fields) (s : State) (f : Fire) : Prop extends Ready sp w s f where
  fresh : f.queued = false
  noEnd : anyEnd f.data = false
  pred  : sp.pPort = true ∨ predOf f.w.pr f.p = .fires
  value : nullAux f.data = none

/-- A firing that reaches its entry's own words: its predicate lets it fire, or an operand is an END, at which a predicate decides
nothing (03 R84, R94). -/
structure Live (sp : OpSpec) (w : Fields) (s : State) (f : Fire) : Prop extends Ready sp w s f where
  fresh : f.queued = false
  goes  : anyEnd f.data = true ∨ sp.pPort = true ∨ predOf f.w.pr f.p = .fires

/-- A firing of a class 6 instruction, or of another that names an LSID, whose turn has come in chain mode (06 R182). -/
def Turn (s : State) (f : Fire) : Prop := lsTurn s.hw f.site f.w.ls.toNat = true

/-- The state after a firing whose effect made `hw`: its operands are consumed and its focus is over (03 R75). -/
def fired (f : Fire) (s : State) (hw : Hw) : State :=
  { s with hw := { consume f (undrop f hw) with focus := none, waited := false } }

/-- The state after a firing that waits, having made `hw`: its operands stay (03 R107). -/
def held (s : State) (hw : Hw) : State := { s with hw := { hw with focus := none, waited := true } }

/-- The state after a firing that faults with a code and a DETAIL: its element is frozen with its operands kept (03 R98). -/
def faulted (f : Fire) (s : State) (code detail : Nat) : State :=
  let why : FaultFrom := if f.queued then .queued f.site.slot f.tag f.site.occ
    else if code = 0 then .brk f.site.slot f.tag else .firing f.site.slot f.tag
  { s with hw := { freeze (undrop f s.hw) f.site.elem f.site.slot f.tag f.site.op why code detail with focus := none, waited := false } }

end Sys2Proof.Machine
end

