-- ==== Sys2Proof/Certificates/Slice0/Obligations.lean ====
section
/-! DEFINITION. The statements for the provers. Those of a firing are said of the firing `f` that stands at the focus
(Sys2Proof/Safety.lean); the values of its ports are `f.a`, `f.b`, `f.c`. -/

open Sys2Proof Sys2Proof.Machine

/-! ## Encoding (02 R34, R42, R46, R70 to R72) -/

/-- Every well-formed instruction word, whatever the values of its fields, decodes to the instruction it encodes
(02 R46, R70, Tables 2.5 and 2.15). -/
def Obligations.DecodeOfEncode : Prop :=
  ∀ (i : Instr) (b : BitVec 128), wellFormed i = true → encode i = some b → decode b = .ok i

/-- Every word that decodes is the encoding of what it decodes to: no bit of a word is dropped; and one whose predicate field
and targets pass the loader's checks is well-formed (02 R46, R60). -/
def Clauses.EncodeOfDecode : Prop :=
  ∀ (b : BitVec 128) (i : Instr), decode b = .ok i →
    encode i = some b ∧ (wordOk (wordFields b) = true → wellFormed i = true)

/-- How many OP values of each class Table 2.15 of 02 assigns, EMPTY among those of class 0. -/
def opCount : Nat → Nat
  | 0 => 20 | 1 => 29 | 2 => 41 | 3 => 14 | 4 => 30 | 5 => 34 | 6 => 27 | _ => 18

/-- The decoder refuses EMPTY and the reserved OP values, by name, and no other word (02 R71, R72). -/
def Clauses.DecodeRefuses : Prop :=
  ∀ b : BitVec 128,
    (decode b = .error .empty ↔ wordOp b = 0#9) ∧
    ((∃ op, decode b = .error (.reservedOp op)) ↔ opCount ((wordOp b).toNat / 64) ≤ (wordOp b).toNat % 64) ∧
    (∀ op, decode b = .error (.reservedOp op) → op = wordOp b) ∧
    decode b ≠ .error .short

/-- Every word that decodes is the encoding of what it decodes to, and the decoder refuses EMPTY and the reserved OP values by name, and
no other word (02 R46, R60, R71, R72). -/
def Obligations.EncodeOfDecode : Prop :=
  Clauses.EncodeOfDecode ∧ Clauses.DecodeRefuses

/-- Words written out from Table 2.5 and the encodings of Table 2.15, as the manual's own examples give them, decode to the
instructions they stand for, and sixteen little-endian bytes hold such a word (02 R42, R46). -/
def Clauses.DecodedWords : Prop :=
  decode 0x40040240009400000000000000000007#128 =
    .ok (.add { fn := 1, pr := 0, ls := 0, om := 2, t0 := 0x100025, t1 := 0, xf := 0, k := 7 }) ∧
  decode 0x230000C0000100068003000000000000#128 =
    .ok (.tcall { fn := 0, pr := 0, ls := 0, om := 0, t0 := 0x300000, t1 := 0x100068, xf := 3, k := 0 }) ∧
  decode 0x25000200000000000000000000000001#128 =
    .ok (.exit { fn := 0, pr := 0, ls := 0, om := 2, t0 := 0, t1 := 0, xf := 0, k := 1 }) ∧
  decode 0xE7800240004100014000000000000000#128 =
    .ok (.chkptBegin { fn := 0, pr := 0, ls := 0, om := 2, t0 := 0x100010, t1 := 0x100014, xf := 0, k := 0 }) ∧
  (decodeBytes (bytesOf 16 0x40040240009400000000000000000007 ++ [1, 2])).toOption =
    some (.add { fn := 1, pr := 0, ls := 0, om := 2, t0 := 0x100025, t1 := 0, xf := 0, k := 7 }, [1, 2])

/-- A token of Table 2.1 of 02 and its 128 bits stand for each other (02 R34). -/
def Clauses.TokenBits : Prop :=
  (∀ t : Token, tokenOf (tokenBits t) = t) ∧ (∀ b : BitVec 128, tokenBits (tokenOf b) = b)

/-- The words of the manual's examples decode to the instructions they stand for, and tokens and their 128 bits stand for each other
(02 R34, R42, R46). -/
def Obligations.DecodedWords : Prop :=
  Clauses.DecodedWords ∧ Clauses.TokenBits

/-! ## A step, and the state after reset -/

/-- A state with a focus runs the instruction that the word there decodes to: `step` is `exec` of it, after which time passes,
and a firing that a free step may choose is `exec` of the decoded word with the focus on its slot. -/
def Clauses.StepRunsDecoded : Prop :=
  ∀ (s : State) (fo : Focus) (i : Instr), s.hw.pkg.stopped = false → decode (focusWord s.hw fo) = .ok i →
    (s.hw.focus = some fo → step s = clock (exec i s)) ∧
    (∀ t, s.hw.focus = some fo → exec i s = .next t → step s = .next (advance t)) ∧
    firingAt s.hw fo = some (fun u => exec i { u with hw := { u.hw with focus := some fo } })

/-- A word placed for the next step is the word that the next step runs, from every state. (The placing of a word is the model's own, log 5.) -/
def Clauses.PlacedWordRuns : Prop :=
  ∀ (s : State) (n w : Nat) (i : Instr), decodeTableWord n w = some i →
    step (s.withFetchWord n w) = clock (exec i (s.withFetchWord n w))

/-- Time passes at a step: the clock rises, memory and the elements stay, and so does everything on its way where no item waits for the
fabric and no token in a port (log 2, log 6: the model's choice). -/
def Clauses.TimeAdvances : Prop :=
  (∀ s : State, s.hw.now < (advance s).hw.now ∧ (advance s).mem = s.mem ∧ (advance s).hw.elems = s.hw.elems) ∧
  (∀ s : State, s.hw.pkg.fabWait = [] → (∀ p, (portAt s.hw p).queue = []) →
    (advance s).hw.cls = s.hw.cls ∧ (advance s).hw.dies = s.hw.dies ∧ (advance s).hw.pkg = s.hw.pkg ∧
    (advance s).hw.net = s.hw.net ∧ (advance s).hw.acc = s.hw.acc ∧ (advance s).hw.tasks = s.hw.tasks)

/-- A step runs the decoded instruction, at the focus or placed there, and time passes (the passing of time is the model's choice, log 2,
log 6). -/
def Obligations.StepRunsDecoded : Prop :=
  Clauses.StepRunsDecoded ∧ Clauses.PlacedWordRuns ∧ Clauses.TimeAdvances

/-- Whether an input wakes a package that has stopped: a reset or a bring-up. -/
def wakesPackage (i : Instr) : Prop := i = .packageReset ∨ ∃ fw, i = .bringUp fw

/-- A package that has stopped takes the first reset or bring-up among its inputs and nothing else: its step is that input's own, which
leaves the inputs, after which time passes; without one it takes no step (15 R398 class 10, R400; the passing of time is the
model's choice, log 2, log 6). -/
def Obligations.StoppedPackage : Prop :=
  ∀ s : State, s.hw.pkg.stopped = true →
    ((∀ i ∈ s.hw.inputs, ¬ wakesPackage i) → step s = .fault .packageStopped) ∧
    (∀ earlier i later, s.hw.inputs = earlier ++ i :: later → wakesPackage i → (∀ j ∈ earlier, ¬ wakesPackage j) →
      step s = clock (exec i { s with hw := { s.hw with inputs := earlier ++ later, focus := none, waited := false } }))

/-- The registers after reset, by Tables 10.8, 13.1, 13.10, 15.3, 15.4, 16.1 to 16.3: the drain limit, the resend timer and limit, the
enabled links, the free key entries and the weights stand at their values, LOCAL of the ensign entry of logical chip 0 is 1 since ENS_SELF.LC
is 0 (the model's reading of that bit, log 97), every other register is 0. -/
def Clauses.ResetRegisters : Prop :=
  ∀ r : Reg, regValue State.reset.hw r =
    match r with
    | .pdrain _ => 65536
    | .ensE2e _ => 0x8000006AD
    | .lnkCtl _ => 1
    | .keyStat _ => 2048
    | .asidw _ _ => 1
    | .ensEntry _ n => if n = 0 then 2 ^ 29 else 0
    | _ => 0

/-- The arrays after reset: every byte of memory reads 0 and no line is poisoned; every frame is FREE, every task context is
free, every slot EMPTY, no element is frozen, no region controller holds a region, nothing is on its way (15 R402). -/
def Clauses.ResetArrays : Prop :=
  (∀ a, memByte State.reset.mem a = 0 ∧ linePsn State.reset.mem a = false) ∧
  (∀ c f, (frameAt (coreAt State.reset.hw c) f).state = .free) ∧
  (∀ c n, (ctxAt (coreAt State.reset.hw c) n).state = .free) ∧
  (∀ e n, tget (elemAt State.reset.hw e).words 0 n = 0 ∧ frozen State.reset.hw e = false) ∧
  (∀ k i, (tget (clAt State.reset.hw k).rcs {} i).valid = false) ∧
  State.reset.hw.net = [] ∧ State.reset.hw.acc = [] ∧ State.reset.hw.tasks = [] ∧ State.reset.hw.pkg.parts = []

/-! ## Memory -/

/-- Every step keeps the one form that a memory has: bytes listed at rising addresses and none of them 0, poisoned lines and
dead stacks listed once in order. -/
def Obligations.StepKeepsMemoryForm : Prop :=
  ∀ s t : State, Memory.wf s.mem = true → step s = .next t → Memory.wf t.mem = true

/-- The form holds after reset. -/
def Clauses.ResetMemoryForm : Prop := Memory.wf State.reset.mem = true

/-- The registers and the arrays after reset, and the form of memory (15 R402). -/
def Obligations.ResetState : Prop :=
  Clauses.ResetRegisters ∧ Clauses.ResetArrays ∧ Clauses.ResetMemoryForm

/-- A store at a home writes its bytes little-endian and no other byte; poisoned data poisons the lines it touches, other data
leaves every line's poison as it was (01 R16, 07 R200). -/
def Obligations.StoreAtHome : Prop :=
  ∀ (m : Mem) (a w v j : Nat) (p : Bool),
    memByte (memStore m a w v p) j = (if a ≤ j ∧ j < a + w then BitVec.ofNat 8 (v / 2 ^ (8 * (j - a))) else memByte m j) ∧
    (linePsn (memStore m a w v p) j = true ↔
      linePsn m j = true ∨ (p = true ∧ ∃ i, i < w ∧ (a + i) / 64 = j / 64)) ∧
    memRead (memStore m a w v p) a w = v % 2 ^ (8 * w)

/-- No instruction word changes memory when it fires, but CHKPT and SYSWR: loads, stores and atomics act at their homes, by
events of their own (07 R201, 11 R298); that SYSWR performs in its own firing is the model's choice (log 31). -/
def Obligations.FiringsLeaveMemory : Prop :=
  ∀ (i : Instr) (sp : OpSpec) (s t : State), specOf i = some sp → exec i s = .next t →
    (∀ w, i ≠ .chkptBegin w ∧ i ≠ .chkptRestore w ∧ i ≠ .chkptAbandon w ∧ i ≠ .syswr w) → t.mem = s.mem


/-! ## The common rules of a firing (02 R47 to R56, 03 R84, R90, R94 to R100)

`Ready` and `Plain` are conditions on the state and the operands alone (Sys2Proof/Safety.lean). That an emission answers
`.ok hw` says that both targets take the tokens: a route of the block's table, an ensign entry that is on, a hold register of
WMASK not yet written; what the emission does is `Obligations.EmissionTargets`. -/

/-- A word sends one DATA token with value `v` and its operands' poison, and nothing else, to both targets: what `out` does. -/
def Computes (mk : Fields → Instr) (v : Fire → Word) : Prop :=
  ∀ (sp : OpSpec) (w : Fields) (s : State) (f : Fire) (hw : Hw), specOf (mk w) = some sp → Plain sp w s f →
    out f s.hw (v f) = .ok hw → exec (mk w) s = .next (fired f s hw)

/-- A word answers, where its operands satisfy `c`, with its operands consumed and the hardware that `g` makes. -/
def Acts (mk : Fields → Instr) (c : Fire → State → Prop) (g : Fire → State → Except Stop Hw) : Prop :=
  ∀ (sp : OpSpec) (w : Fields) (s : State) (f : Fire) (hw : Hw), specOf (mk w) = some sp → Plain sp w s f → c f s →
    g f s = .ok hw → exec (mk w) s = .next (fired f s hw)

/-- A word freezes its element with a code and a DETAIL where its operands satisfy `c`. -/
def Faults (mk : Fields → Instr) (c : Fire → State → Prop) (code : Nat) (detail : Fire → Nat) : Prop :=
  ∀ (sp : OpSpec) (w : Fields) (s : State) (f : Fire), specOf (mk w) = some sp → Plain sp w s f → c f s →
    exec (mk w) s = .next (faulted f s code (detail f))

/-- Classes 2, 3 and 4 and the lane instructions of class 5, whose entries meet END, NULL, predicates and poison by the common
rules alone (04 R104, 05 R140). -/
def commonOp (op : BitVec 9) : Prop := 0x080#9 ≤ op ∧ op ≤ 0x15C#9

/-- A predicate that does not fire its instruction, a NULL operand, a poisoned predicate, and END operands, for every word of
classes 2 to 4 and every lane word: NULL with AUX 0; NULL with the AUX of the lowest-numbered port that holds one; DATA 0
with poison; one END of the same rank and count, or the fault END_MISMATCH with its operands kept (03 R84, R90, R94, R96). -/
def Clauses.CommonRules : Prop :=
  ∀ (i : Instr) (op : BitVec 9) (w : Fields) (sp : OpSpec) (s : State) (f : Fire) (hw : Hw),
    opFields i = some (op, w) → commonOp op → specOf i = some sp → Ready sp w s f → f.queued = false →
    (anyEnd f.data = false → predOf w.pr f.p = .notFire → emitAll f s.hw [tokOf f .null] = .ok hw →
      exec i s = .next (fired f s hw)) ∧
    (anyEnd f.data = false → predOf w.pr f.p = .poisoned → emitAll f s.hw [tokOf f .data 0 true] = .ok hw →
      exec i s = .next (fired f s hw)) ∧
    (∀ k, anyEnd f.data = false → predOf w.pr f.p = .fires → nullAux f.data = some k → (op = 0x0C9#9 → f.psn = false) →
      emitAll f s.hw [tokOf f .null 0 false k] = .ok hw → exec i s = .next (fired f s hw)) ∧
    (∀ t r, f.data = t :: r → endsAgree f.data = true → emitAll f s.hw [tokOf f .endm 0 false t.aux t.rank] = .ok hw →
      exec i s = .next (fired f s hw)) ∧
    (anyEnd f.data = true → endsAgree f.data = false → exec i s = .next (faulted f s cILLFIELD 6))

/-- What a predicate token decides: without a predicate field the word fires; a NULL never fires it; poison poisons the
firing; else bit 0 of its VALUE is compared with PR (02 R48, 03 R84, R96). -/
def Clauses.PredicateDecides : Prop :=
  ∀ (pr : BitVec 2) (p : Token),
    (predOf pr p = .fires ↔ pr = 0 ∨ (p.kind ≠ .null ∧ p.psn = false ∧ (p.value.getLsbD 0 = true ↔ pr = 1))) ∧
    (predOf pr p = .poisoned ↔ pr ≠ 0 ∧ p.kind ≠ .null ∧ p.psn = true)

/-- How a word uses the LSID that it names: as a store source (ST, STREL), as a load (every other word of class 6, SPAWN, the halyard
words), or it names none (02 R68, 07 R204, R425). -/
def lsUseOf (op : BitVec 9) : LsUse :=
  if op = 0x181#9 ∨ op = 0x183#9 then .store
  else if (0x180#9 ≤ op ∧ op ≤ 0x19A#9) ∨ op = 0x04C#9 ∨ (0x1CA#9 ≤ op ∧ op ≤ 0x1CE#9) then .load
  else .none

/-- The hardware after a null-load or null-store of a firing's LSID: the LSID counts as issued, and that of a store source as stored. -/
def lsNulled (op : BitVec 9) (f : Fire) (hw : Hw) : Except Stop Hw :=
  match lsUseOf op with
  | .none => .ok hw
  | .load => .ok (countIssued hw f.site f.w.ls.toNat)
  | .store => (countStore hw f.site f.w.ls.toNat).map fun hw => countIssued hw f.site f.w.ls.toNat

/-- The words of classes 0, 1 and 6 and the halyard words whose predicate the common rules decide: all but CHRECV, which has none, and TCALL,
WRITE, EXIT and EXITX, whose entries say what it does. -/
def predicatedOp (op : BitVec 9) : Prop :=
  (0x001#9 ≤ op ∧ op ≤ 0x05C#9 ∧ op ∉ [0x00F#9, 0x046#9, 0x049#9, 0x04A#9, 0x04B#9]) ∨
    (0x180#9 ≤ op ∧ op ≤ 0x19A#9) ∨ (0x1CA#9 ≤ op ∧ op ≤ 0x1CE#9)

/-- The words outside classes 2 to 5 whose entries leave a NULL operand to the common rule: CHOPEN, CHCLOSE, READ, SPAWN, SPAWNI, CNTINIT, CNTWAIT,
WAITA, QUIET to KEYQ, the memory words but FENCE, XLATE and LEAP, and the matrix words but MBC and MBCW. -/
def nullOp (op : BitVec 9) : Prop :=
  op ∈ [0x011#9, 0x012#9, 0x048#9, 0x04C#9, 0x04D#9, 0x04E#9, 0x050#9, 0x051#9] ∨ (0x053#9 ≤ op ∧ op ≤ 0x05C#9) ∨
    (0x180#9 ≤ op ∧ op ≤ 0x19A#9 ∧ op ∉ [0x184#9, 0x186#9, 0x187#9]) ∨ (0x1C0#9 ≤ op ∧ op ≤ 0x1C8#9 ∧ op ∉ [0x1C3#9, 0x1C4#9])

/-- A predicate that does not fire a word of classes 0, 1 or 6 or a halyard word sends NULL with AUX 0, its LSID being nulled; a poisoned
one sends DATA 0 with poison, for the words that name no LSID (03 R84, R96, 07 R204). -/
def Clauses.PredicatedWords : Prop :=
  ∀ (i : Instr) (op : BitVec 9) (w : Fields) (sp : OpSpec) (s : State) (f : Fire),
    opFields i = some (op, w) → predicatedOp op → specOf i = some sp → sp.pPort = false → Ready sp w s f → f.queued = false → anyEnd f.data = false →
    (∀ hw1 hw, predOf w.pr f.p = .notFire → lsNulled op f s.hw = .ok hw1 → emitAll f hw1 [tokOf f .null] = .ok hw → exec i s = .next (fired f s hw)) ∧
    (∀ hw, predOf w.pr f.p = .poisoned → lsUseOf op = .none → emitAll f s.hw [tokOf f .data 0 true] = .ok hw → exec i s = .next (fired f s hw))

/-- A NULL operand of such a word sends NULL with the AUX of the lowest-numbered port that holds one, its LSID being nulled: a null-store of
ST and STREL, a null-load of the loads, atomics and streams (03 R90, 07 R204, R208, R212). -/
def Clauses.NullWords : Prop :=
  ∀ (i : Instr) (op : BitVec 9) (w : Fields) (sp : OpSpec) (s : State) (f : Fire) (k : BitVec 7) (hw1 hw : Hw),
    opFields i = some (op, w) → nullOp op → specOf i = some sp → Ready sp w s f → f.queued = false → anyEnd f.data = false →
    predOf w.pr f.p = .fires → nullAux f.data = some k → lsNulled op f s.hw = .ok hw1 → emitAll f hw1 [tokOf f .null 0 false k] = .ok hw →
    exec i s = .next (fired f s hw)

/-- The words that forward an END on port a, which is the only port of theirs that takes one (07 R425). -/
def endOp (op : BitVec 9) : Prop :=
  op ∈ [0x04C#9, 0x04D#9, 0x04E#9, 0x04F#9, 0x050#9, 0x051#9, 0x059#9, 0x05A#9, 0x05B#9, 0x05C#9,
    0x180#9, 0x181#9, 0x182#9, 0x183#9, 0x185#9, 0x186#9, 0x187#9, 0x195#9, 0x197#9, 0x198#9, 0x199#9, 0x19A#9] ∨ (0x1C0#9 ≤ op ∧ op ≤ 0x1CE#9)

/-- An END on port a of a memory, task, counter, matrix or halyard word is forwarded under the firing's tag to both targets, whatever the other
ports hold and whatever its predicate, with its LSID nulled and nothing else done; an END offered at another port of it freezes the
element with cause 5 (07 R425). -/
def Clauses.EndForwarded : Prop :=
  (∀ (i : Instr) (op : BitVec 9) (w : Fields) (sp : OpSpec) (s : State) (f : Fire) (hw1 hw : Hw),
    opFields i = some (op, w) → endOp op → specOf i = some sp → Ready sp w s f → f.queued = false → f.a.kind = .endm →
    lsNulled op f s.hw = .ok hw1 → emitAll f hw1 [{ f.a with tag := f.tag }] = .ok hw → exec i s = .next (fired f s hw)) ∧
  (∀ (i : Instr) (op : BitVec 9) (w : Fields) (sp : OpSpec) (t : Token),
    opFields i = some (op, w) → endOp op → specOf i = some sp → t.kind = .endm → t.rank ≠ 0 → (contPort t.cont = 1 ∨ contPort t.cont = 2) →
    contPort t.cont ∈ tokenPorts sp w → sp.stream = false → ∃ d, offerFault sp w t = some d ∧ d % 2 ^ 5 = 5)

/-- The common rules of a firing: predicates, NULL operands, poisoned predicates and END operands (02 R48, 03 R84, R90, R94, R96, 07 R425). That a
poisoned predicate goes before a NULL operand is the model's choice (log 59). -/
def Obligations.CommonRules : Prop :=
  Clauses.CommonRules ∧ Clauses.PredicateDecides ∧ Clauses.PredicatedWords ∧ Clauses.NullWords ∧ Clauses.EndForwarded

/-- A word whose own fields its entry does not accept freezes its element with ILLEGAL_FIELD, whatever its operands; CHRECV,
which takes its operand from its endpoint, does so when a token stands there (02 R47 to R50, R54, 03 R98). -/
def Obligations.BadWordFaults : Prop :=
  (∀ (i : Instr) (op : BitVec 9) (w : Fields) (sp : OpSpec) (s : State) (f : Fire) (d : Nat),
    opFields i = some (op, w) → specOf i = some sp → i ≠ .chrecv w → focusFire sp w s.hw = some f → dropped s.hw f = false →
    wordFault sp w (frameAt (coreAt s.hw f.core) f.frame).header = some d →
    exec i s = .next (faulted f s cILLFIELD d)) ∧
  (∀ (w : Fields) (s : State) (f : Fire) (hw : Hw) (d : Nat), chRecvFire w s.hw = some (f, hw) → dropped s.hw f = false →
    wordFault specChrecv w (frameAt (coreAt s.hw f.core) f.frame).header = some d →
    exec (.chrecv w) s = .next (faulted f s cILLFIELD d))

/-- The FN values that the words of class 4 and the lane words accept, VCVT's apart, which go by its formats (05 R141, R148, R150 to R158). -/
def acceptedFn (op : BitVec 9) : List Nat :=
  if op = 0x11A#9 ∨ op = 0x11B#9 ∨ op = 0x11C#9 then List.range 8
  else if op ≤ 0x11D#9 then List.range 24
  else if op = 0x150#9 then [0]
  else if op = 0x151#9 then [1, 2, 3, 5, 6, 7]
  else if op = 0x152#9 ∨ op = 0x153#9 then [0, 1, 2]
  else if op ≤ 0x156#9 then [0, 1, 2, 3]
  else if op = 0x157#9 then [0, 1, 2, 6]
  else if op ≤ 0x15B#9 then [1, 2, 5, 6]
  else if op ≤ 0x15E#9 then [3]
  else if op ≤ 0x160#9 then [1, 2]
  else [1, 2, 3]

/-- The fields that the words of class 2, CMPEQ to CLAMP, class 4 and the lane words accept: FN, PR, LS, OM and XF, each with its cause (of
VCVT the OM values, of the conversions all but XF); which of several causes a fault names is the model's choice, the lowest (02
R47 to R50, R54, Table 3.5, log 21). -/
def Obligations.FieldCauses : Prop :=
  ∀ (i : Instr) (op : BitVec 9) (w : Fields) (sp : OpSpec), opFields i = some (op, w) → specOf i = some sp →
    (0x080#9 ≤ op → op ≤ 0x0CA#9 →
      (fieldFault sp w = some 0 ↔ 2 ≤ w.fn.toNat) ∧
      (fieldFault sp w = some 1 ↔ w.fn.toNat < 2 ∧ w.pr = 3) ∧
      (fieldFault sp w = some 2 ↔ w.fn.toNat < 2 ∧ w.pr ≠ 3 ∧ w.ls ≠ 0) ∧
      (fieldFault sp w = some 3 ↔ w.fn.toNat < 2 ∧ w.pr ≠ 3 ∧ w.ls = 0 ∧ w.om.toNat ∉ sp.oms) ∧
      (fieldFault sp w = some 4 ↔ w.fn.toNat < 2 ∧ w.pr ≠ 3 ∧ w.ls = 0 ∧ w.om.toNat ∈ sp.oms ∧ w.xf ≠ 0)) ∧
    (0x100#9 ≤ op → op ≤ 0x161#9 → op ≠ 0x15C#9 →
      (w.fn.toNat ∉ acceptedFn op → fieldFault sp w = some 0) ∧
      (w.fn.toNat ∈ acceptedFn op → w.pr = 3 → fieldFault sp w = some 1) ∧
      (w.fn.toNat ∈ acceptedFn op → w.pr ≠ 3 → w.ls ≠ 0 → fieldFault sp w = some 2) ∧
      (w.fn.toNat ∈ acceptedFn op → w.pr ≠ 3 → w.ls = 0 → w.om.toNat ∉ sp.oms → fieldFault sp w = some 3) ∧
      (w.fn.toNat ∈ acceptedFn op → w.pr ≠ 3 → w.ls = 0 → w.om.toNat ∈ sp.oms → sp.omBad w = false → (op < 0x11A#9 ∨ 0x11C#9 < op) → w.xf ≠ 0 →
        fieldFault sp w = some 4)) ∧
    (0x080#9 ≤ op → op ≤ 0x161#9 →
      (sp.oms = if sp.arity = 1 then [0] else if sp.arity = 2 then (if op = 0x15F#9 ∨ op = 0x160#9 then [0, 2] else [0, 1, 2])
        else [0, 1, 2, 3, 4]))

/-- The operands of a firing: a port that OM gives K holds DATA with K extended to 64 bits, or one half of K under OM 4, zero-
extended for floating words; every other port holds the token that stands at the head of its queue (02 R50, R56, 03 R75). -/
def Obligations.OperandPorts : Prop :=
  ∀ (sp : OpSpec) (w : Fields) (s : State) (f : Fire), focusFire sp w s.hw = some f → f.queued = false → sp.arity ≤ 3 → sp.op ≠ opREAD →
    (∀ p, p < sp.arity → omToken w.om.toNat p = true →
      ∃ o, headAt (elemAt s.hw f.site.elem) f.site.slot f.tag p = some o ∧ o.tok = portTok sp w f.used p) ∧
    (∀ p, p < sp.arity → omToken w.om.toNat p = false →
      portTok sp w f.used p = mkTok 0 0 .data
        (if w.om = 4 then (let h := if p = 1 then w.k.extractLsb' 0 24 else w.k.extractLsb' 24 24
          if sp.zxK then h.setWidth 64 else h.signExtend 64)
        else if sp.zxK then w.k.setWidth 64 else w.k.signExtend 64)) ∧
    f.a = portTok sp w f.used 0 ∧ f.b = portTok sp w f.used 1 ∧ f.c = portTok sp w f.used 2 ∧ f.p = portTok sp w f.used 3

/-- A frozen element fires no word (03 R98). -/
def Obligations.FrozenFiresNothing : Prop :=
  ∀ (i : Instr) (sp : OpSpec) (s : State) (fo : Focus), specOf i = some sp → s.hw.focus = some fo → frozen s.hw fo.elem = true →
    exec i s = .fault .notEnabled

/-- Taking an element fault: the fault register of the element holds the operation, the tag, the place, the code and the
DETAIL, VALID is set, the operands stay, and no other element, core, cluster or die changes; a second fault only sets MULTI. Its upper
half is laid out as Table 3.4 of 03, in all its twelve fields (03 R98, R99). -/
def Obligations.FreezeRegister : Prop :=
  ∀ (hw : Hw) (e slot : Nat) (tag : BitVec 20) (op : BitVec 9) (why : FaultFrom) (code detail : Nat) (psn : Bool) (kind : BitVec 4) (port : Nat),
    let r := freeze hw e slot tag op why code detail psn kind port
    let x := (elemAt r e).fault
    (frozen hw e = false →
      x.valid = true ∧ x.multi = false ∧ x.op = op ∧ x.psn = psn ∧ x.kind = kind ∧ x.tag = tag ∧ x.elem = e ∧
      x.port = BitVec.ofNat 2 port ∧ x.slot = BitVec.ofNat 2 (slot % 4) ∧ x.frame = BitVec.ofNat 3 (slot / 4) ∧
      x.code = BitVec.ofNat 8 code ∧ x.detail = BitVec.ofNat 64 detail ∧ (elemAt r e).why = why) ∧
    (frozen hw e = true → x = { (elemAt hw e).fault with multi := true } ∧ (elemAt r e).why = (elemAt hw e).why) ∧
    (elemAt r e).ops = (elemAt hw e).ops ∧ (elemAt r e).words = (elemAt hw e).words ∧
    (∀ j, j ≠ e → elemAt r j = elemAt hw j) ∧
    r.cores = hw.cores ∧ r.cls = hw.cls ∧ r.dies = hw.dies ∧ r.pkg = hw.pkg ∧ r.net = hw.net ∧ r.acc = hw.acc ∧ r.tasks = hw.tasks ∧
    (x.valid = true → (faultHigh x).getLsbD 63 = true ∧ (faultHigh x).getLsbD 62 = x.multi ∧ (faultHigh x).extractLsb' 53 9 = x.op ∧
      (faultHigh x).getLsbD 52 = x.psn ∧ (faultHigh x).extractLsb' 48 4 = x.kind ∧ (faultHigh x).extractLsb' 28 20 = x.tag ∧
      (faultHigh x).extractLsb' 15 13 = BitVec.ofNat 13 x.elem ∧ (faultHigh x).extractLsb' 13 2 = x.port ∧ (faultHigh x).extractLsb' 11 2 = x.slot ∧
      (faultHigh x).extractLsb' 8 3 = x.frame ∧ (faultHigh x).extractLsb' 0 8 = x.code)

/-- Where a token of a firing goes by its target: nowhere; to a port of a slot of the same core and frame; to a hold register of the
activation, a NULL as a null-write and a kind that none takes raising cause 13; or along a route of the block's table, under tag 0 in its
STATELESS mode and under its own tag in any other (for the values of TMODE that are not assigned the model's choice, log 65), an absent route
raising cause 7; from a frame of a region to another that is not current, the send raises cause 14 (02 R53, R59, Table 2.8, 06 R170, R172, R184). -/
def Clauses.EmissionTargets : Prop :=
  ∀ (hw : Hw) (x : Site) (src : Src) (n : Nat) (t : Token),
    (∀ g : BitVec 20, emitTo hw x src (0#2 ++ g) t = .ok hw) ∧
    (∀ g : BitVec 20,
      let cont := mkCont (ownLC hw) (coreOf x.elem * 32 + bits g.toNat 4 5) (x.frame * 4 + bits g.toNat 2 2) (bits g.toNat 0 2)
      (switchViolation hw x cont = false → emitTo hw x src (1#2 ++ g) t = sendCont hw x src cont t) ∧
      (switchViolation hw x cont = true → emitTo hw x src (1#2 ++ g) t = .error (.fault cILLFIELD (14 + 2 * 2 ^ 5 + contFrame cont * 2 ^ 8)))) ∧
    (n < 64 → emitTo hw x src (2#2 ++ BitVec.ofNat 20 n) t =
      if t.kind = .data ∨ t.kind = .paddr then stageWrite hw x n (some (t.value, t.psn))
      else if t.kind = .null then stageWrite hw x n none else .error (accounting 3 n x.tag)) ∧
    (n < 256 → hdrRoutes (frameAt (coreAt hw (coreOf x.elem)) x.frame).header ≤ n →
      emitTo hw x src (3#2 ++ BitVec.ofNat 20 n) t = .error (illegal 7)) ∧
    (n < 256 → n < hdrRoutes (frameAt (coreAt hw (coreOf x.elem)) x.frame).header →
      switchViolation hw x ((routeAt hw x n).extractLsb' 0 30) = false →
      emitTo hw x src (3#2 ++ BitVec.ofNat 20 n) t =
        sendCont hw x src ((routeAt hw x n).extractLsb' 0 30)
          (if (routeAt hw x n).extractLsb' 30 2 = 1 then { t with tag := 0 } else t)) ∧
    (n < 256 → n < hdrRoutes (frameAt (coreAt hw (coreOf x.elem)) x.frame).header →
      switchViolation hw x ((routeAt hw x n).extractLsb' 0 30) = true →
      emitTo hw x src (3#2 ++ BitVec.ofNat 20 n) t =
        .error (.fault cILLFIELD (14 + 2 * 2 ^ 5 + contFrame ((routeAt hw x n).extractLsb' 0 30) * 2 ^ 8))) ∧
    (∀ cont : BitVec 30, switchViolation hw x cont = true ↔ ∃ k i r, regionOf hw (coreOf x.elem) x.frame = some (k, i, r) ∧
      contLC cont = ownLC hw ∧ dieOf (contCore cont) = k / 8 ∧ regionHolds r (clOf (contCore cont) % 8) (contCore cont % 8) = true ∧
      r.frames.getLsbD (contFrame cont) = true ∧ contFrame cont ≠ r.cur.toNat)

/-- A token sent within the package joins those on their way with its continuation and the sideband of its activation, and
elements, clusters, dies, package, accesses and tasks stay; towards another logical chip it needs an entry that is on, else LINK_DOWN, and no
poison, else POISON_AT_BOUNDARY (13 R366, 16 R407, R412; the DETAIL 0 of that fault being the model's reading, log 46). -/
def Clauses.SentTokens : Prop :=
  ∀ (hw : Hw) (x : Site) (src : Src) (cont : BitVec 30) (t : Token),
    (contLC cont = ownLC hw → ∃ hw', sendCont hw x src cont t = .ok hw' ∧
      hw'.net = hw.net ++ [{ tok := { t with cont := cont }, src := src, side := siteSide x, gen := genOfCl hw (clOf (coreOf x.elem)), iss := x.iss }] ∧
      hw'.elems = hw.elems ∧ hw'.cls = hw.cls ∧ hw'.dies = hw.dies ∧ hw'.pkg = hw.pkg ∧ hw'.acc = hw.acc ∧ hw'.tasks = hw.tasks) ∧
    (contLC cont ≠ ownLC hw → fabOff hw (dieOf (coreOf x.elem)) (contLC cont) = true →
      sendCont hw x src cont t = .error (.fault cLINK (tokenLinkDown { t with cont := cont }))) ∧
    (contLC cont ≠ ownLC hw → fabOff hw (dieOf (coreOf x.elem)) (contLC cont) = false →
      sendCont hw x src cont t = if tokPsn t then .error (.fault cPOISON 0)
        else .ok { hw with net := hw.net ++
          [{ tok := { t with cont := cont }, src := src, side := siteSide x, gen := genOfCl hw (clOf (coreOf x.elem)), iss := x.iss }] })

/-- A target takes tokens in a state, whatever they are: it is absent, or a slot of the firing's own frame, which its region, if it is
in one, makes current. -/
def takesTokens (s : State) (f : Fire) (t : BitVec 22) : Prop :=
  t.extractLsb' 20 2 = 0 ∨ (t.extractLsb' 20 2 = 1 ∧ ∀ x, regionOf s.hw f.core f.frame = some x → x.2.2.cur.toNat = f.frame)

/-- Both targets of a firing take tokens: a condition on the state and the operands under which every emission below answers. -/
def TargetsTake (s : State) (f : Fire) : Prop := takesTokens s f f.w.t0 ∧ takesTokens s f f.w.t1

/-- Where both targets take tokens, an emission sends each of its tokens to each target that there is, and changes neither elements, clusters, dies, accesses nor
tasks (02 R53, Table 2.8). -/
def Clauses.EmissionAnswers : Prop :=
  ∀ (s : State) (f : Fire) (l : List Token), TargetsTake s f → f.site.t0 = f.w.t0 → f.site.t1 = f.w.t1 → f.frame < 8 →
    ∃ hw, emitAll f s.hw l = .ok hw ∧
      hw.net.length = s.hw.net.length + (if f.w.t0.extractLsb' 20 2 = 0 then 0 else l.length) + (if f.w.t1.extractLsb' 20 2 = 0 then 0 else l.length) ∧
      hw.elems = s.hw.elems ∧ hw.cls = s.hw.cls ∧ hw.dies = s.hw.dies ∧ hw.acc = s.hw.acc ∧ hw.tasks = s.hw.tasks

/-- Where a token of a firing goes, what sending one does, and that targets which take tokens let an emission answer (02 R53, R59, 06 R170, R172,
R184, 13 R366, 16 R407). The values of TMODE that are not assigned are the model's choice (log 65). -/
def Obligations.EmissionTargets : Prop :=
  Clauses.EmissionTargets ∧ Clauses.SentTokens ∧ Clauses.EmissionAnswers

/-- The frame of every word of classes 2 to 4 and every lane word: memory, every other element and core, every cluster, die,
task, access and counter, the partitions and everything on its way stay, the tokens sent being added behind; its own element keeps
its words and its own core all but the counts of firings, the LSID queue and what its activations have staged. -/
def Obligations.ComputeFrame : Prop :=
  ∀ (i : Instr) (op : BitVec 9) (w : Fields) (s t : State) (fo : Focus), opFields i = some (op, w) → commonOp op →
    s.hw.focus = some fo → exec i s = .next t →
    t.mem = s.mem ∧ (∃ l, t.hw.net = s.hw.net ++ l) ∧
    (∀ e, e ≠ fo.elem → elemAt t.hw e = elemAt s.hw e) ∧
    (∀ c, c ≠ coreOf fo.elem → coreAt t.hw c = coreAt s.hw c) ∧
    (elemAt t.hw fo.elem).words = (elemAt s.hw fo.elem).words ∧ (elemAt t.hw fo.elem).lo = (elemAt s.hw fo.elem).lo ∧
    (∀ o ∈ (elemAt t.hw fo.elem).ops, ∃ p ∈ (elemAt s.hw fo.elem).ops, o = { p with stamp := o.stamp }) ∧
    (∃ acts firedN mv lsq, coreAt t.hw (coreOf fo.elem) =
      { coreAt s.hw (coreOf fo.elem) with acts := acts, firedN := firedN, moved := mv, lsq := lsq } ∧
      acts.map (fun a => { a with writes := [], exposed := false }) =
        (coreAt s.hw (coreOf fo.elem)).acts.map (fun a => { a with writes := [], exposed := false })) ∧
    t.hw.now = s.hw.now ∧
    { t.hw with elems := [], cores := [], net := [], ids := 0, focus := none, waited := false } =
      { s.hw with elems := [], cores := [], net := [], ids := 0, focus := none, waited := false }

/-! ## Integer words (04 R130 to R137)

The width is 64 bits with FN[0] set and 32 without it; a 32-bit result is sign-extended, and zero-extended where 04 R135 says so. -/

/-- A result of one width as a word. -/
def widen {n : Nat} (zero : Bool) (v : BitVec n) : Word := if zero then v.setWidth 64 else v.signExtend 64

/-- A word of class 2 or 3 whose value at width n is `g` of its two operands' low n bits. -/
def Binary (mk : Fields → Instr) (zero : Bool) (g : (n : Nat) → BitVec n → BitVec n → BitVec n) : Prop :=
  Computes mk fun f => if f.w.fn.getLsbD 0 then g 64 f.a.value f.b.value
    else widen zero (g 32 (f.a.value.setWidth 32) (f.b.value.setWidth 32))

/-- The same of one operand. -/
def Unary (mk : Fields → Instr) (zero : Bool) (g : (n : Nat) → BitVec n → BitVec n) : Prop :=
  Binary mk zero fun n x _ => g n x

/-- Sums, differences, products, extremes and logic: modulo 2^w, or saturated, or the high half (04 Table 4.5, R130, R135). -/
def Obligations.IntegerArithmetic : Prop :=
  Binary .add false (fun _ x y => x + y) ∧ Binary .sub false (fun _ x y => x - y) ∧ Binary .rsub false (fun _ x y => y - x) ∧
  Unary .neg false (fun _ x => -x) ∧ Unary .abs false (fun _ x => if x.msb then -x else x) ∧
  Binary .adds false (fun n x y => if BitVec.saddOverflow x y then (if x.msb then BitVec.intMin n else BitVec.intMax n) else x + y) ∧
  Binary .subs false (fun n x y => if BitVec.ssubOverflow x y then (if x.msb then BitVec.intMin n else BitVec.intMax n) else x - y) ∧
  Binary .mul false (fun _ x y => x * y) ∧
  Binary .mulh false (fun n x y => (x.signExtend (2 * n) * y.signExtend (2 * n)).extractLsb' n n) ∧
  Binary .mulhz true (fun n x y => (x.setWidth (2 * n) * y.setWidth (2 * n)).extractLsb' n n) ∧
  Binary .min false (fun _ x y => if x.slt y then x else y) ∧ Binary .max false (fun _ x y => if x.slt y then y else x) ∧
  Binary .minz true (fun _ x y => if x.ult y then x else y) ∧ Binary .maxz true (fun _ x y => if x.ult y then y else x) ∧
  Binary .and false (fun _ x y => x &&& y) ∧ Binary .or false (fun _ x y => x ||| y) ∧ Binary .xor false (fun _ x y => x ^^^ y) ∧
  Binary .andn false (fun _ x y => x &&& ~~~y) ∧ Binary .orn false (fun _ x y => x ||| ~~~y) ∧ Unary .not false (fun _ x => ~~~x) ∧
  Binary .packw false (fun n x y => (y <<< (n / 2)) ||| ((x <<< (n / 2)) >>> (n / 2)))

/-- Division rounds toward zero and never faults: by 0 the quotient is all ones and the remainder the dividend; the most
negative number by -1 is itself, with remainder 0 (04 R131). -/
def Clauses.DivisionRounds : Prop :=
  Binary .div false (fun n x y => if y = 0 then BitVec.allOnes n else x.sdiv y) ∧
  Binary .divz true (fun n x y => if y = 0 then BitVec.allOnes n else x / y) ∧
  Binary .rem false (fun _ x y => if y = 0 then x else x.srem y) ∧
  Binary .remz true (fun _ x y => if y = 0 then x else x % y)

/-- Shifts take their amount as an unsigned number, an amount of w or more shifting every bit out; rotations take it modulo w (04 R132). -/
def Clauses.ShiftsAndRotations : Prop :=
  Binary .shl false (fun n x y => if n ≤ y.toNat then 0 else x <<< y.toNat) ∧
  Binary .shr true (fun n x y => if n ≤ y.toNat then 0 else x >>> y.toNat) ∧
  Binary .sar false (fun n x y => if n ≤ y.toNat then (if x.msb then BitVec.allOnes n else 0) else x.sshiftRight y.toNat) ∧
  Binary .rol false (fun n x y => x.rotateLeft (y.toNat % n)) ∧ Binary .ror false (fun n x y => x.rotateRight (y.toNat % n))

/-- How many of the bits of a word satisfy a condition on their place. -/
def countBits (n : Nat) (p : Nat → Bool) : Nat := ((List.range n).filter p).length

/-- The bits above, below and within: CLZ, CTZ and POPC count them, BREV and BSWAP turn them round (04 Table 4.5). -/
def Clauses.BitCounts : Prop :=
  Unary .clz true (fun n x => BitVec.ofNat n (countBits n fun i => decide (x.toNat < 2 ^ (n - 1 - i)))) ∧
  Unary .ctz true (fun n x => BitVec.ofNat n (countBits n fun i => decide (x.toNat % 2 ^ (i + 1) = 0))) ∧
  Unary .popc true (fun n x => BitVec.ofNat n (countBits n fun i => x.getLsbD i)) ∧
  Unary .brev false (fun _ x => x.reverse) ∧
  Unary .bswap false (fun n x =>
    BitVec.ofNat n ((List.range (n / 8)).map fun k => x.toNat / 2 ^ (8 * k) % 256 * 2 ^ (n - 8 - 8 * k)).sum)

/-- Division and its remainder, shifts and rotations, and the counting of bits (04). -/
def Obligations.DivisionShiftsAndCounts : Prop :=
  Clauses.DivisionRounds ∧ Clauses.ShiftsAndRotations ∧ Clauses.BitCounts

/-- The length and position of a field specification, and whether the field lies within the width (04 R133). -/
def fieldGood (f : Fire) (y : Word) : Prop :=
  y.toNat % 128 ≠ 0 ∧ y.toNat / 256 % 64 + y.toNat % 128 ≤ (if f.w.fn.getLsbD 0 then 64 else 32)

/-- Fields: EXT and EXTZ take one, INS writes one, SEXT and ZEXT take the low n bits, LEA scales an index; a specification that lies
outside the width, an n outside 1 to w and a scale above 15 are operands out of range; that a poisoned one is too, and that DETAIL
reports the whole operand in the .W forms, are the model's choices (04 R105, R133, Table 4.5; logs 68 and 22). -/
def Clauses.FieldWords : Prop :=
  let p := fun (y : Word) => y.toNat / 256 % 64
  let l := fun (y : Word) => y.toNat % 128
  let lim := fun (f : Fire) => if f.w.fn.getLsbD 0 then 64 else 32
  let low := fun (f : Fire) (t : Token) => if f.w.fn.getLsbD 0 then t.value else (t.value.setWidth 32).setWidth 64
  let wide := fun (f : Fire) (v : Word) => if f.w.fn.getLsbD 0 then v else (v.setWidth 32).signExtend 64
  Acts .ext (fun f _ => fieldGood f f.b.value) (fun f s => out f s.hw (((low f f.a >>> p f.b.value).setWidth (l f.b.value)).signExtend 64)) ∧
  Faults .ext (fun f _ => ¬ fieldGood f f.b.value) cILLFIELD (fun f => 10 + 1 * 2 ^ 5 + f.b.value.toNat % 2 ^ 48 * 2 ^ 16) ∧
  Acts .extz (fun f _ => fieldGood f f.b.value) (fun f s => out f s.hw (((low f f.a >>> p f.b.value).setWidth (l f.b.value)).setWidth 64)) ∧
  Faults .extz (fun f _ => ¬ fieldGood f f.b.value) cILLFIELD (fun f => 10 + 1 * 2 ^ 5 + f.b.value.toNat % 2 ^ 48 * 2 ^ 16) ∧
  Acts .ins (fun f _ => fieldGood f f.c.value) (fun f s =>
    let m : Word := ((BitVec.allOnes 64).setWidth (l f.c.value)).setWidth 64 <<< p f.c.value
    out f s.hw (wide f ((low f f.a &&& ~~~m) ||| ((f.b.value <<< p f.c.value) &&& m)))) ∧
  Faults .ins (fun f _ => ¬ fieldGood f f.c.value) cILLFIELD (fun f => 10 + 2 * 2 ^ 5 + f.c.value.toNat % 2 ^ 48 * 2 ^ 16) ∧
  Acts .sext (fun f _ => 1 ≤ (low f f.b).toNat ∧ (low f f.b).toNat ≤ lim f)
    (fun f s => out f s.hw ((f.a.value.setWidth (low f f.b).toNat).signExtend 64)) ∧
  Faults .sext (fun f _ => ¬ (1 ≤ (low f f.b).toNat ∧ (low f f.b).toNat ≤ lim f)) cILLFIELD
    (fun f => 10 + 1 * 2 ^ 5 + f.b.value.toNat % 2 ^ 48 * 2 ^ 16) ∧
  Acts .zext (fun f _ => 1 ≤ (low f f.b).toNat ∧ (low f f.b).toNat ≤ lim f)
    (fun f s => out f s.hw ((f.a.value.setWidth (low f f.b).toNat).setWidth 64)) ∧
  Faults .zext (fun f _ => ¬ (1 ≤ (low f f.b).toNat ∧ (low f f.b).toNat ≤ lim f)) cILLFIELD
    (fun f => 10 + 1 * 2 ^ 5 + f.b.value.toNat % 2 ^ 48 * 2 ^ 16) ∧
  Acts .lea (fun f _ => (low f f.c).toNat ≤ 15) (fun f s => out f s.hw (wide f (f.a.value + (f.b.value <<< (low f f.c).toNat)))) ∧
  Faults .lea (fun f _ => 15 < (low f f.c).toNat) cILLFIELD (fun f => 10 + 2 * 2 ^ 5 + f.c.value.toNat % 2 ^ 48 * 2 ^ 16)

/-- Comparisons answer 1 or 0 and never a NULL; SEL and CLAMP choose a value, BOUND a value or a NULL, which a poisoned
operand never becomes; the predicates combine bit 0 (04 R134 to R137, Table 4.7). -/
def Clauses.Comparisons : Prop :=
  let one := fun (n : Nat) (b : Bool) => if b then 1#n else 0#n
  Binary .cmpeq true (fun n x y => one n (x == y)) ∧ Binary .cmpne true (fun n x y => one n (x != y)) ∧
  Binary .cmplt true (fun n x y => one n (x.slt y)) ∧ Binary .cmple true (fun n x y => one n (x.sle y)) ∧
  Binary .cmpltz true (fun n x y => one n (x.ult y)) ∧ Binary .cmplez true (fun n x y => one n (x.ule y)) ∧
  Binary .testz true (fun n x y => one n (x &&& y == 0)) ∧ Binary .testnz true (fun n x y => one n (x &&& y != 0)) ∧
  Computes .sel (fun f =>
    let v := if f.c.value.getLsbD 0 then f.a.value else f.b.value
    if f.w.fn.getLsbD 0 then v else (v.setWidth 32).signExtend 64) ∧
  Computes .clamp (fun f =>
    let x := if f.w.fn.getLsbD 0 then f.a.value else (f.a.value.setWidth 32).signExtend 64
    let y := if f.w.fn.getLsbD 0 then f.b.value else (f.b.value.setWidth 32).signExtend 64
    let z := if f.w.fn.getLsbD 0 then f.c.value else (f.c.value.setWidth 32).signExtend 64
    let m := if x.slt y then y else x
    if z.slt m then z else m) ∧
  Acts .bound (fun f _ => f.psn = true ∨ (if f.w.fn.getLsbD 0 then f.a.value.ult f.b.value
      else (f.a.value.setWidth 32).ult (f.b.value.setWidth 32)) = true)
    (fun f s => out f s.hw (if f.w.fn.getLsbD 0 then f.a.value else (f.a.value.setWidth 32).signExtend 64)) ∧
  Acts .bound (fun f _ => f.psn = false ∧ (if f.w.fn.getLsbD 0 then f.a.value.ult f.b.value
      else (f.a.value.setWidth 32).ult (f.b.value.setWidth 32)) = false)
    (fun f s => emitAll f s.hw [tokOf f .null]) ∧
  Computes .pand (fun f => if f.a.value.getLsbD 0 && f.b.value.getLsbD 0 then 1 else 0) ∧
  Computes .por (fun f => if f.a.value.getLsbD 0 || f.b.value.getLsbD 0 then 1 else 0) ∧
  Computes .pnot (fun f => if f.a.value.getLsbD 0 then 0 else 1)

/-- BOUND and DIGIT with a NULL on one port beside a poisoned operand send k + 1 tokens of DATA 0 with poison in its place, k being the AUX of the
lowest-numbered port that holds a NULL; without poison one NULL (04 R136, 05 R158). -/
def Clauses.PoisonBesideNull : Prop :=
  ∀ (mk : Fields → Instr) (sp : OpSpec) (w : Fields) (s : State) (f : Fire) (k : BitVec 7) (hw : Hw),
    (mk = .bound ∨ mk = .digit) → specOf (mk w) = some sp → Ready sp w s f → f.queued = false → anyEnd f.data = false →
    predOf w.pr f.p = .fires → nullAux f.data = some k →
    emitAll f s.hw (if f.psn then List.replicate (k.toNat + 1) (tokOf f .data 0 true) else [tokOf f .null 0 false k]) = .ok hw →
    exec (mk w) s = .next (fired f s hw)

/-- Bit fields, and comparisons and selections (04); what BOUND, and like it DIGIT, makes of a NULL beside poison (04 R136, 05 R158). -/
def Obligations.FieldsAndComparisons : Prop :=
  Clauses.FieldWords ∧ Clauses.Comparisons ∧ Clauses.PoisonBesideNull

/-! ## Floating point and lanes (01 R15 to R33, 05 R140 to R158) -/

/-- The integer that a finite value is, in units of 2^u, for a unit no larger than its own. -/
def inUnits (u : Int) (neg : Bool) (m : Nat) (e : Int) : Int := smant neg (m * 2 ^ (e - u).toNat)

/-- The pattern `b` is the rounding of (-1)^neg x m x 2^e into a format, among all its finite patterns `y`: the greatest that is not
above it (RDN), the least that is not below it (RUP), one of these by its sign (RTZ), or the nearest, an even pattern of two (RNE). -/
def isRounding (g : FFmt) (mode : Nat) (neg : Bool) (m : Nat) (e : Int) (b : Nat) : Prop :=
  ∃ n' m' e', fdec g b = .num n' m' e' ∧ ∀ y ny my ey, y < 2 ^ g.width → fdec g y = .num ny my ey →
    let u := min e (g.emin - g.frac)
    let x := inUnits u neg m e
    let r := inUnits u n' m' e'
    let v := inUnits u ny my ey
    (mode = 2 ∨ (mode = 1 ∧ neg = false) → r ≤ x ∧ (v ≤ x → v ≤ r)) ∧
    (mode = 3 ∨ (mode = 1 ∧ neg = true) → x ≤ r ∧ (x ≤ v → r ≤ v)) ∧
    (mode = 0 → (r - x).natAbs ≤ (v - x).natAbs ∧ ((r - x).natAbs = (v - x).natAbs → v ≠ r → b % 2 = 0))

/-- Every rounding takes the exact value and rounds it once: for every format and mode and every exact value within the format's
range, the result is the one pattern that the mode asks for (01 R17, R21, Table 1.4). -/
def Clauses.RoundsOnce : Prop :=
  ∀ g ∈ [f32, f16, bf16, e5m2, e4m3, e2m1], ∀ (mode : Nat) (sat neg : Bool) (m : Nat) (e : Int), mode < 4 →
    (∀ n' m' e', fdec g g.maxF = .num n' m' e' →
      let u := min e (g.emin - g.frac)
      inUnits u false m e ≤ inUnits u false m' e') →
    isRounding g mode neg m e (fround g mode sat neg m e)

/-- A magnitude beyond the greatest finite one stays it where the mode rounds it down to it (to nearest, where it lies below the middle of
the step that follows, or in the middle and the greatest is even); else it overflows: to an infinity or the canonical NaN away from zero,
to the greatest finite value toward it and with SAT (01 R21, R22, Table 1.5). -/
def Clauses.Overflows : Prop :=
  ∀ g ∈ [f32, f16, bf16, e5m2, e4m3, e2m1], ∀ (mode : Nat) (sat neg : Bool) (m : Nat) (e : Int), mode < 4 →
    ∀ n' m' e', fdec g g.maxF = .num n' m' e' →
      let u := min e (g.emin - g.frac)
      let x := inUnits u false m e
      let top := inUnits u false m' e'
      let step := inUnits u false 1 e'
      top < x →
      fround g mode sat neg m e =
        if sat = true ∨ mode = 1 ∨ (mode = 2 ∧ neg = false) ∨ (mode = 3 ∧ neg = true) ∨
            (mode = 0 ∧ (2 * x < 2 * top + step ∨ (2 * x = 2 * top + step ∧ m' % 2 = 0))) then withSign g neg g.maxF
        else match g.inf with
          | some i => withSign g neg i
          | none => g.nan

/-- A rounded result carries the sign of the exact one, a zero too, but that E2M1 has one zero (01 R21, Table 1.3). -/
def Clauses.RoundedSign : Prop :=
  ∀ g ∈ [f32, f16, bf16, e5m2, e4m3, e2m1], ∀ (mode : Nat) (sat neg : Bool) (m : Nat) (e : Int), mode < 4 →
    ∀ n' m' e', fdec g (fround g mode sat neg m e) = .num n' m' e' → n' = (neg && !(g.width == 4 && m' == 0))

/-- The exact sum and product of two values: NaN with a NaN, of two infinities of other signs and of 0 and an infinity; an infinity; the
number, an exact zero of a sum being -0 in RDN alone unless both addends are zeros of one sign (01 R20, R21). -/
def Clauses.ExactSums : Prop :=
  (∀ mode x, addV mode .nan x = .nan ∧ addV mode x .nan = .nan ∧ mulV .nan x = .nan ∧ mulV x .nan = .nan) ∧
  (∀ mode p q n m e, addV mode (.inf p) (.inf q) = (if p = q then .inf p else .nan) ∧
    addV mode (.inf p) (.num n m e) = .inf p ∧ addV mode (.num n m e) (.inf p) = .inf p ∧ mulV (.inf p) (.inf q) = .inf (p != q) ∧
    mulV (.inf p) (.num n m e) = (if m = 0 then .nan else .inf (p != n)) ∧ mulV (.num n m e) (.inf p) = (if m = 0 then .nan else .inf (n != p))) ∧
  (∀ mode n1 m1 e1 n2 m2 e2, mulV (.num n1 m1 e1) (.num n2 m2 e2) = .num (n1 != n2) (m1 * m2) (e1 + e2) ∧
    ∃ n m e, addV mode (.num n1 m1 e1) (.num n2 m2 e2) = .num n m e ∧
      (let u := min e1 e2
       (u ≤ e ∨ m = 0) ∧ inUnits u n m e = inUnits u n1 m1 e1 + inUnits u n2 m2 e2) ∧
      (m = 0 → n = if m1 = 0 ∧ m2 = 0 ∧ n1 = n2 then n1 else mode == 2))

/-- The magnitude of a pattern, which orders the finite patterns and the infinity of a format by their values. -/
def magOf (g : FFmt) (b : Nat) : Nat := b % 2 ^ (g.width - 1)

/-- A pattern of a sign rounds a magnitude of which `below` and `above` say which numbers m x 2^e are not above and not below it: its
own magnitude lies between the rounded ones of all of these. -/
def RoundsTo (g : FFmt) (mode : Nat) (sat neg : Bool) (below above : Nat → Int → Prop) (b : Nat) : Prop :=
  b / 2 ^ (g.width - 1) = (if neg then 1 else 0) ∧
  ∀ m e, (below m e → magOf g (fround g mode sat neg m e) ≤ magOf g b) ∧ (above m e → magOf g b ≤ magOf g (fround g mode sat neg m e))

/-- Quotients, square roots and their reciprocals are the exact ones rounded once, and the special operands have the results of Table
5.2: the canonical NaN for 0 / 0, for two infinities and for a root of a number below 0, an infinity for a division by 0 (01 R20, R21, 05 R146). -/
def Clauses.QuotientsAndRoots : Prop :=
  ∀ g ∈ [f32, f16, bf16], ∀ (mode : Nat) (sat : Bool), mode < 4 →
    (∀ n1 m1 e1 n2 m2 e2, m1 < 2 ^ 64 → m2 < 2 ^ 64 → m2 ≠ 0 →
      RoundsTo g mode sat (n1 != n2)
        (fun m e => inUnits (min e1 (e + e2)) false (m * m2) (e + e2) ≤ inUnits (min e1 (e + e2)) false m1 e1)
        (fun m e => inUnits (min e1 (e + e2)) false m1 e1 ≤ inUnits (min e1 (e + e2)) false (m * m2) (e + e2))
        (fdivV g mode sat (.num n1 m1 e1) (.num n2 m2 e2))) ∧
    (∀ k e0, k < 2 ^ 64 → k ≠ 0 →
      RoundsTo g mode sat false
        (fun m e => inUnits (min e0 (2 * e)) false (m * m) (2 * e) ≤ inUnits (min e0 (2 * e)) false k e0)
        (fun m e => inUnits (min e0 (2 * e)) false k e0 ≤ inUnits (min e0 (2 * e)) false (m * m) (2 * e))
        (fsqrtV g mode sat (.num false k e0)) ∧
      RoundsTo g mode sat false
        (fun m e => inUnits (min 0 (2 * e + e0)) false (m * m * k) (2 * e + e0) ≤ inUnits (min 0 (2 * e + e0)) false 1 0)
        (fun m e => inUnits (min 0 (2 * e + e0)) false 1 0 ≤ inUnits (min 0 (2 * e + e0)) false (m * m * k) (2 * e + e0))
        (frsqV g mode sat (.num false k e0)) ∧
      fsqrtV g mode sat (.num true k e0) = g.nan ∧ frsqV g mode sat (.num true k e0) = g.nan) ∧
    (∀ x, fdivV g mode sat .nan x = g.nan ∧ fdivV g mode sat x .nan = g.nan) ∧
    (∀ i, g.inf = some i → ∀ p q n m e,
      fdivV g mode sat (.inf p) (.inf q) = g.nan ∧ fdivV g mode sat (.inf p) (.num n m e) = withSign g (p != n) i ∧
      fdivV g mode sat (.num n m e) (.inf p) = withSign g (n != p) 0 ∧
      fdivV g mode sat (.num n m e) (.num q 0 e) = (if m = 0 then g.nan else withSign g (n != q) i) ∧
      fsqrtV g mode sat (.num n 0 e) = withSign g n 0 ∧ frsqV g mode sat (.num n 0 e) = withSign g n i ∧
      fsqrtV g mode sat (.inf p) = (if p then g.nan else i) ∧ frsqV g mode sat (.inf p) = (if p then g.nan else 0) ∧
      fsqrtV g mode sat .nan = g.nan ∧ frsqV g mode sat .nan = g.nan)

/-- The extremes, comparisons and classes of the patterns of a format: -0 orders below +0 in the extremes and equals it in a comparison, a
NaN gives way to the other operand and compares with nothing; a class has one bit by sign, exponent and fraction (05 R144, R145, R147). -/
def Clauses.ExtremesAndClasses : Prop :=
  ∀ g ∈ [f32, f16, bf16], ∀ x y, x < 2 ^ g.width → y < 2 ^ g.width →
    let neg := fun (b : Nat) => decide (2 ^ (g.width - 1) ≤ b)
    let nan := fun (b : Nat) => decide (g.maxF + 1 < magOf g b)
    let key := fun (b : Nat) => if neg b then -(magOf g b : Int) - 1 else (magOf g b : Int)
    let sm := fun (b : Nat) => if neg b then -(magOf g b : Int) else (magOf g b : Int)
    (∀ top, nan x = true → fminmax g top x y = if nan y then g.nan else y) ∧
    (∀ top, nan x = false → nan y = true → fminmax g top x y = x) ∧
    (nan x = false → nan y = false → fminmax g false x y = (if key x ≤ key y then x else y) ∧ fminmax g true x y = (if key x ≤ key y then y else x)) ∧
    fcmp (fdec g x) (fdec g y) = (if nan x || nan y then none else some (compare (sm x) (sm y))) ∧
    fclassV g (fdec g x) =
      if nan x then 2 ^ 8
      else if magOf g x = g.maxF + 1 then (if neg x then 2 ^ 0 else 2 ^ 7)
      else if magOf g x = 0 then (if neg x then 2 ^ 3 else 2 ^ 4)
      else if magOf g x < 2 ^ g.frac then (if neg x then 2 ^ 2 else 2 ^ 5)
      else (if neg x then 2 ^ 1 else 2 ^ 6)

/-- An integer rounds an exact value: not above it and within 1 of it (RDN), not below it and within 1 of it (RUP), one of these by its sign
(RTZ), or the nearest, an even one of two (RNE). -/
def isIntRounding (mode : Nat) (neg : Bool) (m : Nat) (e : Int) (r : Int) : Prop :=
  let u := min e 0
  let x := inUnits u neg m e
  let one := inUnits u false 1 0
  (mode = 2 ∨ (mode = 1 ∧ neg = false) → r * one ≤ x ∧ x < (r + 1) * one) ∧
  (mode = 3 ∨ (mode = 1 ∧ neg = true) → (r - 1) * one < x ∧ x ≤ r * one) ∧
  (mode = 0 → 2 * (r * one - x).natAbs ≤ one.natAbs ∧ (2 * (r * one - x).natAbs = one.natAbs → r % 2 = 0))

/-- Conversions: floating to floating rounds the value, an infinity staying one and becoming NaN, or with SAT the greatest finite value, in a format without
one; floating to integer rounds to an integer and saturates, a NaN giving 0; integer to floating rounds; integer to integer keeps the low
bits, or with SAT clamps (01 R23). -/
def Clauses.Conversions : Prop :=
  ∀ (mode : Nat) (sat : Bool) (b : Nat), mode < 4 →
    (∀ f ∈ [f32, f16, bf16, e5m2, e4m3, e2m1], ∀ g ∈ [f32, f16, bf16, e5m2, e4m3, e2m1],
      convert (.flt f) (.flt g) mode sat b = match fdec f b with
        | .nan => g.nan
        | .inf neg => match g.inf with
          | some i => withSign g neg i
          | none => if sat then withSign g neg g.maxF else g.nan
        | .num neg m e => fround g mode sat neg m e) ∧
    (∀ f ∈ [f32, f16, bf16, e5m2, e4m3, e2m1], ∀ (n : Nat) (sg : Bool), 1 ≤ n → n ≤ 64 →
      let lo : Int := if sg then -(2 ^ (n - 1)) else 0
      let hi : Int := if sg then 2 ^ (n - 1) - 1 else 2 ^ n - 1
      let low := fun (x : Int) => (BitVec.ofInt n x).toNat
      match fdec f b with
      | .nan => convert (.flt f) (.int n sg) mode sat b = 0
      | .inf neg => convert (.flt f) (.int n sg) mode sat b = low (if neg then lo else hi)
      | .num neg m e => ∃ r, isIntRounding mode neg m e r ∧ convert (.flt f) (.int n sg) mode sat b = low (max lo (min hi r))) ∧
    (∀ (n k : Nat) (sg sg' : Bool), 1 ≤ n → n ≤ 64 → 1 ≤ k → k ≤ 64 →
      let x : Int := if sg then (BitVec.ofNat n b).toInt else (BitVec.ofNat n b).toNat
      let lo : Int := if sg' then -(2 ^ (k - 1)) else 0
      let hi : Int := if sg' then 2 ^ (k - 1) - 1 else 2 ^ k - 1
      (∀ g, convert (.int n sg) (.flt g) mode sat b = fround g mode sat (decide (x < 0)) x.natAbs 0) ∧
      convert (.int n sg) (.int k sg') mode sat b = (BitVec.ofInt k (if sat then max lo (min hi x) else x)).toNat)

/-- A floating result is the exact one rounded once by its rounding mode, with its sign, and overflows as its format says; the exact sums and
products, the quotients and roots, the extremes and classes and the conversions are those of the manual (01, 05). -/
def Obligations.RoundsOnce : Prop :=
  Clauses.RoundsOnce ∧ Clauses.Overflows ∧ Clauses.RoundedSign ∧ Clauses.ExactSums ∧ Clauses.QuotientsAndRoots ∧ Clauses.ExtremesAndClasses ∧
    Clauses.Conversions

/-- A class 4 word of two operands with a rounded value. -/
def FloatBin (mk : Fields → Instr) (g : FFmt → Nat → Bool → FVal → FVal → Nat) : Prop :=
  Computes mk fun f =>
    let t := if f.w.fn.extractLsb' 3 2 = 0 then f32 else if f.w.fn.extractLsb' 3 2 = 1 then f16 else bf16
    BitVec.ofNat 64 (g t (f.w.fn.extractLsb' 0 2).toNat (f.w.fn.getLsbD 2) (fdec t f.a.value.toNat) (fdec t f.b.value.toNat))

/-- A class 4 word of one operand with a rounded value. -/
def FloatUn (mk : Fields → Instr) (g : FFmt → Nat → Bool → FVal → Nat) : Prop :=
  FloatBin mk fun t r z x _ => g t r z x

/-- A class 4 word whose result is picked from its operands' patterns. -/
def FloatBits (mk : Fields → Instr) (g : FFmt → Nat → Nat → Nat) : Prop :=
  Computes mk fun f =>
    let t := if f.w.fn.extractLsb' 3 2 = 0 then f32 else if f.w.fn.extractLsb' 3 2 = 1 then f16 else bf16
    BitVec.ofNat 64 (g t (f.a.value.toNat % 2 ^ t.width) (f.b.value.toNat % 2 ^ t.width))

/-- The rounding words of class 4, the special functions, and the words that do not round: each sends the value of Tables 5.1 and 5.2 in
the format, mode and SAT of FN; a comparison with a NaN is false but for FCMPUN; that the values of FEXP2, FLOG2, FTANH, FSIN and FCOS are those
of the model's own series is its reading (log 63) (05 R142 to R147). -/
def Obligations.FloatWords : Prop :=
  FloatBin .fadd (fun t r z x y => fenc t r z (addV r x y)) ∧ FloatBin .fsub (fun t r z x y => fenc t r z (addV r x (negV y))) ∧
  FloatBin .fmul (fun t r z x y => fenc t r z (mulV x y)) ∧ FloatBin .fdiv fdivV ∧
  Computes .ffma (fun f => BitVec.ofNat 64 (fenc (fpFmt f) (fpMode f) (fpSat f)
    (addV (fpMode f) (mulV (fv (fpFmt f) f.a) (fv (fpFmt f) f.b)) (fv (fpFmt f) f.c)))) ∧
  Computes .ffms (fun f => BitVec.ofNat 64 (fenc (fpFmt f) (fpMode f) (fpSat f)
    (addV (fpMode f) (mulV (fv (fpFmt f) f.a) (fv (fpFmt f) f.b)) (negV (fv (fpFmt f) f.c))))) ∧
  FloatUn .frcp (fun t r z x => fdivV t r z (.num false 1 0) x) ∧ FloatUn .frsq frsqV ∧ FloatUn .fsqrt fsqrtV ∧ FloatUn .fexp2 fexp2V ∧
  FloatUn .flog2 flog2V ∧ FloatUn .ftanh ftanhV ∧ FloatUn .fsin fsinV ∧ FloatUn .fcos fcosV ∧
  FloatUn .frnd (fun t r z x => match x with
    | .num n m e => fround t r z n (roundInt r n m e) 0
    | .inf n => encInf t z n
    | .nan => t.nan) ∧
  Computes .fscale (fun f =>
    let t := fpFmt f
    BitVec.ofNat 64 (match fv t f.a with
      | .num n m e => fround t (fpMode f) (fpSat f) n m (e + (f.b.value.setWidth 32).toInt)
      | .inf n => encInf t (fpSat f) n
      | .nan => t.nan)) ∧
  Computes .fgete (fun f => match fv (fpFmt f) f.a with
    | .num _ 0 _ => BitVec.ofInt 64 (-(2 ^ 31))
    | .num _ m e => BitVec.ofInt 64 (e + Nat.log2 m)
    | _ => BitVec.ofInt 64 (2 ^ 31 - 1)) ∧
  FloatBits .fabs (fun t x _ => if (fdec t x).isNan then t.nan else x % 2 ^ (t.width - 1)) ∧
  FloatBits .fneg (fun t x _ => if (fdec t x).isNan then t.nan else x ^^^ 2 ^ (t.width - 1)) ∧
  FloatBits .fcpys (fun t x y => if (fdec t x).isNan then t.nan else x % 2 ^ (t.width - 1) + y / 2 ^ (t.width - 1) * 2 ^ (t.width - 1)) ∧
  FloatBits .fmin (fun t x y => fminmax t false x y) ∧ FloatBits .fmax (fun t x y => fminmax t true x y) ∧
  FloatBits .fclass (fun t x _ => fclassV t (fdec t x)) ∧
  FloatBits .fcmpeq (fun t x y => if fcmp (fdec t x) (fdec t y) = some .eq then 1 else 0) ∧
  FloatBits .fcmplt (fun t x y => if fcmp (fdec t x) (fdec t y) = some .lt then 1 else 0) ∧
  FloatBits .fcmple (fun t x y => if fcmp (fdec t x) (fdec t y) = some .lt ∨ fcmp (fdec t x) (fdec t y) = some .eq then 1 else 0) ∧
  FloatBits .fcmpun (fun t x y => if (fdec t x).isNan ∨ (fdec t y).isNan then 1 else 0) ∧
  Computes .cvtf (fun f => extFmt (fmtOf (dstCode f.w))
    (convert (fmtOf (srcCode f.w)) (fmtOf (dstCode f.w)) (fpMode f) (fpSat f) f.a.value.toNat)) ∧
  Computes .cvtfi (fun f => extFmt (fmtOf (dstCode f.w))
    (convert (fmtOf (srcCode f.w)) (fmtOf (dstCode f.w)) (fpMode f) true f.a.value.toNat)) ∧
  Computes .cvtif (fun f => extFmt (fmtOf (dstCode f.w))
    (convert (fmtOf (srcCode f.w)) (fmtOf (dstCode f.w)) (fpMode f) (fpSat f) f.a.value.toNat))

/-- The width of a lane: 8, 16, 32 or 64 bits by FN[1:0] (05 R149). -/
def laneBits (w : Fields) : Nat := 8 * 2 ^ (w.fn.extractLsb' 0 2).toNat

/-- A lane word: lane i of the one DATA it sends, of width `n`, is `g` of the operands and i, for each of `k` lanes; the rest is 0. -/
def LaneWise (mk : Fields → Instr) (n k : Fields → Nat) (g : (f : Fire) → (i : Nat) → BitVec (n f.w)) : Prop :=
  ∀ (sp : OpSpec) (w : Fields) (s : State) (f : Fire), specOf (mk w) = some sp → Plain sp w s f →
    ∃ v : Word, (∀ i, i < k w → v.extractLsb' (n f.w * i) (n f.w) = g f i) ∧ v.toNat < 2 ^ (n w * k w) ∧
      ∀ hw, out f s.hw v = .ok hw → exec (mk w) s = .next (fired f s hw)

/-- A lane word of two operands, lane by lane. -/
def LaneBin (mk : Fields → Instr) (g : (n : Nat) → BitVec n → BitVec n → BitVec n) : Prop :=
  LaneWise mk laneBits (fun w => 64 / laneBits w) fun f i =>
    g _ (f.a.value.extractLsb' (laneBits f.w * i) _) (f.b.value.extractLsb' (laneBits f.w * i) _)

/-- The lane-wise integer words (05 R150, R151, Table 5.4). -/
def Clauses.LaneWords : Prop :=
  LaneBin .vadd (fun _ x y => x + y) ∧ LaneBin .vsub (fun _ x y => x - y) ∧ LaneBin .vmul (fun _ x y => x * y) ∧
  LaneBin .vmulh (fun n x y => (x.signExtend (2 * n) * y.signExtend (2 * n)).extractLsb' n n) ∧
  LaneBin .vadds (fun n x y => if BitVec.saddOverflow x y then (if x.msb then BitVec.intMin n else BitVec.intMax n) else x + y) ∧
  LaneBin .vsubs (fun n x y => if BitVec.ssubOverflow x y then (if x.msb then BitVec.intMin n else BitVec.intMax n) else x - y) ∧
  LaneBin .vmin (fun _ x y => if x.slt y then x else y) ∧ LaneBin .vmax (fun _ x y => if x.slt y then y else x) ∧
  LaneBin .vavg (fun n x y => ((x.signExtend (n + 2) + y.signExtend (n + 2) + 1).sshiftRight 1).setWidth n) ∧
  LaneBin .vshl (fun n x y => if n ≤ y.toNat then 0 else x <<< y.toNat) ∧
  LaneBin .vshr (fun n x y => if n ≤ y.toNat then 0 else x >>> y.toNat) ∧
  LaneBin .vsar (fun n x y => if n ≤ y.toNat then (if x.msb then BitVec.allOnes n else 0) else x.sshiftRight y.toNat) ∧
  LaneBin .vcmpeq (fun n x y => if x = y then BitVec.allOnes n else 0) ∧
  LaneBin .vcmplt (fun n x y => if x.slt y then BitVec.allOnes n else 0) ∧
  Computes .vsel (fun f => (f.a.value &&& f.c.value) ||| (f.b.value &&& ~~~f.c.value)) ∧
  LaneWise .vsplat laneBits (fun w => 64 / laneBits w) (fun f _ => f.a.value.extractLsb' 0 _) ∧
  LaneWise .vshuf (fun _ => 8) (fun _ => 8) (fun f i =>
    if f.b.value.getLsbD (8 * i + 7) then 0 else f.a.value.extractLsb' (8 * (f.b.value.extractLsb' (8 * i) 3).toNat) 8) ∧
  LaneWise .vpack (fun w => laneBits w / 2) (fun w => 2 * (64 / laneBits w)) (fun f i =>
    let n := laneBits f.w
    let src := if i < 64 / n then f.a.value else f.b.value
    let x : BitVec n := src.extractLsb' (n * (i % (64 / n))) n
    if f.w.fn.getLsbD 2 then
      (if x.toInt < -(2 ^ (n / 2 - 1)) then BitVec.intMin _ else if 2 ^ (n / 2 - 1) ≤ x.toInt then BitVec.intMax _ else x.setWidth _)
    else x.setWidth _) ∧
  LaneWise .vunpkl (fun w => 2 * laneBits w) (fun w => 64 / laneBits w / 2) (fun f i =>
    (f.a.value.extractLsb' (laneBits f.w * i) (laneBits f.w)).signExtend _) ∧
  LaneWise .vunpkh (fun w => 2 * laneBits w) (fun w => 64 / laneBits w / 2) (fun f i =>
    (f.a.value.extractLsb' (laneBits f.w * (64 / laneBits f.w / 2 + i)) (laneBits f.w)).signExtend _) ∧
  Computes .vredadd (fun f =>
    ((List.range (64 / laneBits f.w)).foldl (fun (x : BitVec (laneBits f.w)) i => x + f.a.value.extractLsb' (laneBits f.w * i) _) 0).signExtend 64) ∧
  Computes .vredmax (fun f => ((List.range (64 / laneBits f.w)).foldl (fun (x : BitVec (laneBits f.w)) i =>
    let y := f.a.value.extractLsb' (laneBits f.w * i) _
    if x.slt y then y else x) (f.a.value.extractLsb' 0 _)).signExtend 64) ∧
  Computes .vredmin (fun f => ((List.range (64 / laneBits f.w)).foldl (fun (x : BitVec (laneBits f.w)) i =>
    let y := f.a.value.extractLsb' (laneBits f.w * i) _
    if y.slt x then y else x) (f.a.value.extractLsb' 0 _)).signExtend 64)

/-- The format of a floating lane: BF16 with .L16, F32 with .L32 (05 R149). -/
def laneFmt (w : Fields) : FFmt := if laneBits w = 16 then bf16 else f32

/-- The floating lane words round to nearest, once for each lane; VCVT converts each lane; VDOT adds the products of the lanes of A and
B to C: exactly for .L8 and .L16, wrapped to 32 or 64 bits, and for .L32 each product, their sum and the last sum rounded
(05 R153, R154). -/
def Clauses.FloatLaneWords : Prop :=
  let x := fun (f : Fire) (t : Token) (i : Nat) => fdec (laneFmt f.w) (t.value.extractLsb' (laneBits f.w * i) (laneBits f.w)).toNat
  let n := fun (w : Fields) => 64 / laneBits w
  let sat := fun (f : Fire) => f.w.fn.getLsbD 2
  LaneWise .vfadd laneBits n (fun f i => BitVec.ofNat _ (fenc (laneFmt f.w) 0 (sat f) (addV 0 (x f f.a i) (x f f.b i)))) ∧
  LaneWise .vfmul laneBits n (fun f i => BitVec.ofNat _ (fenc (laneFmt f.w) 0 (sat f) (mulV (x f f.a i) (x f f.b i)))) ∧
  LaneWise .vfma laneBits n (fun f i =>
    BitVec.ofNat _ (fenc (laneFmt f.w) 0 (sat f) (addV 0 (mulV (x f f.a i) (x f f.b i)) (x f f.c i)))) ∧
  LaneWise .vfmax laneBits n (fun f i => BitVec.ofNat _ (fminmax (laneFmt f.w) true
    (f.a.value.extractLsb' (laneBits f.w * i) (laneBits f.w)).toNat (f.b.value.extractLsb' (laneBits f.w * i) (laneBits f.w)).toNat)) ∧
  LaneWise .vcvt (fun w => (fmtOf (dstCode w)).width)
    (fun w => 64 / max (fmtOf (srcCode w)).width (fmtOf (dstCode w)).width) (fun f i =>
      BitVec.ofNat _ (convert (fmtOf (srcCode f.w)) (fmtOf (dstCode f.w)) 0 (sat f)
        (f.a.value.extractLsb' ((fmtOf (srcCode f.w)).width * i) (fmtOf (srcCode f.w)).width).toNat)) ∧
  Computes .vdot (fun f =>
    if laneBits f.w = 8 then
      ((List.range 8).foldl (fun (z : BitVec 32) i =>
        z + (f.a.value.extractLsb' (8 * i) 8).signExtend 32 * (f.b.value.extractLsb' (8 * i) 8).signExtend 32) (f.c.value.setWidth 32)).signExtend 64
    else if laneBits f.w = 16 then
      (List.range 4).foldl (fun (z : Word) i =>
        z + (f.a.value.extractLsb' (16 * i) 16).signExtend 64 * (f.b.value.extractLsb' (16 * i) 16).signExtend 64) f.c.value
    else
      let t := fun (p : Nat) (u : Token) => if omToken f.w.om.toNat p then u.value
        else if f.w.om = 4 then (if p = 1 then f.w.k.extractLsb' 0 24 else f.w.k.extractLsb' 24 24).setWidth 64 else f.w.k.setWidth 64
      let l := fun (v : Word) (i : Nat) => fdec f32 (v.extractLsb' (32 * i) 32).toNat
      let pr := fun (i : Nat) => fdec f32 (fenc f32 0 (sat f) (mulV (l (t 0 f.a) i) (l (t 1 f.b) i)))
      BitVec.ofNat 64 (fenc f32 0 (sat f) (addV 0 (fdec f32 (fenc f32 0 (sat f) (addV 0 (pr 0) (pr 1)))) (l (t 2 f.c) 0))))

/-- The lane words work lane by lane, integer and floating (05). -/
def Obligations.LaneWords : Prop :=
  Clauses.LaneWords ∧ Clauses.FloatLaneWords

/-! ## Passing, steering, nulls, end markers, descriptors, bitmaps and keys (04 R109 to R117, 05 R155 to R158) -/

/-- A word that meets END and NULL in its own words answers, where its operands satisfy `c`, with what `g` sends. -/
def Meets (mk : Fields → Instr) (c : Fire → State → Prop) (g : Fire → State → Except Stop Hw) : Prop :=
  ∀ (sp : OpSpec) (w : Fields) (s : State) (f : Fire) (hw : Hw), specOf (mk w) = some sp → Live sp w s f → c f s →
    g f s = .ok hw → exec (mk w) s = .next (fired f s hw)

/-- A word that meets END and NULL in its own words freezes its element where its operands satisfy `c`. -/
def MeetsFault (mk : Fields → Instr) (c : Fire → State → Prop) (code : Nat) (detail : Fire → Nat) : Prop :=
  ∀ (sp : OpSpec) (w : Fields) (s : State) (f : Fire), specOf (mk w) = some sp → Live sp w s f → c f s →
    exec (mk w) s = .next (faulted f s code (detail f))

/-- A token of a firing under its own tag. -/
def asSent (f : Fire) (t : Token) : Token := { t with tag := f.tag }

/-- The positions that tokens stand for: a value is one, a NULL with AUX k is k + 1 empty ones (03 R89). -/
def positions : List Token → List (Option Word)
  | [] => []
  | t :: r => (if t.kind = .null then List.replicate (t.aux.toNat + 1) none else [some t.value]) ++ positions r

/-- The NULL tokens of n empty positions: they stand for n positions, as few tokens as can, the earlier ones with AUX 127 (03 R89). -/
def Clauses.NullRuns : Prop :=
  ∀ (tag : BitVec 20) (n : Nat),
    positions (nulls tag n) = List.replicate n none ∧ (nulls tag n).length = (n + 127) / 128 ∧
    (∀ t ∈ nulls tag n, t.kind = .null ∧ t.tag = tag ∧ t.psn = false) ∧
    (∀ i t, (nulls tag n)[i]? = some t → i + 1 < (nulls tag n).length → t.aux = 127)

/-- What MOV, CONST, FAN, STEER, MERGE, GATE and SINK send, for values, NULLs, ENDs and every control token (04 R109 to R113,
Tables 4.3, 4.4). -/
def Obligations.SteeringWords : Prop :=
  let isE := fun (t : Token) => t.kind = Kind.endm
  let isN := fun (t : Token) => t.kind = Kind.null
  let nOf := fun (f : Fire) => if f.a.kind = .null then asSent f f.a else tokOf f .null
  Meets .mov (fun _ _ => True) (fun f s => emitAll f s.hw [asSent f f.a]) ∧
  Computes .const (fun f => f.w.k.signExtend 64) ∧
  Meets .const (fun f _ => isN f.a) (fun f s => emitAll f s.hw [tokOf f .null 0 false f.a.aux]) ∧
  Meets .const (fun f _ => isE f.a) (fun f s => emitAll f s.hw [tokOf f .endm 0 false f.a.aux f.a.rank]) ∧
  Meets .fan (fun f _ => isE f.a) (fun f s => emitAll f s.hw [asSent f f.a]) ∧
  Meets .fan (fun f _ => isN f.a) (fun f s => emitAll f s.hw (nulls f.tag (f.w.k.toNat * (f.a.aux.toNat + 1)))) ∧
  Meets .fan (fun f _ => ¬ isE f.a ∧ ¬ isN f.a) (fun f s => emitAll f s.hw (List.replicate f.w.k.toNat (asSent f f.a))) ∧
  Meets .steer (fun f _ => isE f.a) (fun f s => emitAll f s.hw [asSent f f.a]) ∧
  Meets .steer (fun f _ => ¬ isE f.a ∧ isN f.p) (fun f s => emitAll f s.hw [nOf f]) ∧
  Meets .steer (fun f _ => ¬ isE f.a ∧ ¬ isN f.p ∧ f.p.psn = true) (fun f s => emitAll f s.hw [tokOf f .data 0 true]) ∧
  Meets .steer (fun f _ => ¬ isE f.a ∧ ¬ isN f.p ∧ f.p.psn = false ∧ f.p.value.getLsbD 0 = true) (fun f s => do
    let hw ← emit0 f s.hw [asSent f f.a]
    emit1 f hw [nOf f]) ∧
  Meets .steer (fun f _ => ¬ isE f.a ∧ ¬ isN f.p ∧ f.p.psn = false ∧ f.p.value.getLsbD 0 = false) (fun f s => do
    let hw ← emit0 f s.hw [nOf f]
    emit1 f hw [asSent f f.a]) ∧
  Meets .merge (fun f _ => anyEnd f.data = false ∧ isN f.a ∧ ¬ isN f.b) (fun f s => emitAll f s.hw [asSent f f.b]) ∧
  Meets .merge (fun f _ => anyEnd f.data = false ∧ ¬ (isN f.a ∧ ¬ isN f.b)) (fun f s => emitAll f s.hw [asSent f f.a]) ∧
  Meets .merge (fun f _ => isE f.a ∧ isE f.b ∧ f.a.rank = f.b.rank ∧ f.a.aux = f.b.aux)
    (fun f s => emitAll f s.hw [tokOf f .endm 0 false f.a.aux f.a.rank]) ∧
  MeetsFault .merge (fun f _ => (isE f.a ∨ isE f.b) ∧ ¬ (isE f.a ∧ isE f.b ∧ f.a.rank = f.b.rank ∧ f.a.aux = f.b.aux)) cILLFIELD (fun _ => 6) ∧
  Meets .gate (fun f _ => isE f.a ↔ isE f.b) (fun f s => emitAll f s.hw [asSent f f.a]) ∧
  MeetsFault .gate (fun f _ => ¬ (isE f.a ↔ isE f.b)) cILLFIELD (fun _ => 6) ∧
  Meets .sink (fun _ _ => True) (fun _ s => .ok s.hw)

/-- What NULLGEN, ISNULL, COALESCE, SKIP, ENDM, ENDRANK and PACKT send (04 R114 to R117). -/
def Clauses.NullAndEndWords : Prop :=
  let isE := fun (t : Token) => t.kind = Kind.endm
  let isN := fun (t : Token) => t.kind = Kind.null
  let q := fun (f : Fire) => f.w.xf.extractLsb' 0 2
  let close := fun (f : Fire) (c : BitVec 7) => tokOf f .endm 0 false c (q f)
  Meets .nullgen (fun f _ => isE f.a) (fun f s => emitAll f s.hw [asSent f f.a]) ∧
  Meets .nullgen (fun f _ => ¬ isE f.a) (fun f s => emitAll f s.hw [tokOf f .null 0 false (f.w.k.setWidth 7)]) ∧
  Meets .isnull (fun f _ => isE f.a) (fun f s => emitAll f s.hw [asSent f f.a]) ∧
  Meets .isnull (fun f _ => isN f.a) (fun f s => emitAll f s.hw (List.replicate (f.a.aux.toNat + 1) (tokOf f .data 1))) ∧
  Meets .isnull (fun f _ => ¬ isE f.a ∧ ¬ isN f.a) (fun f s => out f s.hw 0) ∧
  Meets .coalesce (fun f _ => isN f.a) (fun f s =>
    emitAll f s.hw (List.replicate (f.a.aux.toNat + 1) (tokOf f .data (f.w.k.signExtend 64)))) ∧
  Meets .coalesce (fun f _ => ¬ isN f.a) (fun f s => emitAll f s.hw [asSent f f.a]) ∧
  Meets .skip (fun f _ => isE f.a ∨ isN f.a) (fun f s => emitAll f s.hw [asSent f f.a]) ∧
  Meets .skip (fun f _ => ¬ isE f.a ∧ ¬ isN f.a ∧ f.a.psn = true) (fun f s => emitAll f s.hw [tokOf f .data 0 true]) ∧
  Meets .skip (fun f _ => ¬ isE f.a ∧ ¬ isN f.a ∧ f.a.psn = false ∧ f.a.value ≤ 65536)
    (fun f s => emitAll f s.hw (nulls f.tag f.a.value.toNat)) ∧
  MeetsFault .skip (fun f _ => ¬ isE f.a ∧ ¬ isN f.a ∧ f.a.psn = false ∧ 65536 < f.a.value) cILLFIELD
    (fun f => 10 + f.a.value.toNat % 2 ^ 48 * 2 ^ 16) ∧
  Meets .endm (fun f _ => ¬ isE f.a ∨ f.a.rank < q f) (fun f s => emitAll f s.hw [close f 0]) ∧
  Meets .endm (fun f _ => isE f.a ∧ q f < f.a.rank) (fun f s => emitAll f s.hw [{ asSent f f.a with psn := false }]) ∧
  Meets .endm (fun f _ => isE f.a ∧ f.a.rank = q f ∧ f.a.aux < 127) (fun f s => emitAll f s.hw [close f (f.a.aux + 1)]) ∧
  Meets .endm (fun f _ => isE f.a ∧ f.a.rank = q f ∧ f.a.aux = 127) (fun f s => emitAll f s.hw [close f 127, close f 0]) ∧
  Meets .endrank (fun _ _ => True) (fun f s => do
    let hw ← emit0 f s.hw [asSent f f.a]
    emit1 f hw [tokOf f .data (if f.a.kind = .endm ∧ q f ≤ f.a.rank then f.a.aux.setWidth 64 + 1 else 0)]) ∧
  Meets .packt (fun _ _ => True) (fun f s => do
    let hw ← emit0 f s.hw [tokOf f .data f.a.value (f.a.psn && (f.a.kind == .data || f.a.kind == .paddr))]
    emit1 f hw [tokOf f .data ((BitVec.ofBool f.a.psn ++ f.a.aux ++ f.a.rank ++ Kind.code f.a.kind).setWidth 64)])

/-- The NULL tokens of a run of empty positions, and the words on NULL and END (03 R89, 04 R114 to R117). -/
def Obligations.NullAndEndWords : Prop :=
  Clauses.NullRuns ∧ Clauses.NullAndEndWords

/-- PFXC sends the running offset and the next one, a NULL or an END of A passing in the first's place; ISECT turns the common bits of two
bitmaps into their count and then a stream of 64 positions; DIGIT takes a digit of a key in the selected bin, else a NULL; OBT and OBTI
map each lane; that a poisoned digit specification out of range faults is the model's choice (log 68), and so are the order of the two targets'
tokens where both name one continuation (log 91) and of a NULL beside poison in ISECT (log 70) (05 R155 to R158). -/
def Clauses.SparseWords : Prop :=
  let isV := fun (t : Token) => t.kind = Kind.data ∨ t.kind = Kind.paddr
  let pop := fun (v : Word) => BitVec.ofNat 64 (countBits 64 fun i => v.getLsbD i)
  Meets .pfxc (fun f _ => isV f.a ∧ f.b.kind = .data) (fun f s => do
    let hw ← emit0 f s.hw [tokOf f .data f.b.value f.psn]
    emit1 f hw [tokOf f .data (f.b.value + pop f.a.value) f.psn]) ∧
  Meets .pfxc (fun f _ => (f.a.kind = .null ∨ f.a.kind = .endm) ∧ f.b.kind = .data) (fun f s => do
    let hw ← emit0 f s.hw [{ asSent f f.a with psn := false }]
    emit1 f hw [tokOf f .data f.b.value f.psn]) ∧
  (∀ (w : Fields) (s : State) (f : Fire), Plain specIsect w s f → f.psn = false →
    ∃ ts : List Token,
      positions ts = (List.range 64).map (fun j => if f.a.value.getLsbD j && f.b.value.getLsbD j then
        some (BitVec.ofNat 64 (j + countBits j (fun i => f.a.value.getLsbD i) * 2 ^ 8 + countBits j (fun i => f.b.value.getLsbD i) * 2 ^ 16))
        else none) ∧
      (∀ i t u, ts[i]? = some t → ts[i + 1]? = some u → ¬ (t.kind = .null ∧ u.kind = .null)) ∧
      (∀ t ∈ ts, t.tag = f.tag ∧ t.psn = false ∧ (t.kind = .null ∨ t.kind = .data)) ∧
      ∀ hw hw', emit1 f s.hw [tokOf f .data (pop (f.a.value &&& f.b.value))] = .ok hw → emit0 f hw ts = .ok hw' →
        exec (.isect w) s = .next (fired f s hw')) ∧
  Meets .isect (fun f _ => anyEnd f.data = false ∧ f.a.kind = .null ∧ f.b.kind = .null ∧ f.a.aux = f.b.aux) (fun f s => do
    let hw ← emit1 f s.hw (List.replicate (f.a.aux.toNat + 1) (tokOf f .data 0))
    emit0 f hw (nulls f.tag (64 * (f.a.aux.toNat + 1)))) ∧
  Meets .isect (fun f _ => anyEnd f.data = false ∧ f.a.kind ≠ .null ∧ f.b.kind ≠ .null ∧ f.psn = true) (fun f s => do
    let hw ← emit1 f s.hw [tokOf f .data 0 true]
    emit0 f hw [tokOf f .data 0 true]) ∧
  Acts .digit (fun f _ =>
      let n := laneBits f.w
      let p := f.b.value.toNat % 64
      let d := f.b.value.toNat / 256 % 16
      1 ≤ d ∧ d ≤ 8 ∧ p + d ≤ n ∧ (tokPsn f.a = true ∨ f.a.value.toNat % 2 ^ n / 2 ^ (p + d) = f.c.value.toNat % 2 ^ n / 2 ^ (p + d)))
    (fun f s => out f s.hw ((f.a.value >>> (f.b.value.toNat % 64)) &&& BitVec.ofNat 64 (2 ^ (f.b.value.toNat / 256 % 16) - 1))) ∧
  Acts .digit (fun f _ =>
      let n := laneBits f.w
      let p := f.b.value.toNat % 64
      let d := f.b.value.toNat / 256 % 16
      1 ≤ d ∧ d ≤ 8 ∧ p + d ≤ n ∧ tokPsn f.a = false ∧
        f.a.value.toNat % 2 ^ n / 2 ^ (p + d) ≠ f.c.value.toNat % 2 ^ n / 2 ^ (p + d))
    (fun f s => emitAll f s.hw [tokOf f .null]) ∧
  Faults .digit (fun f _ => let d := f.b.value.toNat / 256 % 16; ¬ (1 ≤ d ∧ d ≤ 8 ∧ f.b.value.toNat % 64 + d ≤ laneBits f.w)) cILLFIELD
    (fun f => 10 + 1 * 2 ^ 5 + f.b.value.toNat % 2 ^ 48 * 2 ^ 16) ∧
  (∀ g ∈ [(9, 1, f16), (10, 1, bf16), (8, 2, f32)],
    Acts .obt (fun f _ => f.b.value = BitVec.ofNat 64 g.1 ∧ f.w.fn = BitVec.ofNat 5 g.2.1)
      (fun f s => out f s.hw (lanes g.2.2.width fun i => obtKey g.2.2 (lane g.2.2.width f.a.value i))) ∧
    Acts .obti (fun f _ => f.b.value = BitVec.ofNat 64 g.1 ∧ f.w.fn = BitVec.ofNat 5 g.2.1)
      (fun f s => out f s.hw (lanes g.2.2.width fun i => obtVal g.2.2 (lane g.2.2.width f.a.value i))))

/-- The key of OBT orders values as numbers, -0 below +0 and NaN above all, and OBTI gives back the value, a NaN as the canonical
one (01 R33). -/
def Clauses.KeysOrderValues : Prop :=
  ∀ g ∈ [f32, f16, bf16], ∀ x y : Nat, x < 2 ^ g.width → y < 2 ^ g.width →
    ((fdec g x).isNan = false → (fdec g y).isNan = false → (obtKey g x < obtKey g y ↔ fless (fdec g x) (fdec g y) = true)) ∧
    ((fdec g x).isNan = true → obtKey g x = g.nan + 2 ^ (g.width - 1)) ∧
    ((fdec g x).isNan = false → (fdec g y).isNan = true → obtKey g x < obtKey g y) ∧
    obtVal g (obtKey g x) = (if (fdec g x).isNan then g.nan else x)

/-- PFXC, ISECT, DIGIT, OBT and OBTI, and the order that keys keep (01 R33, 05 R155 to R158). -/
def Obligations.SparseWords : Prop :=
  Clauses.SparseWords ∧ Clauses.KeysOrderValues

/-! ## Channels and tags (04 R118 to R129, 03 R85, R86) -/

/-- What CHSEND, CHRECV, CREDIT, CHOPEN and CHCLOSE do where they complete: a send of any token takes one credit and one send buffer, a receipt takes
the head of the endpoint's buffer under its own tag, a credit goes back to the peer, an opening takes buffers and, as consumer, grants its depth,
a closing ends once nothing is outstanding. CHSEND on a producer without credit waits, as does a CHCLOSE with something outstanding; an endpoint in another state is
an operand fault, a peer of another package or a depth or side out of range one too, and an opening waits while the pool lacks the buffers; which of several
faults of CREDIT and CHOPEN is reported, poisoned or not, is the model's choice (04 R119 to R122, 07 R225, log 67, 68). How
many tokens that left the core its links hold is free (log 72; that the predicate decides beside an END is the model's reading, log 20). -/
def Obligations.ChannelWords : Prop :=
  let n := fun (f : Fire) => (f.w.xf.extractLsb' 0 4).toNat
  let ep := fun (f : Fire) (s : State) => epAt s.hw f.core (n f)
  let sends := fun (w : Fields) (s : State) (f : Fire) => Ready specChsend w s f ∧ f.queued = false ∧ predOf w.pr f.p = .fires
  let me := fun (f : Fire) => (f.site.elem % 32, f.frame, f.site.slot % 4)
  let bad := fun (f : Fire) (s : State) => 12 + n f * 2 ^ 10 + (match (ep f s).state with | .closed => 0 | .producer => 1 | .consumer => 2 | .closing _ => 3) * 2 ^ 8
  (∀ (w : Fields) (s : State) (f : Fire) (hw : Hw), sends w s f → (ep f s).state = .producer → 0 < (ep f s).pcred →
    sendBufferFree s.hw f.core (n f) = true →
    emitAll f (expose { setEp s.hw f.core (n f) { ep f s with pcred := (ep f s).pcred - 1, waiting := (ep f s).waiting.filter fun y => y != me f } with
        chan := s.hw.chan ++ [{ src := (f.core, n f), dst := (ep f s).peer, body := .inl (asSent f f.a), side := siteSide f.site }] } f.core f.site.seq)
      [tokOf f .order] = .ok hw →
    exec (.chsend w) s = .next (fired f s hw)) ∧
  (∀ (hw : Hw) (c k : Nat), ((chanFrom hw c k).filter fun m => m.body.isLeft).length < (epAt hw c k).depth → sendBufferFree hw c k = true) ∧
  (∀ (w : Fields) (s : State) (f : Fire), sends w s f → (ep f s).state = .producer → (ep f s).pcred = 0 →
    ∃ hw, exec (.chsend w) s = .next (held s hw) ∧ (elemAt hw f.site.elem).ops = (elemAt s.hw f.site.elem).ops ∧ hw.chan = s.hw.chan ∧
      hw.net = s.hw.net ∧ me f ∈ (epAt hw f.core (n f)).waiting) ∧
  (∀ (w : Fields) (s : State) (f : Fire), sends w s f → (ep f s).state = .producer → 0 < (ep f s).pcred →
    sendBufferFree s.hw f.core (n f) = false → exec (.chsend w) s = .next (held s s.hw)) ∧
  (∀ (w : Fields) (s : State) (f : Fire), sends w s f → (ep f s).state ≠ .producer → exec (.chsend w) s = .next (faulted f s cILLFIELD (bad f s))) ∧
  (∀ (w : Fields) (s : State) (f : Fire) (hw hw' : Hw), chRecvFire w s.hw = some (f, hw) → dropped s.hw f = false →
    wordFault specChrecv w (frameAt (coreAt s.hw f.core) f.frame).header = none → emitAll f hw [asSent f f.a] = .ok hw' →
    exec (.chrecv w) s = .next (fired f s hw') ∧ f.a.tag = f.tag ∧
      (headAt (elemAt s.hw f.site.elem) f.site.slot f.tag 0 = none →
        (∃ side r, (epAt s.hw f.core (n f)).buf = (f.a, side) :: r ∧ (epAt hw f.core (n f)).buf = r) ∧
        (epAt hw f.core (n f)).debt = (epAt s.hw f.core (n f)).debt + 1)) ∧
  (∀ (w : Fields) (s : State) (f : Fire) (hw : Hw), Ready specCredit w s f → f.queued = false → predOf w.pr f.p = .fires →
    let c := f.b.value.toNat
    1 ≤ c → c ≤ 1024 → ((ep f s).state = .consumer ∨ (ep f s).state = .closing true) → c ≤ (ep f s).debt →
    emitAll f (expose { setEp s.hw f.core (n f) { ep f s with debt := (ep f s).debt - c } with
        chan := s.hw.chan ++ [{ src := (f.core, n f), dst := (ep f s).peer, body := .inr c }] } f.core f.site.seq) [tokOf f .order] = .ok hw →
    exec (.credit w) s = .next (fired f s hw)) ∧
  (∀ (w : Fields) (s : State) (f : Fire), Plain specCredit w s f →
    let c := f.b.value.toNat
    1 ≤ c → c ≤ 1024 → ((ep f s).state = .consumer ∨ (ep f s).state = .closing true) → (ep f s).debt < c →
    exec (.credit w) s = .next (faulted f s cCREDIT (n f + c * 2 ^ 4 + (ep f s).debt * 2 ^ 15))) ∧
  (∀ (w : Fields) (s : State) (f : Fire), Plain specCredit w s f →
    let c := f.b.value.toNat
    ((c = 0 ∨ 1024 < c) → exec (.credit w) s = .next (faulted f s cILLFIELD (10 + 1 * 2 ^ 5 + c % 2 ^ 48 * 2 ^ 16))) ∧
    (1 ≤ c → c ≤ 1024 → (ep f s).state ≠ .consumer → (ep f s).state ≠ .closing true → exec (.credit w) s = .next (faulted f s cILLFIELD (bad f s)))) ∧
  (∀ (w : Fields) (s : State) (f : Fire) (hw : Hw), Plain specChopen w s f → (ep f s).state = .closed →
    let a := f.a.value.toNat
    let d := f.b.value.toNat % 2 ^ 11
    let peer := (a / 2 ^ 12 % 256, a % 16)
    a / 2 ^ 20 = ownLC s.hw → a / 2 ^ 4 % 256 = 0 → 1 ≤ d → d ≤ 1024 → poolUsed s.hw f.core + d ≤ 1024 →
    (f.b.value.toNat = d → emitAll f (expose (setEp s.hw f.core (n f)
        { state := .producer, depth := d, peer := peer, frame := f.frame, opener := f.site.elem, stall := (ep f s).stall
          pcred := (((ep f s).held.filter fun h => (h.1, h.2.1) = peer).map fun h => h.2.2).sum
          granted := (((ep f s).held.filter fun h => (h.1, h.2.1) = peer).map fun h => h.2.2).sum }) f.core f.site.seq) [tokOf f .order] = .ok hw →
      exec (.chopen w) s = .next (fired f s hw)) ∧
    (∀ x, f.b.value.toNat = d + 2 ^ 16 → recvSlots s.hw f.core f.frame (n f) = [x] →
      emitAll f (expose { setEp s.hw f.core (n f)
        { state := .consumer, depth := d, peer := peer, frame := f.frame, opener := f.site.elem, recv := some x, stall := (ep f s).stall } with
          chan := s.hw.chan ++ [{ src := (f.core, n f), dst := peer, body := .inr d }] } f.core f.site.seq) [tokOf f .order] = .ok hw →
      exec (.chopen w) s = .next (fired f s hw))) ∧
  (∀ (w : Fields) (s : State) (f : Fire), Plain specChopen w s f →
    let a := f.a.value.toNat
    let b := f.b.value.toNat
    let d := b % 2 ^ 11
    let aGood := a / 2 ^ 20 = ownLC s.hw ∧ a / 2 ^ 4 % 256 = 0
    let bGood := 1 ≤ d ∧ d ≤ 1024 ∧ (b = d ∨ b = d + 2 ^ 16)
    (¬ aGood → exec (.chopen w) s = .next (faulted f s cILLFIELD (10 + a % 2 ^ 48 * 2 ^ 16))) ∧
    (aGood → ¬ bGood → exec (.chopen w) s = .next (faulted f s cILLFIELD (10 + 1 * 2 ^ 5 + b % 2 ^ 48 * 2 ^ 16))) ∧
    (aGood → bGood → ((ep f s).state ≠ .closed ∨ (b = d + 2 ^ 16 ∧ (recvSlots s.hw f.core f.frame (n f)).length ≠ 1)) →
      exec (.chopen w) s = .next (faulted f s cILLFIELD (bad f s))) ∧
    (aGood → bGood → (ep f s).state = .closed → (b = d + 2 ^ 16 → (recvSlots s.hw f.core f.frame (n f)).length = 1) →
      1024 < poolUsed s.hw f.core + d → exec (.chopen w) s = .next (held s s.hw))) ∧
  (∀ (w : Fields) (s : State) (f : Fire) (side : Bool) (y : Site), Plain specChclose w s f → (ep f s).state = .closing side →
    (ep f s).closer = some y → sameFiring f.site y = true →
    (∀ hw, mayClose s.hw f.core (n f) (ep f s) = true → emitAll f (setEp s.hw f.core (n f) { stall := (ep f s).stall }) [tokOf f .order] = .ok hw →
      exec (.chclose w) s = .next (fired f s hw)) ∧
    (mayClose s.hw f.core (n f) (ep f s) = false → exec (.chclose w) s = .next (held s s.hw))) ∧
  (∀ (w : Fields) (s : State) (f : Fire), Plain specChclose w s f → (ep f s).state = .producer ∨ (ep f s).state = .consumer →
    let x : Endpoint := { ep f s with state := .closing (decide ((ep f s).state = .consumer)), closer := some f.site, waiting := [] }
    let hw0 := expose (setEp s.hw f.core (n f) x) f.core f.site.seq
    (mayClose s.hw f.core (n f) x = false → exec (.chclose w) s = .next (held s hw0)) ∧
    (∀ hw, mayClose s.hw f.core (n f) x = true → emitAll f (setEp hw0 f.core (n f) { stall := x.stall }) [tokOf f .order] = .ok hw →
      exec (.chclose w) s = .next (fired f s hw))) ∧
  (∀ (w : Fields) (s : State) (f : Fire), Plain specChclose w s f → (ep f s).state = .closed →
    exec (.chclose w) s = .next (faulted f s cILLFIELD (bad f s))) ∧
  (∀ (hw : Hw) (c k : Nat) (x : Endpoint), (mayClose hw c k x = true ↔
    (x.state = .closing true ∧ x.buf = [] ∧ x.debt = 0) ∨ (x.state = .closing false ∧ x.pcred = x.granted ∧ chanFrom hw c k = [])))

/-- An allocation takes the lowest free identifier of the pool and is granted at once where nothing waits before it and the core has the
indices left: the space is live, at index 0, with the firing's tag as its parent and its owner (03 R85, R86, 04 R123, R124, 06 R167). -/
def Clauses.TagSpaceGranted : Prop :=
  ∀ (f : Fire) (hw : Hw) (size n : Nat), regionOf hw f.core f.frame = none → (clAt hw (clOf f.core)).allocq = [] →
    coreWaits hw f.core = [] → freeSpaceId hw f.core f.frame = some n → liveIndices hw f.core + size ≤ 16384 →
    ∃ hw' x, allocate f hw size = .ok (n, hw') ∧ spaceOf hw f.core f.frame n = none ∧ 1 ≤ n ∧ n ≤ 0xFEF ∧
      (∀ m, 1 ≤ m → m < n → (spaceOf hw f.core f.frame m).isSome = true) ∧
      (clAt hw' (clOf f.core)).spaces = tins (clAt hw (clOf f.core)).spaces n x ∧ (clAt hw' (clOf f.core)).allocq = [] ∧
      x.size = size ∧ x.cur = 0 ∧ x.parent = f.tag ∧ x.freeing = false ∧ x.core = f.core ∧ x.owner = spaceOwner hw f.core f.frame f.tag ∧
      (∀ k, k ≠ clOf f.core → clAt hw' k = clAt hw k) ∧ hw'.cores = hw.cores ∧ hw'.net = hw.net

/-- A space that TFREE or TRET frees is freeing while an activation under it is uncommitted, and else free; the TNEXTs that wait on it
freeze their elements; stated for the pool of a cluster, which serves the frames of no region (03 R85, R86, 04 R123, R125, R129). -/
def Clauses.SpaceFreed : Prop :=
  ∀ (f : Fire) (hw : Hw) (x : Space) (waits : Option (Site × Token)), regionOf hw f.core f.frame = none →
    spaceOf hw f.core f.frame (tagSpace f.tag) = some x →
    let r := beginFreeing f hw (tagSpace f.tag) x waits
    (spaceActs hw f.core f.frame (tagSpace f.tag) ≠ [] → spaceOf r f.core f.frame (tagSpace f.tag) =
      some { x with freeing := true, tfree := waits, freer := f.site.seq.map fun q => (f.core, q), nexts := [] }) ∧
    (spaceActs hw f.core f.frame (tagSpace f.tag) = [] → spaceOf r f.core f.frame (tagSpace f.tag) = none) ∧
    (∀ y ∈ x.nexts, (headAt (elemAt hw y.1) y.2.1 y.2.2 0).isSome = true → frozen r y.1 = true)

/-- What the tag words do where they complete: TALLOC moves a token into a new space, TCALL sends it there with a link word, TRET sends it
back to the link's continuation and tag and frees the space, TFREE frees it and gives A back under the parent once its last activation has
committed, TNEXT moves to the next index, TSET to a named one, TIDX and TGET answer the index and the tag; an allocation that is not granted
waits (04 R124 to R129; that a NULL on port a is sent as it is is the model's reading, log 61). -/
def Clauses.TagWords : Prop :=
  let sp := fun (f : Fire) => tagSpace f.tag
  let size := fun (f : Fire) => (f.w.xf.extractLsb' 0 8).toNat + 1
  (∀ (w : Fields) (s : State) (f : Fire) (n : Nat) (hw hw' : Hw), Live specTalloc w s f → f.a.kind ≠ .endm →
    allocate f s.hw (size f) = .ok (n, hw) → emitAll f hw [{ f.a with tag := mkTag n 0 }] = .ok hw' →
    exec (.talloc w) s = .next (fired f s hw')) ∧
  (∀ (w : Fields) (s : State) (f : Fire) (hw : Hw), Live specTalloc w s f → f.a.kind ≠ .endm → allocate f s.hw (size f) = .error (.wait hw) →
    exec (.talloc w) s = .next (held s hw)) ∧
  (∀ (w : Fields) (s : State) (f : Fire) (hw : Hw), Live specTcall w s f → anyEnd f.data = false → allocate f s.hw (size f) = .error (.wait hw) →
    exec (.tcall w) s = .next (held s hw)) ∧
  (∀ (w : Fields) (s : State) (f : Fire) (hw : Hw), Live specTalloc w s f → f.a.kind = .endm → emitAll f s.hw [asSent f f.a] = .ok hw →
    exec (.talloc w) s = .next (fired f s hw)) ∧
  (∀ (w : Fields) (s : State) (f : Fire) (x : Space), Live specTfree w s f → anyEnd f.data = false →
    sp f ≠ 0 → isTaskSpace (sp f) = false → spaceOf s.hw f.core f.frame (sp f) = some x → x.freeing = false →
    exec (.tfree w) s = .next (fired f s (beginFreeing f s.hw (sp f) x (some (f.site, f.a))))) ∧
  (∀ (f : Fire) (hw : Hw) (x : Space) (site : Site) (t : Token), spaceOf hw f.core f.frame (sp f) = some x → x.freeing = true → x.tfree = some (site, t) →
    spaceActs hw f.core f.frame (sp f) = [] → settleSpace hw f.core f.frame (sp f) =
      settle (delSpace hw f.core f.frame (sp f)) site (emitBoth (delSpace hw f.core f.frame (sp f)) site [{ t with tag := x.parent }])) ∧
  (∀ (w : Fields) (s : State) (f : Fire) (x : Space) (hw : Hw), Live specTnext w s f → anyEnd f.data = false →
    sp f ≠ 0 → isTaskSpace (sp f) = false → spaceOf s.hw f.core f.frame (sp f) = some x → x.freeing = false → tagIndex f.tag = x.cur →
    (∀ y ∈ spaceActs s.hw f.core f.frame (sp f), ¬ (y.1 = f.core ∧ y.2.tag = mkTag (sp f) ((x.cur + 1) % x.size))) →
    emitAll f (putSpace s.hw f.core f.frame (sp f)
        { x with cur := (x.cur + 1) % x.size, nexts := x.nexts.filter fun y => y != (f.site.elem, f.site.slot, f.tag) })
      [{ f.a with tag := mkTag (sp f) ((x.cur + 1) % x.size) }] = .ok hw →
    exec (.tnext w) s = .next (fired f s hw)) ∧
  Meets .tidx (fun f _ => f.a.kind ≠ .endm) (fun f s => out f s.hw ((f.tag.extractLsb' 0 8).setWidth 64)) ∧
  Meets .tget (fun f _ => f.a.kind ≠ .endm) (fun f s => out f s.hw (f.tag.setWidth 64)) ∧
  Meets .tidx (fun f _ => f.a.kind = .endm) (fun f s => emitAll f s.hw [asSent f f.a]) ∧
  Meets .tget (fun f _ => f.a.kind = .endm) (fun f s => emitAll f s.hw [asSent f f.a]) ∧
  (∀ (w : Fields) (s : State) (f : Fire) (x : Space) (hw : Hw), Live specTset w s f → f.b.kind ≠ .null →
    sp f ≠ 0 → isTaskSpace (sp f) = false → spaceOf s.hw f.core f.frame (sp f) = some x → x.freeing = false → f.b.value.toNat < x.size →
    emitAll f s.hw [{ f.a with tag := mkTag (sp f) f.b.value.toNat, psn := f.a.psn || (f.b.psn && (f.a.kind == .data || f.a.kind == .paddr)) }] = .ok hw →
    exec (.tset w) s = .next (fired f s hw)) ∧
  Meets .tset (fun f s => f.b.kind ≠ .null ∧ f.b.psn = false ∧ (sp f = 0 ∨ isTaskSpace (sp f) = true) ∧
      spaceOf s.hw f.core f.frame (sp f) = none ∧ f.b.value = 0) (fun f s => emitAll f s.hw [{ f.a with tag := mkTag (sp f) 0 }]) ∧
  Meets .tset (fun f _ => f.b.kind = .null) (fun f s => emitAll f s.hw [asSent f f.b]) ∧
  (∀ (w : Fields) (s : State) (f : Fire) (n : Nat) (hw hw1 hw2 : Hw), Live specTcall w s f → anyEnd f.data = false →
    allocate f s.hw (size f) = .ok (n, hw) → emit0 f hw [{ f.a with tag := mkTag n 0 }] = .ok hw1 →
    emitRoute hw1 f.site (siteSrc f.site) (f.w.t0.toNat % 256 + 1) (markTok (siteMarked hw1 f.site) (mkTok 0 (mkTag n 0) .data
      ((f.tag ++ mkCont (ownLC hw) (f.core * 32 + bits f.w.t1.toNat 4 5) (f.frame * 4 + bits f.w.t1.toNat 2 2) (f.w.t1.toNat % 4)).setWidth 64))) = .ok hw2 →
    exec (.tcall w) s = .next (fired f s hw2)) ∧
  (∀ (w : Fields) (s : State) (f : Fire) (x : Space) (hw : Hw), Live specTret w s f → anyEnd f.data = false → f.b.kind = .data →
    spaceOf s.hw f.core f.frame (sp f) = some x → x.freeing = false → f.b.value.toNat < 2 ^ 50 →
    let cont := f.b.value.extractLsb' 0 30
    contLC cont = ownLC s.hw → heldByOther s.hw (contCore cont) (contFrame cont) f.site.asid = false →
    switchViolation s.hw f.site cont = false →
    sendCont s.hw f.site (siteSrc f.site) cont (markTok (siteMarked s.hw f.site) { f.a with tag := f.b.value.extractLsb' 30 20 }) = .ok hw →
    exec (.tret w) s = .next (fired f s (beginFreeing f hw (sp f) x none)))

/-- Where the tag words fault or wait: TFREE, TNEXT, TSET and TRET in a space that is not live, and TNEXT behind or ahead of the current index,
raise cause 11, whose DETAIL gives the tag, the space's state and its current index; TNEXT waits while the next index has an activation
of its core that has not committed; an index of TSET or a link word of TRET out of range is cause 10, a link to another package or into
another's frame is PROTECTION, one into a frame of the region that is not current cause 14 (04 R123 to R129, Table 4.1, 06 R184; the current index
0 of a space that has none is the model's choice, log 69). -/
def Clauses.TagFaults : Prop :=
  let sp := fun (f : Fire) => tagSpace f.tag
  let space := fun (f : Fire) (s : State) => spaceOf s.hw f.core f.frame (sp f)
  let ground := fun (f : Fire) => sp f = 0 ∨ isTaskSpace (sp f) = true
  let liveAt := fun (f : Fire) (s : State) => ¬ ground f ∧ ∃ x, space f s = some x ∧ x.freeing = false
  let code := fun (f : Fire) (s : State) => if ground f then 3 else match space f s with
    | none => 0
    | some x => if x.freeing then 2 else 1
  let cur := fun (f : Fire) (s : State) => match space f s with
    | none => 0
    | some x => x.cur
  let d11 := fun (f : Fire) (s : State) => 11 + f.tag.toNat * 2 ^ 16 + code f s * 2 ^ 36 + cur f s * 2 ^ 40
  (∀ (w : Fields) (s : State) (f : Fire), Live specTfree w s f → anyEnd f.data = false → ¬ liveAt f s →
    exec (.tfree w) s = .next (faulted f s cILLFIELD (d11 f s))) ∧
  (∀ (w : Fields) (s : State) (f : Fire), Live specTnext w s f → anyEnd f.data = false → (¬ liveAt f s ∨ tagIndex f.tag ≠ cur f s) →
    exec (.tnext w) s = .next (faulted f s cILLFIELD (d11 f s))) ∧
  (∀ (w : Fields) (s : State) (f : Fire) (x : Space), Live specTnext w s f → anyEnd f.data = false → ¬ ground f → space f s = some x →
    x.freeing = false → tagIndex f.tag = x.cur →
    (∃ y ∈ spaceActs s.hw f.core f.frame (sp f), y.1 = f.core ∧ y.2.tag = mkTag (sp f) ((x.cur + 1) % x.size)) →
    ∃ hw x', exec (.tnext w) s = .next (held s hw) ∧ spaceOf hw f.core f.frame (sp f) = some x' ∧ (f.site.elem, f.site.slot, f.tag) ∈ x'.nexts ∧
      (∀ y ∈ x'.nexts, y ∈ x.nexts ∨ y = (f.site.elem, f.site.slot, f.tag)) ∧ { x' with nexts := x.nexts } = x ∧
      hw.elems = s.hw.elems ∧ hw.cores = s.hw.cores ∧ hw.net = s.hw.net) ∧
  (∀ (w : Fields) (s : State) (f : Fire), Live specTset w s f → f.b.kind ≠ .null → ¬ ground f → ¬ liveAt f s →
    exec (.tset w) s = .next (faulted f s cILLFIELD (d11 f s))) ∧
  (∀ (w : Fields) (s : State) (f : Fire), Live specTset w s f → f.b.kind ≠ .null →
    ((ground f ∧ space f s = none ∧ f.b.value ≠ 0) ∨ (¬ ground f ∧ ∃ x, space f s = some x ∧ x.freeing = false ∧ x.size ≤ f.b.value.toNat)) →
    exec (.tset w) s = .next (faulted f s cILLFIELD (10 + 1 * 2 ^ 5 + f.b.value.toNat % 2 ^ 48 * 2 ^ 16))) ∧
  (∀ (w : Fields) (s : State) (f : Fire), Live specTret w s f → anyEnd f.data = false →
    (∀ x, space f s = some x → x.freeing = true) → exec (.tret w) s = .next (faulted f s cILLFIELD (d11 f s))) ∧
  (∀ (w : Fields) (s : State) (f : Fire) (x : Space), Live specTret w s f → anyEnd f.data = false → space f s = some x → x.freeing = false →
    let b := f.b.value.toNat
    let cont := f.b.value.extractLsb' 0 30
    ((f.b.kind = .null ∨ 2 ^ 50 ≤ b) → exec (.tret w) s = .next (faulted f s cILLFIELD (10 + 1 * 2 ^ 5 + b % 2 ^ 48 * 2 ^ 16))) ∧
    (f.b.kind ≠ .null → b < 2 ^ 50 → contLC cont ≠ ownLC s.hw → exec (.tret w) s = .next (faulted f s cPROT (b + 1 * 2 ^ 50))) ∧
    (f.b.kind ≠ .null → b < 2 ^ 50 → contLC cont = ownLC s.hw → heldByOther s.hw (contCore cont) (contFrame cont) f.site.asid = true →
      exec (.tret w) s = .next (faulted f s cPROT (b + 2 * 2 ^ 50))) ∧
    (f.b.kind ≠ .null → b < 2 ^ 50 → contLC cont = ownLC s.hw → heldByOther s.hw (contCore cont) (contFrame cont) f.site.asid = false →
      switchViolation s.hw f.site cont = true → exec (.tret w) s = .next (faulted f s cILLFIELD (14 + 2 * 2 ^ 5 + contFrame cont * 2 ^ 8))))

/-- Tag spaces are granted and freed as 03 R85 and R86 say, and the tag words, where they complete, fault and wait (04 R123 to R129). -/
def Obligations.TagWords : Prop :=
  Clauses.TagSpaceGranted ∧ Clauses.SpaceFreed ∧ Clauses.TagWords ∧ Clauses.TagFaults

/-! ## The core's own words (06 R173 to R191) -/

/-- What READ, WRITE, EXIT, EXITX, GETID and CYCLE do where they complete: a read answers what the activation's hold register holds for it, a write
stages it and answers ORDER, an exit counts once, a second one faulting, and names the successor, EXITX looking at B before it looks at its trigger, GETID
answers the place, region, partition or context, CYCLE the core's cycle counter (06 R174, R179, R187 to R189). -/
def Clauses.BlockWords : Prop :=
  (∀ (w : Fields) (s : State) (f : Fire) (v : Word) (p : Bool) (hw : Hw), Plain specRead w s f → f.a.value < 64 →
    readHold s.hw f.site f.a.value.toNat = .ok (v, p) → emitAll f s.hw [tokOf f .data v (p || f.psn)] = .ok hw →
    exec (.read w) s = .next (fired f s hw)) ∧
  Faults .read (fun f _ => 64 ≤ f.a.value) cILLFIELD (fun f => 10 + f.a.value.toNat % 2 ^ 48 * 2 ^ 16) ∧
  (∀ (w : Fields) (s : State) (f : Fire) (v : Word) (p : Bool) (hw : Hw), Plain specReadHoldAtOpen w s f →
    readHold s.hw f.site (w.k.toNat % 64) = .ok (v, p) → emitAll f s.hw [tokOf f .data v p] = .ok hw →
    exec (.readHoldAtOpen w) s = .next (fired f s hw)) ∧
  (∀ (w : Fields) (s : State) (f : Fire) (hw hw' : Hw), Live specWrite w s f → anyEnd f.data = false → f.b.kind ≠ .null → f.b.value < 64 →
    stageWrite s.hw f.site f.b.value.toNat (if f.a.kind = .null then none else some (f.a.value, f.psn)) = .ok hw →
    emitAll f hw [tokOf f .order] = .ok hw' → exec (.write w) s = .next (fired f s hw')) ∧
  (∀ (w : Fields) (s : State) (f : Fire) (hw : Hw), Plain specExit w s f → countExit f s.hw (w.k.signExtend 64) = .ok hw →
    exec (.exit w) s = .next (fired f s hw)) ∧
  (∀ (w : Fields) (s : State) (f : Fire) (hw : Hw), Plain specExitx w s f → f.b.value.toNat < 2 ^ 24 → f.b.psn = false →
    countExit f s.hw f.b.value = .ok hw → exec (.exitx w) s = .next (fired f s hw)) ∧
  (∀ (w : Fields) (s : State) (f : Fire), Live specExit w s f → f.a.kind = .null → exec (.exit w) s = .next (fired f s s.hw)) ∧
  (∀ (w : Fields) (s : State) (f : Fire), Live specExitx w s f → f.b.kind = .null → exec (.exitx w) s = .next (fired f s s.hw)) ∧
  (∀ (w : Fields) (s : State) (f : Fire), Live specExitx w s f → f.b.kind = .data → 2 ^ 24 ≤ f.b.value.toNat →
    exec (.exitx w) s = .next (faulted f s cILLFIELD (10 + 1 * 2 ^ 5 + f.b.value.toNat % 2 ^ 48 * 2 ^ 16))) ∧
  (∀ (w : Fields) (s : State) (f : Fire) (hw : Hw), Live specExitx w s f → f.b.kind = .data → f.b.value.toNat < 2 ^ 24 →
    let marked := if f.b.psn then poisonMark s.hw f.core f.frame f.tag f.site.occ else s.hw
    (f.a.kind = .null → exec (.exitx w) s = .next (fired f s marked)) ∧
    (f.a.kind ≠ .null → countExit f marked f.b.value = .ok hw → exec (.exitx w) s = .next (fired f s hw))) ∧
  (∀ (f : Fire) (s : State) (v : Word) (a : Act), findAct (coreAt s.hw f.core) f.frame f.tag f.site.occ = some a → a.exit = none →
    (isTaskSpace (tagSpace f.tag) = true ∨ v.extractLsb' 0 20 = 0xFFFFF) → ∃ hw, countExit f s.hw v = .ok hw ∧ hw.net = s.hw.net ∧ hw.elems = s.hw.elems ∧
      ∃ pre b post, (coreAt s.hw f.core).acts = pre ++ b :: post ∧ b.seq = a.seq ∧
        (coreAt hw f.core).acts = pre ++ { b with exit := some (v.extractLsb' 0 20, v.extractLsb' 20 4) } :: post ∧
        (v.extractLsb' 0 20 ≠ 0xFFFFF → (ctxAt (coreAt hw f.core) (tagSpace f.tag - 0xFF0)).next = some
          { block := v.extractLsb' 0 20, exit := v.extractLsb' 20 4, srcblk := (frameAt (coreAt s.hw f.core) f.frame).block
            srchnd := (frameAt (coreAt s.hw f.core) f.frame).handle, srcSeq := a.seq })) ∧
  (∀ (f : Fire) (s : State) (v : Word) (a : Act), findAct (coreAt s.hw f.core) f.frame f.tag f.site.occ = some a → a.exit.isSome = true →
    (isTaskSpace (tagSpace f.tag) = true ∨ v.extractLsb' 0 20 = 0xFFFFF) →
    countExit f s.hw v = .error (.fault cILLFIELD (13 + 4 * 2 ^ 5 + f.tag.toNat * 2 ^ 14))) ∧
  (∀ (w : Fields) (s : State) (f : Fire) (hw : Hw), Plain specGetid w s f →
    emitAll f s.hw [tokOf f .data (match w.k.toNat with
      | 0 => (mkCont (ownLC s.hw) f.site.elem f.site.slot 0).setWidth 64
      | 1 => getId s.hw f.site 1
      | 2 => BitVec.ofNat 64 (f.asid.toNat + (partOfAsid s.hw f.asid).getD 0 * 2 ^ 16 +
          (tget s.hw.pkg.parts {} ((partOfAsid s.hw f.asid).getD 0)).gen.toNat * 2 ^ 20)
      | _ => match spaceOwner s.hw f.core f.frame f.tag with
        | some o => BitVec.ofNat 64 o.2
        | none => BitVec.allOnes 64)] = .ok hw → exec (.getid w) s = .next (fired f s hw)) ∧
  (∀ (w : Fields) (s : State) (f : Fire) (hw : Hw), Plain specCycle w s f →
    emitAll f s.hw [tokOf f .data (BitVec.ofNat 64 (s.hw.now - (coreAt s.hw f.core).cycleAt0))] = .ok hw →
    exec (.cycle w) s = .next (fired f s hw))

/-- A hold register is written once by an activation, with the rules of commit accounting: a task tag or a tag that a context
owns, a register of WMASK, an activation that is open and has not written it; then the write is staged and nothing else changes
(06 R168, R170, R193; which subcause goes first is the model's reading, log 48). -/
def Clauses.HoldWriteOnce : Prop :=
  ∀ (hw : Hw) (x : Site) (j : Nat) (v : Word) (p : Bool),
    let c := coreAt hw (coreOf x.elem)
    let tag := x.tag.toNat * 2 ^ 14
    (ownerOf hw (coreOf x.elem) x.frame x.tag = none → stageWrite hw x j (some (v, p)) = .error (.fault cILLFIELD (13 + 2 * 2 ^ 5 + j * 2 ^ 8 + tag))) ∧
    ((ownerOf hw (coreOf x.elem) x.frame x.tag).isSome = true → wmaskBit (frameAt c x.frame).header j = false →
      stageWrite hw x j (some (v, p)) = .error (.fault cILLFIELD (13 + 1 * 2 ^ 5 + j * 2 ^ 8 + tag))) ∧
    (∀ a, (ownerOf hw (coreOf x.elem) x.frame x.tag).isSome = true → wmaskBit (frameAt c x.frame).header j = true →
      findAct c x.frame x.tag x.occ = some a →
      ((tfind a.writes j).isSome = true → stageWrite hw x j (some (v, p)) = .error (.fault cILLFIELD (13 + 4 * 2 ^ 5 + j * 2 ^ 8 + tag))) ∧
      (tfind a.writes j = none → ∃ hw', stageWrite hw x j (some (v, p)) = .ok hw' ∧
        (coreAt hw' (coreOf x.elem)).ctxs = c.ctxs ∧ hw'.net = hw.net ∧ hw'.elems = hw.elems ∧
        ∃ pre b post, c.acts = pre ++ b :: post ∧ b.seq = a.seq ∧
          (coreAt hw' (coreOf x.elem)).acts = pre ++ { b with writes := tins b.writes j (.value v p) } :: post))

/-- What an activation sees of a hold register: a tag that no context owns faults; while an earlier activation of the context that may write it has
not staged it, a wait; else the value that the latest of these staged, or if all staged none, or there is none, what the context holds; an
activation that has not opened waits, and one that has committed sees what the context holds (06 R168, R174, R193). -/
def Clauses.HoldRead : Prop :=
  ∀ (hw : Hw) (x : Site) (j : Nat),
    let c := coreAt hw (coreOf x.elem)
    (ownerOf hw (coreOf x.elem) x.frame x.tag = none →
      readHold hw x j = .error (.fault cILLFIELD (13 + 2 * 2 ^ 5 + j * 2 ^ 8 + x.tag.toNat * 2 ^ 14))) ∧
    (∀ n, ownerOf hw (coreOf x.elem) x.frame x.tag = some n →
      let held := tget (ctxAt c n).hold (0, false) j
      (occAct c x.frame x.tag x.occ = none →
        readHold hw x j = if x.occ < tget c.opened 0 (keyAct x.frame x.tag) then .ok held else .error (.wait hw)) ∧
      (∀ a, occAct c x.frame x.tag x.occ = some a →
        let earlier := c.acts.filter fun b => decide (b.ctx = a.ctx ∧ b.seq < a.seq) && wmaskBit (frameAt c b.frame).header j
        ((∃ b ∈ earlier, tfind b.writes j = none) → readHold hw x j = .error (.wait hw)) ∧
        ((∀ b ∈ earlier, (tfind b.writes j).isSome = true) →
          (∀ pre b post v p, earlier = pre ++ b :: post → tfind b.writes j = some (.value v p) →
            (∀ d ∈ post, ∀ v' p', tfind d.writes j ≠ some (.value v' p')) → readHold hw x j = .ok (v, p)) ∧
          ((∀ d ∈ earlier, ∀ v' p', tfind d.writes j ≠ some (.value v' p')) → readHold hw x j = .ok held))))

/-- The block words, what a hold register shows an activation, and that an activation writes one once (06 R168, R170, R174, R187 to R189, R193; a write
of an activation that is not open being an accounting fault is the model's choice, log 92). -/
def Obligations.BlockWords : Prop :=
  Clauses.BlockWords ∧ Clauses.HoldWriteOnce ∧ Clauses.HoldRead

/-- What QUIET waits for: an activation is done once it has committed and its stores have performed (06 R191). -/
def Clauses.ActivationDone : Prop :=
  ∀ (hw : Hw) (c q : Nat), actDone hw c q = true ↔
    (∀ a ∈ (coreAt hw c).acts, a.seq ≠ q) ∧ (∀ b ∈ (coreAt hw c).releaseQ, b.seq ≠ q) ∧
    ∀ a ∈ hw.acc, ¬ (a.core = c ∧ a.seq = q ∧ a.kind = .store)

/-- SWITCH posts its request at the frame's region controller, and waits while eight stand there; a NULL trigger posts none and passes; a frame that is no configuration frame of the region faults with
cause 14. QUIET posts its request once, with the activations of its core that opened before its own, waits until the controller has taken it and every activation of its set
is done, and then forwards A; outside a region both fault with cause 14 (06 R190, R191, R193). -/
def Clauses.RegionWords : Prop :=
  let mine := fun (f : Fire) (q : QuietReq) => decide (q.elem = f.site.elem ∧ q.slot = f.site.slot ∧ q.tag = f.tag)
  let put := fun (hw : Hw) (k i : Nat) (r : Region) => modCl hw k fun cl => { cl with rcs := tput cl.rcs {} i r }
  (∀ (w : Fields) (s : State) (f : Fire) (k i : Nat) (r : Region), Live specSwitch w s f → anyEnd f.data = false → f.a.kind ≠ .null →
    regionOf s.hw f.core f.frame = some (k, i, r) → r.frames.getLsbD w.k.toNat = true →
    (r.swq.length < 8 → exec (.switch w) s = .next (fired f s (put s.hw k i { r with swq := r.swq ++ [(BitVec.ofNat 3 w.k.toNat, asSent f f.a, f.site)] }))) ∧
    (8 ≤ r.swq.length → exec (.switch w) s = .next (held s s.hw))) ∧
  (∀ (w : Fields) (s : State) (f : Fire) (k i : Nat) (r : Region) (hw : Hw), Live specSwitch w s f → f.a.kind = .null →
    regionOf s.hw f.core f.frame = some (k, i, r) → r.frames.getLsbD w.k.toNat = true → emitAll f s.hw [tokOf f .null 0 false f.a.aux] = .ok hw →
    exec (.switch w) s = .next (fired f s hw)) ∧
  (∀ (w : Fields) (s : State) (f : Fire) (k i : Nat) (r : Region), Live specSwitch w s f → anyEnd f.data = false →
    regionOf s.hw f.core f.frame = some (k, i, r) → r.frames.getLsbD w.k.toNat = false →
    exec (.switch w) s = .next (faulted f s cILLFIELD (14 + 1 * 2 ^ 5 + w.k.toNat * 2 ^ 8))) ∧
  (∀ (w : Fields) (s : State) (f : Fire), Live specSwitch w s f → anyEnd f.data = false → regionOf s.hw f.core f.frame = none →
    exec (.switch w) s = .next (faulted f s cILLFIELD (14 + f.frame * 2 ^ 8))) ∧
  (∀ (w : Fields) (s : State) (f : Fire) (k i : Nat) (r : Region), Plain specQuiet w s f → regionOf s.hw f.core f.frame = some (k, i, r) →
    r.quiets.find? (mine f) = none →
    let before := ((occAct (coreAt s.hw f.core) f.frame f.tag f.site.occ).map fun a => a.seq).getD (coreAt s.hw f.core).nextSeq
    let own := ((coreAt s.hw f.core).acts.filter fun a => decide (a.frame = r.cur.toNat ∧ a.seq < before)).map fun a => (f.core, a.seq)
    exec (.quiet w) s = .next (held s (put s.hw k i { r with
      quiets := r.quiets ++ [{ elem := f.site.elem, slot := f.site.slot, tag := f.tag, own := own, taken := none }] }))) ∧
  (∀ (w : Fields) (s : State) (f : Fire) (k i : Nat) (r : Region) (q : QuietReq), Plain specQuiet w s f →
    regionOf s.hw f.core f.frame = some (k, i, r) → r.quiets.find? (mine f) = some q →
    (q.taken = none → exec (.quiet w) s = .next (held s s.hw)) ∧
    (∀ others, q.taken = some others → (∃ a ∈ q.own ++ others, actDone s.hw a.1 a.2 = false) → exec (.quiet w) s = .next (held s s.hw)) ∧
    (∀ others hw, q.taken = some others → (∀ a ∈ q.own ++ others, actDone s.hw a.1 a.2 = true) →
      emitAll f (put s.hw k i { r with quiets := r.quiets.filter fun y => !mine f y }) [asSent f f.a] = .ok hw →
      exec (.quiet w) s = .next (fired f s hw))) ∧
  Faults .quiet (fun f s => regionOf s.hw f.core f.frame = none) cILLFIELD (fun f => 14 + f.frame * 2 ^ 8)

/-- SWITCH and QUIET in a region and outside one, and what QUIET waits for (06 R190, R191, R193). -/
def Obligations.RegionWords : Prop := Clauses.RegionWords ∧ Clauses.ActivationDone

/-! ## Counters, tasks, residency, keys and services (10 R287 to R294, 11 R309 to R323, 13 R356 to R358) -/

/-- The operand of a counter word names a counter of the firing's own partition (11 R309, R320, R324). -/
def counterGood (f : Fire) (s : State) : Prop :=
  f.a.value.toNat < 2 ^ 15 ∧ tokPsn f.a = false ∧ crefMine s.hw f.core f.a.value.toNat = true

/-- The operand of a counter word names a counter of another partition. -/
def counterForeign (f : Fire) (s : State) : Prop :=
  f.a.value.toNat < 2 ^ 15 ∧ tokPsn f.a = false ∧ crefMine s.hw f.core f.a.value.toNat = false

/-- The operation that a counter word posts. -/
def counterPost (f : Fire) (s : State) (body : CntOpBody) : Hw :=
  let hw := expose s.hw f.core f.site.seq
  { hw with cntOps := s.hw.cntOps ++ [{ cl := f.a.value.toNat / 2 ^ 13 % 4 * 8 + f.a.value.toNat / 2 ^ 10 % 8, idx := f.a.value.toNat % 2 ^ 10,
                                        body := body, src := .slot f.site.elem f.site.frame f.site.slot }] }

/-- Whether two clusters are in one partition, for the counter that a reference names. -/
def Clauses.CounterPartition : Prop :=
  ∀ (hw : Hw) (core r : Nat), crefMine hw core r = true ↔
    ∃ p, partOfCl hw (core / 8) = some p ∧ partOfCl hw (r / 2 ^ 13 % 4 * 8 + r / 2 ^ 10 % 8) = some p

/-- CNTINIT, CNTDEC and CNTWAIT send their operation to the counter's cluster, and WAITA its condition to the home of its address; a reference to no counter is an operand fault, a
counter of another partition a protection fault; an initial value or a decrement out of range is an operand fault, poisoned or not (log 68), and so is a deadline; a poisoned
address answers with poison; that CNTDEC posts at once, the accesses that its inputs certify having performed, is the model's reading (log 42)
(11 R309, R310, R312, R320 to R324). -/
def Clauses.CounterWords : Prop :=
  let out1 := fun (f : Fire) => 10 + 1 * 2 ^ 5 + f.b.value.toNat % 2 ^ 48 * 2 ^ 16
  let out0 := fun (f : Fire) => 10 + f.a.value.toNat % 2 ^ 48 * 2 ^ 16
  let foreign := fun (f : Fire) => f.a.value.toNat + 8 * 2 ^ 52
  let dec := fun (f : Fire) => anyEnd f.data = false ∧ f.a.kind ≠ .null ∧ f.b.kind ≠ .null
  let decGood := fun (f : Fire) => 1 ≤ f.b.value ∧ f.b.value.toNat < 2 ^ 32
  Acts .cntinit (fun f s => counterGood f s ∧ f.b.value.toNat < 2 ^ 32)
    (fun f s => .ok (counterPost f s (.init (f.b.value.setWidth 32) (tokPsn f.b) (some f.site)))) ∧
  Faults .cntinit (fun f _ => tokPsn f.a = false ∧ 2 ^ 32 ≤ f.b.value.toNat) cILLFIELD out1 ∧
  Faults .cntinit (fun f s => f.b.value.toNat < 2 ^ 32 ∧ counterForeign f s) cPROT foreign ∧
  Faults .cntinit (fun f _ => f.b.value.toNat < 2 ^ 32 ∧ tokPsn f.a = false ∧ 2 ^ 15 ≤ f.a.value.toNat) cILLFIELD out0 ∧
  Acts .cntinit (fun f _ => tokPsn f.a = true) (fun f s => emitAll f s.hw [tokOf f .data 0 true]) ∧
  Meets .cntdec (fun f s => dec f ∧ decGood f ∧ counterGood f s)
    (fun f s => .ok (counterPost f s (.dec (f.b.value.setWidth 32) (f.c.kind == .fault || tokPsn f.b || tokPsn f.c) (some f.site)))) ∧
  MeetsFault .cntdec (fun f _ => dec f ∧ tokPsn f.a = false ∧ ¬ decGood f) cILLFIELD out1 ∧
  MeetsFault .cntdec (fun f s => dec f ∧ decGood f ∧ counterForeign f s) cPROT foreign ∧
  MeetsFault .cntdec (fun f _ => dec f ∧ decGood f ∧ tokPsn f.a = false ∧ 2 ^ 15 ≤ f.a.value.toNat) cILLFIELD out0 ∧
  Meets .cntdec (fun f _ => dec f ∧ tokPsn f.a = true) (fun f s => emitAll f s.hw [tokOf f .data 0 true]) ∧
  Acts .cntwait (fun f s => counterGood f s) (fun f s => .ok (counterPost f s (.wait f.site))) ∧
  Faults .cntwait counterForeign cPROT foreign ∧
  Faults .cntwait (fun f _ => tokPsn f.a = false ∧ 2 ^ 15 ≤ f.a.value.toNat) cILLFIELD out0 ∧
  Acts .cntwait (fun f _ => tokPsn f.a = true) (fun f s => emitAll f s.hw [tokOf f .data 0 true]) ∧
  (∀ (w : Fields) (s : State) (f : Fire) (hw : Hw) (a : Loc), Plain specWaita w s f → tokPsn f.a = false →
    formAddr s.hw f.core f.frame f.asid f.a 0 (widthOf w) 2 true true = .ok (hw, a) → (isRemote hw a = false ∨ w.xf.extractLsb' 0 3 = 4) →
    (f.c.value.toNat < 2 ^ 40 →
      exec (.waita w) s = .next (fired f s (postAccess (expose hw f.core f.site.seq) (accessOf f hw 0
        (.monitor (w.fn.extractLsb' 3 2) (zx (8 * widthOf w) f.b.value) f.c.value.toNat (w.fn.getLsbD 2)) a (widthOf w))))) ∧
    (2 ^ 40 ≤ f.c.value.toNat → exec (.waita w) s = .next (faulted f s cILLFIELD (10 + 2 * 2 ^ 5 + f.c.value.toNat % 2 ^ 48 * 2 ^ 16)))) ∧
  (∀ (w : Fields) (s : State) (f : Fire) (c d : Nat), Plain specWaita w s f → tokPsn f.a = false →
    formAddr s.hw f.core f.frame f.asid f.a 0 (widthOf w) 2 true true = .error (.fault c d) → exec (.waita w) s = .next (faulted f s c d)) ∧
  Acts .waita (fun f _ => tokPsn f.a = true) (fun f s => emitAll f s.hw [tokOf f .data 0 true])

/-- The counter words and WAITA, and which counters are of a core's partition (11 R309, R310, R320 to R324). -/
def Obligations.CounterWords : Prop := Clauses.CounterWords ∧ Clauses.CounterPartition

/-- SPAWN reads a record of 64 bytes and SPAWNI builds one from its operands; both send it to the cluster's dispatcher, or wait while its queue is
full; a poisoned operand poisons the task; an operand of SPAWNI out of range faults (10 R259, R260, R282, R287, R288). -/
def Obligations.SpawnWords : Prop :=
  let good := fun (f : Fire) => f.a.value.toNat < 2 ^ 54 ∧ (f.w.k.getLsbD 37 = true ∨ f.a.value.toNat % 2 ^ 32 = 0)
  (∀ (w : Fields) (s : State) (f : Fire) (hw : Hw) (a : Loc), Plain specSpawn w s f → Turn s f →
    formAddr s.hw f.core f.frame f.asid f.a f.b.value.toInt 64 0 true false = .ok (hw, a) →
    (∀ hw' r p, heldRecords hw (clOf f.core) < 4096 → readRecord f s.mem hw a = .ok (hw', r, p) → heldRecords hw' (clOf f.core) < 4096 →
      exec (.spawn w) s = .next (fired f s (countIssued { expose hw' f.core f.site.seq with recs := hw'.recs ++
        [{ words := r, psn := p || f.psn, asid := f.asid, cc := clOf f.core, site := some f.site, port := none }] } f.site w.ls.toNat))) ∧
    (4096 ≤ heldRecords hw (clOf f.core) → exec (.spawn w) s = .next (held s hw)) ∧
    (∀ c d, heldRecords hw (clOf f.core) < 4096 → readRecord f s.mem hw a = .error (.fault c d) → exec (.spawn w) s = .next (faulted f s c d))) ∧
  (∀ (w : Fields) (s : State) (f : Fire) (c d : Nat), Plain specSpawn w s f → Turn s f →
    formAddr s.hw f.core f.frame f.asid f.a f.b.value.toInt 64 0 true false = .error (.fault c d) → exec (.spawn w) s = .next (faulted f s c d)) ∧
  Acts .spawni (fun f s => good f ∧ heldRecords s.hw (clOf f.core) < 4096)
    (fun f s =>
      let k := f.w.k.toNat
      let a := f.a.value.toNat
      let keyf := k / 2 ^ 35 % 4
      let w0 := k % 2 ^ 12 * 2 ^ 52 + k / 2 ^ 12 % 8 * 2 ^ 49 + k / 2 ^ 37 % 2 * 2 ^ 45 + (if keyf = 0 then 0 else 2 ^ 42) +
        k / 2 ^ 25 % 2 ^ 10 * 2 ^ 32 + k / 2 ^ 15 % 2 ^ 10 * 2 ^ 22 + a / 2 ^ 32
      let tref := if f.w.k.getLsbD 37 then a % 2 ^ 32 else 0
      let key := if keyf = 1 then a % 2 ^ 31 else if keyf = 2 then 2 ^ 31 + a % 2 ^ 31 else 0
      .ok { expose s.hw f.core f.site.seq with recs := s.hw.recs ++
        [{ words := [BitVec.ofNat 64 w0, BitVec.ofNat 64 tref, 0, 0, 0, BitVec.ofNat 64 key, 0, 0], psn := f.psn, asid := f.asid
           cc := clOf f.core, site := some f.site, port := none }] }) ∧
  (∀ (w : Fields) (s : State) (f : Fire), Plain specSpawni w s f → good f → 4096 ≤ heldRecords s.hw (clOf f.core) →
    exec (.spawni w) s = .next (held s s.hw)) ∧
  Faults .spawni (fun f _ => ¬ good f) cILLFIELD (fun f => 10 + f.a.value.toNat % 2 ^ 48 * 2 ^ 16)

/-- A residency entry made in a cluster's table stands at its end with no other of its reference and place, if fewer than 4,096 others stand there; in a full table
it takes the place of one that is not pinned; with every entry pinned none is made and the loss is counted (10 R269, R272). -/
def Clauses.ResidencyMade : Prop :=
  ∀ (hw : Hw) (cl : Nat) (e : ResEntry),
    let others := (clAt hw cl).res.filter fun x => !decide (x.asid = e.asid ∧ x.tref = e.tref ∧ x.loc = e.loc)
    let r := resMake hw cl e
    (others.length < 4096 → r.2 = true ∧ (clAt r.1 cl).res = others ++ [{ e with made := hw.ids }]) ∧
    (4096 ≤ others.length → (∃ x ∈ others, x.pin = false) → r.2 = true ∧ ∃ v ∈ others, v.pin = false ∧
      (clAt r.1 cl).res = (others.filter fun x => x != v) ++ [{ e with made := hw.ids }]) ∧
    (4096 ≤ others.length → (∀ x ∈ others, x.pin = true) → r.2 = false ∧ (clAt r.1 cl).res = (clAt hw cl).res ∧
      (clAt r.1 cl).resLost = (clAt hw cl).resLost + 1)

/-- PIN makes a pinned residency entry and answers 0, or 1 where there was no room; a place of another ASID is a protection fault, a reference to no tile and an offset past the tile an
operand fault. UNPIN clears the pins of the entries it names, or the entries, and answers how many; RESQ answers the places of the reference, one entry, or the cluster that the directory names;
KEYQ answers the state of the key at its slice; RESQ and KEYQ change nothing; an operand out of range faults, be it a place above 16, a query 3 or a bit that has no
name; the bound of PIN's offset for place 16 is the model's reading (log 45) (10 R289 to R293). -/
def Clauses.ResidencyWords : Prop :=
  let out0 := fun (f : Fire) => 10 + f.a.value.toNat % 2 ^ 48 * 2 ^ 16
  let out1 := fun (f : Fire) => 10 + 1 * 2 ^ 5 + f.b.value.toNat % 2 ^ 48 * 2 ^ 16
  (∀ (w : Fields) (s : State) (f : Fire), Plain specPin w s f →
    let tref := f.a.value.toNat
    let loc := f.b.value.toNat % 32
    let off := f.b.value.toNat / 32
    let cl := clOf f.core
    let own := tget s.hw.pkg.tileOwner 0 (cl * 16 + loc) = f.asid
    let good := f.b.value.toNat < 2 ^ 29 ∧ loc ≤ 16 ∧ (loc = 16 → off = 0)
    tref < 2 ^ 32 →
    (∀ hw hw' made, good → (loc < 16 → own) → badTref s.hw f.asid tref = false → off + (tileRec s.hw f.asid tref).bytes ≤ 0x80000 →
      resMake (expose s.hw f.core f.site.seq) cl
        { state := .valid, pin := true, asid := f.asid, tref := BitVec.ofNat 32 tref, loc := loc, bytes := (tileRec s.hw f.asid tref).bytes
          offset := off, made := 0 } = (hw, made) →
      out f hw (if made then 0 else 1) = .ok hw' → exec (.pin w) s = .next (fired f s hw')) ∧
    (¬ good → exec (.pin w) s = .next (faulted f s cILLFIELD (out1 f))) ∧
    (good → loc < 16 → ¬ own → exec (.pin w) s = .next (faulted f s cPROT
      (ownPa s.hw (0x3F0000000000 + (cl * 16 + loc) * 0x80000 + off) % 2 ^ 48 + 0 * 2 ^ 48 + 3 * 2 ^ 52))) ∧
    (good → (loc < 16 → own) → badTref s.hw f.asid tref = true → exec (.pin w) s = .next (faulted f s cILLFIELD (17 + 4 * 2 ^ 5 + tref * 2 ^ 32))) ∧
    (good → (loc < 16 → own) → badTref s.hw f.asid tref = false → 0x80000 < off + (tileRec s.hw f.asid tref).bytes →
      exec (.pin w) s = .next (faulted f s cILLFIELD (out1 f)))) ∧
  (∀ (w : Fields) (s : State) (f : Fire) (hw : Hw), Plain specUnpin w s f → f.a.value.toNat < 2 ^ 32 → f.b.value.toNat < 64 →
    (f.b.value.toNat % 32 ≤ 16 ∨ f.b.value.toNat % 32 = 31) →
    let cl := clOf f.core
    let l := (clAt s.hw cl).res
    let hit := fun (e : ResEntry) => decide (e.asid = f.asid ∧ e.tref = f.a.value.setWidth 32 ∧ (f.b.value.toNat % 32 = 31 ∨ e.loc = f.b.value.toNat % 32))
    (f.b.value.getLsbD 5 = true →
      out f (setRes (expose s.hw f.core f.site.seq) cl (l.filter fun e => !hit e)) (BitVec.ofNat 64 (l.filter hit).length) = .ok hw →
      exec (.unpin w) s = .next (fired f s hw)) ∧
    (f.b.value.getLsbD 5 = false →
      out f (setRes (expose s.hw f.core f.site.seq) cl (l.map fun e => if hit e then { e with pin := false } else e))
        (BitVec.ofNat 64 (l.filter fun e => hit e && e.pin).length) = .ok hw → exec (.unpin w) s = .next (fired f s hw))) ∧
  (∀ (hw : Hw) (cl : Nat) (l : List ResEntry), (clAt (setRes hw cl l) cl).res = l ∧ ∀ k, k ≠ cl → clAt (setRes hw cl l) k = clAt hw k) ∧
  Faults .unpin (fun f _ => f.a.value.toNat < 2 ^ 32 ∧ ¬ (f.b.value.toNat < 64 ∧ (f.b.value.toNat % 32 ≤ 16 ∨ f.b.value.toNat % 32 = 31))) cILLFIELD out1 ∧
  Acts .resq (fun f _ => f.a.value.toNat < 2 ^ 32 ∧ f.b.value.toNat < 3 * 2 ^ 8 ∧ f.b.value.toNat / 2 ^ 5 % 2 ^ 3 = 0 ∧
      (f.b.value.toNat / 2 ^ 8 = 1 → f.b.value.toNat % 32 ≤ 16)) (fun f s => do
    let l := (clAt s.hw (clOf f.core)).res.filter fun e => decide (e.asid = f.asid ∧ e.tref = f.a.value.setWidth 32)
    let places := ((List.range 17).map fun i => if l.any fun e => e.loc = i && e.state == .valid then 2 ^ i else 0).sum
    let entry := match l.find? fun e => e.loc = f.b.value.toNat % 32 with
      | some e => resBits e
      | none => 0
    let named := match directoryNames s.hw f.asid f.a.value.toNat with
      | some k => k / 8 + k % 8 * 4
      | none => 32
    let sel := f.b.value.toNat / 2 ^ 8
    let hw ← emit0 f s.hw [tokOf f .data (BitVec.ofNat 64 (if sel = 0 then places else if sel = 1 then entry / 2 ^ 64 else named)) f.psn]
    emit1 f hw [tokOf f .data (BitVec.ofNat 64 (if sel = 0 then places else if sel = 1 then entry else named)) f.psn]) ∧
  Faults .resq (fun f _ => f.a.value.toNat < 2 ^ 32 ∧ ¬ (f.b.value.toNat < 3 * 2 ^ 8 ∧ f.b.value.toNat / 2 ^ 5 % 2 ^ 3 = 0 ∧
      (f.b.value.toNat / 2 ^ 8 = 1 → f.b.value.toNat % 32 ≤ 16))) cILLFIELD out1 ∧
  Acts .keyq (fun f _ => f.a.value.toNat < 2 ^ 32 ∧ f.b.value < 2) (fun f s =>
    out f s.hw (BitVec.ofNat 64 (keySnapshot s.hw f.asid (f.a.value.toNat % 2 ^ 31) (f.b.value == 1)))) ∧
  Faults .keyq (fun f _ => f.a.value.toNat < 2 ^ 32 ∧ 2 ≤ f.b.value) cILLFIELD out1 ∧
  Faults .pin (fun f _ => 2 ^ 32 ≤ f.a.value.toNat) cILLFIELD out0 ∧ Faults .unpin (fun f _ => 2 ^ 32 ≤ f.a.value.toNat) cILLFIELD out0 ∧
  Faults .resq (fun f _ => 2 ^ 32 ≤ f.a.value.toNat) cILLFIELD out0 ∧ Faults .keyq (fun f _ => 2 ^ 32 ≤ f.a.value.toNat) cILLFIELD out0

/-- What KEYQ answers, at the slice of its key: of a key with an entry, how it is held, by how many, how many requests queue and whether one of these is
reserved; of one without, 0, or KEY_LIMIT where the slice is full; of the slice, its free entries and the requests that wait for one. A count that
its field cannot hold answers the greatest that it can, the model's choice (10 R276, R293, log 75). -/
def Clauses.KeySnapshot : Prop :=
  ∀ (hw : Hw) (asid : BitVec 10) (v : Nat), v < 2 ^ 31 →
    let g := fun (i : Nat) => BitVec.ofNat 5 (v / 2 ^ (5 * i))
    let h := g 0 ^^^ g 1 ^^^ g 2 ^^^ g 3 ^^^ g 4 ^^^ g 5 ^^^ g 6
    let c := clAt hw (h.toNat / 8 * 8 + h.toNat % 8)
    let n := keySnapshot hw asid v false
    let e := c.keys.find? fun e => decide (e.asid = asid ∧ e.key.toNat = v)
    (e = none → n = if 2048 ≤ c.keys.length then 2 ^ 26 + 0x11 * 2 ^ 32 else 0) ∧
    (∀ k, e = some k →
      let sh := (k.holders.filter fun y => !y.2).length
      n % 4 = (if k.holders.any fun y => y.2 then 2 else if sh = 0 then 0 else 1) ∧ n / 2 ^ 2 % 2 ^ 11 = min sh 2047 ∧
      n / 2 ^ 13 % 2 ^ 12 = min k.queue.length 4095 ∧ n / 2 ^ 25 = (if k.queue.any fun y => y.resv then 1 else 0)) ∧
    (keySnapshot hw asid v true) % 2 ^ 16 = 2048 - c.keys.length ∧ (keySnapshot hw asid v true) / 2 ^ 16 = min c.keyWait.length 4095

/-- The words on residency entries and keys, what making an entry does and what KEYQ sees (10 R269, R272, R276, R289 to R293). -/
def Obligations.ResidencyWords : Prop := Clauses.ResidencyWords ∧ Clauses.ResidencyMade ∧ Clauses.KeySnapshot

/-- TRAP and SVC send A to the cluster's service core, SVC asking for a reply, and wait while its inbox is full; BRK passes A, and in an ASID under debug freezes its element as a
breakpoint with its code; a poisoned A answers with poison (13 R356 to R358). -/
def Obligations.ServiceWords : Prop :=
  let core := fun (f : Fire) (s : State) => scOf s.hw (clOf f.core)
  let room := fun (f : Fire) (s : State) => (scAt s.hw (dieOf f.core) (core f s)).inbox.length +
    (s.hw.svc.filter fun m => m.die = dieOf f.core && m.sc = core f s).length < 512
  let request := fun (f : Fire) (s : State) (reply : Bool) =>
    let hw := expose s.hw f.core f.site.seq
    { hw with svc := s.hw.svc ++ [{ die := dieOf f.core, sc := core f s, site := some f.site, reply := reply, asid := f.asid
                                    task := (spaceOwner s.hw f.core f.frame f.tag).map fun o => (ctxAt (coreAt s.hw o.1) o.2).task
                                    tok := { f.a with kind := .service, aux := BitVec.ofNat 7 (64 + f.w.k.toNat % 64), psn := false, rank := 0, cont := 0,
                                                      tag := f.tag } }] }
  let waits := fun (mk : Fields → Instr) (spc : OpSpec) => ∀ (w : Fields) (s : State) (f : Fire), Plain spc w s f → tokPsn f.a = false → ¬ room f s →
    exec (mk w) s = .next (held s s.hw)
  Acts .trap (fun f s => tokPsn f.a = false ∧ room f s) (fun f s => .ok (request f s false)) ∧ waits .trap specTrap ∧
  Acts .svc (fun f s => tokPsn f.a = false ∧ room f s) (fun f s => .ok (request f s true)) ∧ waits .svc specSvc ∧
  (∀ mk ∈ [Instr.trap, .svc, .brk], Acts mk (fun f _ => tokPsn f.a = true) (fun f s => emitAll f s.hw [tokOf f .data 0 true])) ∧
  Acts .brk (fun f s => tokPsn f.a = false ∧ dbgOn s.hw f.core f.asid = false) (fun f s => emitAll f s.hw [asSent f f.a]) ∧
  Faults .brk (fun f s => tokPsn f.a = false ∧ dbgOn s.hw f.core f.asid = true) 0 (fun f => f.w.k.toNat % 64 + 2 ^ 8)

/-! ## Memory words (07 R204 to R213, 11 R316 to R319, 13 R334 to R343) -/

/-- A base and an offset form an address: of a VA their sum must lie in 48 bits, of a PADDR in its own page; then it must be aligned to the
width; a PADDR needs its W bit for a write and an entry marked PX (07 R204, Table 7.4, 13 R340). -/
def Obligations.FormedAddress : Prop :=
  ∀ (hw : Hw) (c fr : Nat) (asid : BitVec 10) (t : Token) (off : Int) (width acc : Nat) (r w : Bool), 0 < width →
    let n := (t.value.toNat : Int) + off
    let b : Nat := t.value.toNat % 2 ^ 56
    let page : Nat := pageBytes (t.aux.toNat % 4)
    let q : Int := (b : Int) + off
    (t.kind ≠ .paddr →
      ((2 ^ 48 ≤ t.value.toNat ∨ n < 0 ∨ 2 ^ 48 ≤ n) →
        formAddr hw c fr asid t off width acc r w = .error (.fault cPROT (ofSigned 48 n + acc * 2 ^ 48 + 5 * 2 ^ 52))) ∧
      (t.value.toNat < 2 ^ 48 → 0 ≤ n → n < 2 ^ 48 → n % (width : Int) ≠ 0 →
        formAddr hw c fr asid t off width acc r w = .error (.fault cMISALIGNED (n.toNat + acc * 2 ^ 48))) ∧
      (t.value.toNat < 2 ^ 48 → 0 ≤ n → n < 2 ^ 48 → n % (width : Int) = 0 →
        formAddr hw c fr asid t off width acc r w = vaLoc hw c fr asid n.toNat acc r w)) ∧
    (t.kind = .paddr →
      ((q < 0 ∨ q / (page : Int) ≠ ((b / page : Nat) : Int)) →
        formAddr hw c fr asid t off width acc r w = .error (.fault cPROT (ofSigned 56 q % 2 ^ 48 + acc * 2 ^ 48 + 2 ^ 51 + 6 * 2 ^ 52))) ∧
      (0 ≤ q → q / (page : Int) = ((b / page : Nat) : Int) → w = true → t.aux.getLsbD 2 = false →
        formAddr hw c fr asid t off width acc r w = .error (.fault cPROT (q.toNat % 2 ^ 48 + acc * 2 ^ 48 + 2 ^ 51 + 2 * 2 ^ 52))) ∧
      (∀ hw' a, formAddr hw c fr asid t off width acc r w = .ok (hw', a) → (w = false → hw' = hw) ∧ a.pa = q.toNat ∧ a.isPa = true ∧ a.pa % width = 0 ∧
        ∃ x ∈ (coreAt hw c).tlb, x.px = true ∧ x.asid = asid ∧ x.pa ≤ a.pa ∧ a.pa < x.pa + pageBytes x.size ∧ (r = true → x.r = true) ∧
          (w = true → x.w = true)))

/-- A walk that answers a translation has found a valid leaf of the page's size, with A set, and D for a write; the page holds
the VA and is aligned (13 R334 to R336); the ASID may use every granule of it (15 R394; that all of the page is asked, not the line alone, is the model's
choice, log 25). -/
def Obligations.WalkFindsLeaf : Prop :=
  ∀ (m : Mem) (hw : Hw) (die : Nat) (asid : BitVec 10) (va : Nat) (write : Bool) (x : Xlat) (a p : Nat),
    walk m hw die asid va write = .ok (x, a, p) →
    x.asid = asid ∧ x.size < 4 ∧ x.va ≤ va ∧ va < x.va + pageBytes x.size ∧ x.va % pageBytes x.size = 0 ∧ x.pa % pageBytes x.size = 0 ∧
    bit p 0 = true ∧ bit p 1 = true ∧ bit p 5 = true ∧ (write = true → bit p 6 = true) ∧ x.r = bit p 2 ∧ x.w = bit p 3 ∧
    x.d = bit p 6 ∧ x.px = false ∧ pageOwned hw asid x.pa (pageBytes x.size) = true ∧
    linePsn m a = false ∧ p = memRead m a 8 ||| 0x20 ||| (if write then 0x40 else 0)

/-- The access that a load, an atomic or a descriptor sends on its way. -/
def accessSent (f : Fire) (hw : Hw) (port : Nat) (kind : AccKind) (a : Loc) (width : Nat) (fwd : List (Nat × Byte × Bool)) (psn : Bool) : Hw :=
  { hw with ids := hw.ids + 1, acc := hw.acc ++
    [{ id := hw.ids, core := f.core, port := port, kind := kind, va := a.addr, isPa := a.isPa, pa := a.pa, width := width, data := 0, psn := psn
       fwd := fwd, site := f.site, seq := f.site.seq.getD 0, lsid := f.w.ls, strel := none, gen := genOfCl hw (clOf f.core) }] }

/-- The width in bytes of a memory word: 1, 2, 4 or 8 by FN[1:0] (02 Table 2.6). -/
def accBytes (w : Fields) : Nat := 2 ^ (w.fn.extractLsb' 0 2).toNat

/-- LD and LDACQ form their address, take what the store buffer holds of their bytes, and send an access for the rest; where the store buffer
holds them all they answer at once; behind a store of another activation that must drain first they wait; a poisoned address answers DATA 0 with poison and ORDER. PREF translates
its address and counts its LSID, whatever the address is, but faults on one whose sum leaves its range (06 R181, 07 R204, R207, R209, 11 R317). -/
def Obligations.LoadWords : Prop :=
  let loads := fun (mk : Fields → Instr) (spc : OpSpec) (acq : Bool) =>
    (∀ (w : Fields) (s : State) (f : Fire) (hw : Hw) (a : Loc), Plain spc w s f → Turn s f → tokPsn f.a = false →
      formAddr s.hw f.core f.frame f.asid f.a f.b.value.toInt (accBytes w) 0 true false = .ok (hw, a) →
      (acq = true → isRemote hw a = false ∨ w.xf.extractLsb' 0 3 = 4) → filtered hw f.core a.pa = false →
      (forwardBytes hw f.site a.pa (accBytes w)).length < accBytes w →
      exec (mk w) s = .next (fired f s (accessSent f (if acq then hw else countIssued hw f.site w.ls.toNat) 0 (.load (w.fn.getLsbD 2) acq) a (accBytes w)
        (forwardBytes hw f.site a.pa (accBytes w)) f.psn))) ∧
    (∀ (w : Fields) (s : State) (f : Fire) (hw hw' : Hw) (a : Loc), Plain spc w s f → Turn s f → tokPsn f.a = false →
      formAddr s.hw f.core f.frame f.asid f.a f.b.value.toInt (accBytes w) 0 true false = .ok (hw, a) →
      (acq = true → isRemote hw a = false ∨ w.xf.extractLsb' 0 3 = 4) → filtered hw f.core a.pa = false →
      let l := forwardBytes hw f.site a.pa (accBytes w)
      l.length = accBytes w →
      loadOut (countIssued hw f.site w.ls.toNat) f.site (w.fn.getLsbD 2) (accBytes w) (ofBytes (l.map fun x => x.2.1)) (f.psn || l.any fun x => x.2.2) = .ok hw' →
      exec (mk w) s = .next (fired f s hw')) ∧
    (∀ (w : Fields) (s : State) (f : Fire) (hw hw' : Hw), Plain spc w s f → Turn s f → tokPsn f.a = true →
      emit0 f (countIssued s.hw f.site w.ls.toNat) [tokOf f .data 0 true] = .ok hw → emit1 f hw [tokOf f .order] = .ok hw' →
      exec (mk w) s = .next (fired f s hw')) ∧
    (∀ (w : Fields) (s : State) (f : Fire) (hw : Hw) (a : Loc), Plain spc w s f → Turn s f → tokPsn f.a = false →
      formAddr s.hw f.core f.frame f.asid f.a f.b.value.toInt (accBytes w) 0 true false = .ok (hw, a) →
      (acq = true → isRemote hw a = false ∨ w.xf.extractLsb' 0 3 = 4) → filtered hw f.core a.pa = true →
      exec (mk w) s = .next (held s hw)) ∧
    (∀ (w : Fields) (s : State) (f : Fire) (c d : Nat), Plain spc w s f → Turn s f → tokPsn f.a = false →
      formAddr s.hw f.core f.frame f.asid f.a f.b.value.toInt (accBytes w) 0 true false = .error (.fault c d) →
      exec (mk w) s = .next (faulted f s c d))
  loads .ld specLd false ∧ loads .ldacq specLdacq true ∧
  (∀ (w : Fields) (s : State) (f : Fire), Plain specPref w s f → Turn s f →
    let formed := formAddr s.hw f.core f.frame f.asid f.a f.b.value.toInt 1 0 true false
    let outside := fun (c d : Nat) => c = cPROT ∧ (d / 2 ^ 52 % 16 = 5 ∨ d / 2 ^ 52 % 16 = 6)
    (tokPsn f.a = true → exec (.pref w) s = .next (fired f s (countIssued s.hw f.site w.ls.toNat))) ∧
    (∀ hw a, tokPsn f.a = false → formed = .ok (hw, a) → exec (.pref w) s = .next (fired f s (countIssued hw f.site w.ls.toNat))) ∧
    (∀ hw, tokPsn f.a = false → formed = .error (.wait hw) → exec (.pref w) s = .next (held s hw)) ∧
    (∀ c d, tokPsn f.a = false → formed = .error (.fault c d) → outside c d → exec (.pref w) s = .next (faulted f s c d)) ∧
    (∀ c d, tokPsn f.a = false → formed = .error (.fault c d) → ¬ outside c d →
      exec (.pref w) s = .next (fired f s (countIssued (spendFail s.hw (dieOf f.core) (f.core % 64)) f.site w.ls.toNat))))

/-- ST and STREL count their LSID for the activation and enter the store buffer with their physical address, and send nothing before the commit
but the order in chain mode; a NULL operand is a null-store, a poisoned address a null-store that marks the activation (06 R168, R180, R182, 07 R204,
R208, 11 R318). -/
def Obligations.StoreWords : Prop :=
  let stores := fun (mk : Fields → Instr) (spc : OpSpec) (rel : Bool) =>
    (∀ (w : Fields) (s : State) (f : Fire) (hw hw' : Hw) (a : Loc), Plain spc w s f → Turn s f → tokPsn f.a = false →
      formAddr s.hw f.core f.frame f.asid f.a (if rel then 0 else f.c.value.toInt) (accBytes w) 1 false true = .ok (hw, a) →
      (rel = true → isRemote hw a = false ∨ w.xf.extractLsb' 0 3 = 4) → (isRemote hw a = true → f.b.psn = false) →
      countStore hw f.site w.ls.toNat = .ok hw' → (coreAt hw' f.core).stores.length < 480 → (tableLines (coreAt hw' f.core)).length < 32 →
      ∃ b : Buffered, b.pa = a.pa ∧ b.width = accBytes w ∧ b.lsid = w.ls ∧ b.inTable = true ∧ b.site = f.site ∧ b.psn = tokPsn f.b ∧
        b.data.toNat = f.b.value.toNat % 2 ^ (8 * accBytes w) ∧ b.strel = (if rel then some (w.xf.extractLsb' 0 3).toNat else none) ∧
        exec (mk w) s = .next (fired f s (countIssued (setCore hw' f.core { coreAt hw' f.core with stores := (coreAt hw' f.core).stores ++ [b] })
          f.site w.ls.toNat))) ∧
    (∀ (w : Fields) (s : State) (f : Fire) (hw hw' : Hw), Plain spc w s f → Turn s f → tokPsn f.a = true → countStore s.hw f.site w.ls.toNat = .ok hw →
      emitAll f (markFiring f (countIssued hw f.site w.ls.toNat)) [tokOf f .order] = .ok hw' → exec (mk w) s = .next (fired f s hw')) ∧
    (∀ (w : Fields) (s : State) (f : Fire) (k : BitVec 7) (hw hw' : Hw), Ready spc w s f → f.queued = false → anyEnd f.data = false →
      predOf w.pr f.p = .fires → nullAux f.data = some k → countStore s.hw f.site w.ls.toNat = .ok hw →
      emitAll f (countIssued hw f.site w.ls.toNat) [tokOf f .null 0 false k] = .ok hw' → exec (mk w) s = .next (fired f s hw')) ∧
    (∀ (w : Fields) (s : State) (f : Fire) (c d : Nat), Plain spc w s f → Turn s f → tokPsn f.a = false →
      formAddr s.hw f.core f.frame f.asid f.a (if rel then 0 else f.c.value.toInt) (accBytes w) 1 false true = .error (.fault c d) →
      exec (mk w) s = .next (faulted f s c d))
  stores .st specSt false ∧ stores .strel specStrel true

/-- A predicated memory word that does not fire counts its LSID, a store as a null-store, and answers NULL (06 R182, 07 R204). -/
def Clauses.MemoryNotFired : Prop :=
  ∀ (i : Instr) (op : BitVec 9) (w : Fields) (sp : OpSpec) (s : State) (f : Fire) (hw hw' : Hw), opFields i = some (op, w) → 0x180#9 ≤ op → op ≤ 0x195#9 →
    specOf i = some sp → Ready sp w s f → f.queued = false → anyEnd f.data = false → predOf w.pr f.p = .notFire →
    (if op = 0x181#9 ∨ op = 0x183#9 then countStore s.hw f.site w.ls.toNat else .ok s.hw) = .ok hw →
    emitAll f (countIssued hw f.site w.ls.toNat) [tokOf f .null] = .ok hw' → exec i s = .next (fired f s hw')

/-- FENCE answers once its operands have arrived: the first FAULT among them, NULL where all are NULL, else ORDER (11 R319; that it never waits longer is the model's reading, log 42). -/
def Clauses.FenceWord : Prop :=
  let issued := fun (f : Fire) (s : State) => countIssued s.hw f.site f.w.ls.toNat
  let ready := fun (w : Fields) (s : State) (f : Fire) => Live specFence w s f ∧ anyEnd f.data = false ∧ Turn s f
  (∀ (w : Fields) (s : State) (f : Fire) (t : Token) (hw : Hw), ready w s f → f.data.find? (fun t => t.kind == .fault) = some t →
    emitAll f (issued f s) [asSent f t] = .ok hw → exec (.fence w) s = .next (fired f s hw)) ∧
  (∀ (w : Fields) (s : State) (f : Fire) (hw : Hw), ready w s f → (∀ t ∈ f.data, t.kind = .null) → f.data ≠ [] →
    emitAll f (issued f s) [tokOf f .null] = .ok hw → exec (.fence w) s = .next (fired f s hw)) ∧
  (∀ (w : Fields) (s : State) (f : Fire) (hw : Hw), ready w s f → (∀ t ∈ f.data, t.kind ≠ .fault) → (∃ t ∈ f.data, t.kind ≠ .null) →
    emitAll f (issued f s) [tokOf f .order] = .ok hw → exec (.fence w) s = .next (fired f s hw))

/-- FENCE, and the memory words whose predicate does not fire them (06 R182, 07 R204, 11 R319). -/
def Obligations.FenceWord : Prop :=
  Clauses.FenceWord ∧ Clauses.MemoryNotFired

/-- Every atomic sends one access to its home, with its operands, and counts its LSID; its effect there is that of Clauses.AtomicValues
(07 R210 to R212). -/
def Clauses.AtomicWords : Prop :=
  let atomic := fun (mk : Fields → Instr) => ∀ (sp : OpSpec) (w : Fields) (s : State) (f : Fire) (hw : Hw) (a : Loc), specOf (mk w) = some sp → Plain sp w s f →
    Turn s f → tokPsn f.a = false → formAddr s.hw f.core f.frame f.asid f.a 0 (accBytes w) 2 true true = .ok (hw, a) →
    (isRemote hw a = true → w.xf.extractLsb' 0 3 = 4 ∧ tokPsn f.b = false ∧ tokPsn f.c = false) →
    exec (mk w) s = .next (fired f s (accessSent f (countIssued (expose hw f.core f.site.seq) f.site w.ls.toNat) 3
      (.atomic sp.op.toNat f.b.value f.c.value (tokPsn f.b) (tokPsn f.c) (w.fn.getLsbD 2)) a (accBytes w) [] false))
  atomic .aadd ∧ atomic .asub ∧ atomic .amin ∧ atomic .amax ∧ atomic .aminz ∧ atomic .amaxz ∧ atomic .aand ∧ atomic .aor ∧ atomic .axor ∧
  atomic .axchg ∧ atomic .acas ∧ atomic .afadd ∧ atomic .aincw

/-- The value that each atomic writes, of n = 32 or 64 bits, from the old value and its operands; AFADD the sum of two BF16 or F32 numbers, rounded
once to nearest (07 R210 to R212, Table 7.6). -/
def Clauses.AtomicValues : Prop :=
  (∀ (m : Nat) (y z : Word),
    atomNew 0x193 2 m y z = some (fenc bf16 0 false (addV 0 (fdec bf16 m) (fdec bf16 (y.toNat % 2 ^ 16)))) ∧
    atomNew 0x193 4 m y z = some (fenc f32 0 false (addV 0 (fdec f32 m) (fdec f32 (y.toNat % 2 ^ 32))))) ∧
  ∀ (wb : Nat) (y z : Word), wb = 4 ∨ wb = 8 →
    ∀ m : BitVec (8 * wb),
      let u : BitVec (8 * wb) := y.setWidth _
      let new := fun (op : Nat) => (atomNew op wb m.toNat y z).map (BitVec.ofNat (8 * wb))
      new 0x188 = some (m + u) ∧ new 0x189 = some (m - u) ∧ new 0x18A = some (if u.slt m then u else m) ∧
      new 0x18B = some (if m.slt u then u else m) ∧ new 0x18C = some (if u.ult m then u else m) ∧ new 0x18D = some (if m.ult u then u else m) ∧
      new 0x18E = some (m &&& u) ∧ new 0x18F = some (m ||| u) ∧ new 0x190 = some (m ^^^ u) ∧ new 0x191 = some u ∧
      new 0x192 = (if m = u then some (z.setWidth _) else none) ∧
      new 0x194 = some (if u.ule m then 0 else m + 1) ∧
      (∀ op v, atomNew op wb m.toNat y z = some v → 0x188 ≤ op → op ≤ 0x194 → op ≠ 0x193 → v < 2 ^ (8 * wb))

/-- Atomics, as they leave the core and as they act at their homes (07 R210 to R212). -/
def Obligations.AtomicWords : Prop :=
  Clauses.AtomicWords ∧ Clauses.AtomicValues

/-- XLATE answers a PADDR of the page it finds, marked PX at the core; where it may mark no more it passes the address as DATA; a failure is a FAULT
token, or with mode bit 1 a fault; a poisoned address gives poison; a PADDR passes. LEAP adds an offset within the page of a PADDR, or to a VA, and gives a FAULT token where
the page ends; a FAULT token passes both (13 R341 to R343); that both take LSID 0's turn in chain mode is the model's reading (log 43). -/
def Obligations.AddressWords : Prop :=
  let done := fun (mk : Fields → Instr) (f : Fire) (s : State) (g : Except Stop Hw) =>
    ∀ hw, g = .ok hw → exec (mk f.w) s = .next (fired f s (countIssued hw f.site f.w.ls.toNat))
  let ready := fun (spc : OpSpec) (s : State) (f : Fire) => Plain spc f.w s f ∧ Turn s f
  (∀ (f : Fire) (hw hw' : Hw) (x : Xlat), setPx f hw x = .ok hw' → ∃ y ∈ (coreAt hw' f.core).tlb, xlSame y x = true ∧ y.px = true) ∧
  (∀ (s : State) (f : Fire) (hw hw' : Hw) (x : Xlat), ready specXlate s f → f.a.kind = .data → f.a.psn = false → f.b.value < 4 →
    xlateFind f s.hw f.a.value.toNat (f.b.value.toNat % 2) (f.b.value.getLsbD 0) = .ok (hw, x) →
    (((coreAt hw f.core).tlb.any fun y => xlSame y x && y.px) = true ∨ ((coreAt hw f.core).tlb.filter fun y => y.px).length < 32) →
    setPx f hw x = .ok hw' →
    let pa := x.pa + (f.a.value.toNat - x.va)
    done .xlate f s (emitAll f hw' [tokOf f .paddr (BitVec.ofNat 64 pa) f.psn (BitVec.ofNat 7
      (x.size + (if x.w then 4 else 0) + (if paLC pa = ownLC hw ∧ inAperture (paLocal pa) = true then 8 else 0)))])) ∧
  (∀ (s : State) (f : Fire) (hw : Hw) (x : Xlat), ready specXlate s f → f.a.kind = .data → f.a.psn = false → f.b.value < 4 →
    xlateFind f s.hw f.a.value.toNat (f.b.value.toNat % 2) (f.b.value.getLsbD 0) = .ok (hw, x) →
    ((coreAt hw f.core).tlb.any fun y => xlSame y x && y.px) = false → 32 ≤ ((coreAt hw f.core).tlb.filter fun y => y.px).length →
    done .xlate f s (out f hw f.a.value)) ∧
  (∀ (s : State) (f : Fire) (c d : Nat), ready specXlate s f → f.a.kind = .data → f.a.psn = false → f.b.value < 4 →
    xlateFind f s.hw f.a.value.toNat (f.b.value.toNat % 2) (f.b.value.getLsbD 0) = .error (.fault c d) →
    (f.b.value.getLsbD 1 = false →
      done .xlate f s (emitAll f (spendFail s.hw (dieOf f.core) (f.core % 64)) [tokOf f .fault f.a.value false (BitVec.ofNat 7 c)])) ∧
    (f.b.value.getLsbD 1 = true → exec (.xlate f.w) s = .next (faulted f s c d))) ∧
  (∀ (s : State) (f : Fire), ready specXlate s f → f.a.kind = .data → f.a.psn = true → f.b.value < 4 →
    done .xlate f s (emitAll f s.hw [tokOf f .data 0 true])) ∧
  (∀ (s : State) (f : Fire), ready specXlate s f → f.a.kind = .paddr → f.b.value < 4 → done .xlate f s (emitAll f s.hw [asSent f f.a])) ∧
  (∀ (s : State) (f : Fire), ready specXlate s f → f.a.kind = .fault → done .xlate f s (emitAll f s.hw [asSent f f.a])) ∧
  (∀ (s : State) (f : Fire), ready specLeap s f → f.a.kind = .fault → done .leap f s (emitAll f s.hw [asSent f f.a])) ∧
  (∀ (s : State) (f : Fire), ready specLeap s f → f.a.kind = .data → done .leap f s (out f s.hw (f.a.value + f.b.value))) ∧
  (∀ (s : State) (f : Fire), ready specLeap s f → f.a.kind = .paddr →
    let b : Nat := f.a.value.toNat % 2 ^ 56
    let page : Nat := pageBytes (f.a.aux.toNat % 4)
    let n : Int := (b : Int) + f.b.value.toInt
    (0 ≤ n → n / (page : Int) = ((b / page : Nat) : Int) → done .leap f s (emitAll f s.hw [tokOf f .paddr (BitVec.ofInt 64 n) f.psn f.a.aux])) ∧
    ((n < 0 ∨ n / (page : Int) ≠ ((b / page : Nat) : Int)) →
      done .leap f s (emitAll f s.hw [tokOf f .fault (BitVec.ofNat 64 (ofSigned 56 n)) false (BitVec.ofNat 7 cPROT)])))

/-! ## Streams, wrung tiles, sessions and row buffers (07 R214 to R224) -/

/-- A word answers, where its turn among the LSIDs has come and its operands satisfy `c`, with the hardware that `g` makes. -/
def ActsInTurn (mk : Fields → Instr) (c : Fire → State → Prop) (g : Fire → State → Except Stop Hw) : Prop :=
  ∀ (sp : OpSpec) (w : Fields) (s : State) (f : Fire) (hw : Hw), specOf (mk w) = some sp → Plain sp w s f → Turn s f → c f s →
    g f s = .ok hw → exec (mk w) s = .next (fired f s hw)

/-- A word faults, where its turn among the LSIDs has come, with what `g` says. -/
def FaultsInTurn (mk : Fields → Instr) (c : Fire → State → Prop) (g : Fire → State → Except Stop Hw) : Prop :=
  ∀ (sp : OpSpec) (w : Fields) (s : State) (f : Fire) (code detail : Nat), specOf (mk w) = some sp → Plain sp w s f → Turn s f → c f s →
    g f s = .error (.fault code detail) → exec (mk w) s = .next (faulted f s code detail)

/-- STREAM starts an idle generator with the descriptor that it reads, and waits for one that is not idle; a field that is not allowed is cause 15; an address that cannot be formed
faults; poisoned, be it the address or the descriptor, it sends its poison, a closing END and ORDER. STRMK answers a generator's state, cancels it, or waits for its end; that
it takes LSID 0's turn in chain mode is the model's reading (log 43) (07 R214, R218, R219, R426). -/
def Obligations.StreamWords : Prop :=
  let g := fun (f : Fire) => (f.w.xf.extractLsb' 0 1).toNat
  let issued := fun (f : Fire) (s : State) => countIssued s.hw f.site f.w.ls.toNat
  (∀ (w : Fields) (s : State) (f : Fire) (hw hw' : Hw) (a : Loc) (d : List Word), Plain specStream w s f → Turn s f → tokPsn f.a = false →
    formAddr s.hw f.core f.frame f.asid f.a 0 64 4 true false = .ok (hw, a) →
    (readRecord f s.mem hw a = .ok (hw', d, false) →
      (badStream d = none → (genAt hw' f.core (g f)).state = .idle →
        exec (.stream w) s = .next (fired f s (setGen (countIssued hw' f.site w.ls.toNat) f.core (g f) { state := .running, desc := d, site := some f.site }))) ∧
      (badStream d = none → (genAt hw' f.core (g f)).state ≠ .idle → exec (.stream w) s = .next (held s hw')) ∧
      (∀ i, badStream d = some i →
        exec (.stream w) s = .next (faulted f s cILLFIELD (15 + i * 2 ^ 5 + (d.getD i 0).toNat % 2 ^ 48 * 2 ^ 16)))) ∧
    (∀ hw1 hw2, readRecord f s.mem hw a = .ok (hw', d, true) →
      emit0 f (countIssued hw' f.site w.ls.toNat) [tokOf f .data 0 true, tokOf f .endm 0 false 0 3] = .ok hw1 → emit1 f hw1 [tokOf f .order] = .ok hw2 →
      exec (.stream w) s = .next (fired f s hw2))) ∧
  (∀ (w : Fields) (s : State) (f : Fire) (c d : Nat), Plain specStream w s f → Turn s f → tokPsn f.a = false →
    formAddr s.hw f.core f.frame f.asid f.a 0 64 4 true false = .error (.fault c d) → exec (.stream w) s = .next (faulted f s c d)) ∧
  ActsInTurn .stream (fun f _ => tokPsn f.a = true) (fun f s => do
    let hw ← emit0 f (issued f s) [tokOf f .data 0 true, tokOf f .endm 0 false 0 3]
    emit1 f hw [tokOf f .order]) ∧
  ActsInTurn .strmkQuery (fun _ _ => True) (fun f s =>
    let x := genAt s.hw f.core (g f)
    emitAll f (issued f s) [tokOf f .data (BitVec.ofNat 64 ((match x.state with | .idle => 0 | .running => 1 | .stopped => 2 | .cancelling => 3) +
      x.queue.length * 2 ^ 2 + (x.emitted - x.run) * 2 ^ 9))]) ∧
  ActsInTurn .strmkDrain (fun f s => (genAt s.hw f.core (g f)).state = .idle) (fun f s => emitAll f (issued f s) [tokOf f .order]) ∧
  ActsInTurn .strmkDrain (fun f s => (genAt s.hw f.core (g f)).state ≠ .idle) (fun f s =>
    let x := genAt s.hw f.core (g f)
    .ok (setGen (issued f s) f.core (g f) { x with waiters := x.waiters ++ [f.site] })) ∧
  ActsInTurn .strmkCancel (fun f s => (genAt s.hw f.core (g f)).state = .idle) (fun f s => emitAll f (issued f s) [tokOf f .order]) ∧
  ActsInTurn .strmkCancel (fun f s => (genAt s.hw f.core (g f)).state = .running) (fun f s =>
    let x := genAt s.hw f.core (g f)
    let hw := setGen (issued f s) f.core (g f) { x with waiters := x.waiters ++ [f.site] }
    .ok (setGen (forgetFails hw (dieOf f.core) (f.core % 64)) f.core (g f)
      { x with waiters := x.waiters ++ [f.site], state := .cancelling, record := {}, cancel := false, queue := [], emitted := x.emitted - x.run, run := 0
               endDue := false, fail := none })) ∧
  ActsInTurn .strmkCancel (fun f s => (genAt s.hw f.core (g f)).state = .cancelling) (fun f s =>
    let x := genAt s.hw f.core (g f)
    .ok (setGen (issued f s) f.core (g f) { x with waiters := x.waiters ++ [f.site] })) ∧
  (∀ (w : Fields) (s : State) (f : Fire), Plain specStrmkCancel w s f → Turn s f → (genAt s.hw f.core (g f)).state = .stopped →
    ∃ hw, exec (.strmkCancel w) s = .next (fired f s hw) ∧
      genAt hw f.core (g f) = { genAt s.hw f.core (g f) with waiters := (genAt s.hw f.core (g f)).waiters ++ [f.site], cancel := true })

/-- The positions of a walk and the ENDs that close after them: position n is at base plus each coordinate times its stride, and is empty
outside the tensor; the END after it has the highest enabled rank whose inner dimensions all end there (07 R215, Table 7.7). -/
def Obligations.WalkPositions : Prop :=
  ∀ (b w1 w2 w3 w4 w5 : Word) (n : Nat),
    let d : List Word := [b, w1, w2, w3, w4, w5, 0, 0]
    let cnt : Nat → Nat := fun k => (w1.extractLsb' (16 * k) 16).toNat + 1
    let step : Nat → Nat := fun k => match k with | 0 => n % cnt 0 | 1 => n / cnt 0 % cnt 1 | _ => n / (cnt 0 * cnt 1)
    let coord : Nat → Int := fun k => (w4.extractLsb' (16 * k) 16).toInt + step k
    let inside := ∀ k, k < 3 → 0 ≤ coord k ∧ coord k < (w5.extractLsb' (16 * k) 16).toNat
    let ends : Nat → Prop := fun r => ∀ k, k < r → step k + 1 = cnt k
    n < cnt 0 * cnt 1 * cnt 2 →
    gTotal d = cnt 0 * cnt 1 * cnt 2 ∧
    (inside → gAddr d n = some (((b.extractLsb' 0 48).toNat : Int) + coord 0 * (w2.extractLsb' 0 32).toInt + coord 1 * (w2.extractLsb' 32 32).toInt +
      coord 2 * (w3.extractLsb' 0 32).toInt)) ∧
    (¬ inside → gAddr d n = none) ∧
    (∀ r, 1 ≤ r → r ≤ 3 → ends r → w1.getLsbD (52 + r) = true → r ≤ gClose d n) ∧
    (gClose d n ≠ 0 → gClose d n ≤ 3 ∧ ends (gClose d n) ∧ w1.getLsbD (52 + gClose d n) = true)

/-- A word with a parameter word for a range on port b faults, where its turn has come, on one with a bit above 47 set or a stride that does not hold a row. -/
def RangeFaults (mk : Fields → Instr) : Prop :=
  ∀ (sp : OpSpec) (w : Fields) (s : State) (f : Fire), specOf (mk w) = some sp → Plain sp w s f → Turn s f → tokPsn f.a = false → tokPsn f.b = false →
    (2 ^ 48 ≤ f.b.value.toNat ∨ (f.b.value.extractLsb' 24 24 ≠ 0 ∧
      (f.b.value.extractLsb' 24 24).toNat < ((f.b.value.extractLsb' 0 12).toNat + 1) * accBytes w)) →
    exec (mk w) s = .next (faulted f s cILLFIELD (15 + f.b.value.toNat % 2 ^ 48 * 2 ^ 16))

/-- WRING, SPREAD, RPORT and LDRB check their ranges and start their units, or wait for one; what a check finds is a fault; poisoned, WRING sends its poison, SPREAD and RPORT open a
session that writes nothing, LDRB answers with poison (07 R220 to R224, R426). In which cluster WRING makes its residency entry, on which port a poisoned RPORT opens its
session and that bit 27 of RPORT's parameter is not looked at are the model's choices (log 44). -/
def Clauses.SessionWords : Prop :=
  let pages := fun (w : Fields) (f : Fire) (hw : Hw) (rd : Bool) (cols rows stride : Nat) =>
    rangeAt f.site f.a { w := accBytes w, acc := 6, needR := rd, needW := !rd } hw rows (cols * accBytes w) stride
  let unused := fun (f : Fire) (hw : Hw) => ((coreAt hw f.core).spread.all fun x => !spreadIs f.site.elem f.site.slot x.2) = true
  (∀ (w : Fields) (s : State) (f : Fire) (cols rows stride : Nat), Plain (specWring w) w s f → Turn s f → tokPsn f.a = false →
    tokPsn f.b = false → rangeParam f.b.value (accBytes w) = .ok (cols, rows, stride) →
    (w.fn.getLsbD 3 = true → 2 ^ 32 ≤ f.c.value.toNat →
      exec (.wring w) s = .next (faulted f s cILLFIELD (10 + 2 * 2 ^ 5 + f.c.value.toNat % 2 ^ 48 * 2 ^ 16))) ∧
    ((w.fn.getLsbD 3 = true → f.c.value.toNat < 2 ^ 32) →
      (∀ hw r u, pages w f s.hw true cols rows stride = .ok (hw, r) → freeSpread hw f.core = some u →
        let hw1 := countIssued (expose hw f.core f.site.seq) f.site w.ls.toNat
        exec (.wring w) s = .next (fired f s (setSpread
          (if w.fn.getLsbD 3 then (resMake hw1 (tileOf r.base / 16) { state := .filling, pin := false, asid := f.asid, tref := f.c.value.setWidth 32
                                                                      loc := tileOf r.base % 16, bytes := 0, offset := r.base % 2 ^ 19, made := 0 }).1 else hw1)
          f.core u (.wring f.site r (accBytes w) cols (w.fn.getLsbD 2) 0 0 0 (if w.fn.getLsbD 3 then some (tileOf r.base / 16, hw1.ids) else none))))) ∧
      (∀ hw r, pages w f s.hw true cols rows stride = .ok (hw, r) → freeSpread hw f.core = none → exec (.wring w) s = .next (held s hw)) ∧
      (∀ c d, pages w f s.hw true cols rows stride = .error (.fault c d) → exec (.wring w) s = .next (faulted f s c d)))) ∧
  RangeFaults .wring ∧ RangeFaults .spread ∧
  ActsInTurn .wring (fun f _ => tokPsn f.a = true ∨ tokPsn f.b = true) (fun f s => do
    let hw ← emit0 f (countIssued s.hw f.site f.w.ls.toNat) [tokOf f .data 0 true, tokOf f .endm 0 false 0 2]
    emit1 f hw [tokOf f .order]) ∧
  (∀ (w : Fields) (s : State) (f : Fire) (cols rows stride : Nat), Plain specSpread w s f → Turn s f → tokPsn f.a = false →
    tokPsn f.b = false → rangeParam f.b.value (accBytes w) = .ok (cols, rows, stride) →
    (∀ hw r u, pages w f s.hw false cols rows stride = .ok (hw, r) → unused f hw → freeSpread hw f.core = some u →
      exec (.spread w) s = .next (fired f s (setSpread (countIssued (expose hw f.core f.site.seq) f.site w.ls.toNat) f.core u
        (.spread f.site r (accBytes w) cols 0 0 false [])))) ∧
    (∀ hw r, pages w f s.hw false cols rows stride = .ok (hw, r) → (¬ unused f hw ∨ freeSpread hw f.core = none) → exec (.spread w) s = .next (held s hw)) ∧
    (∀ c d, pages w f s.hw false cols rows stride = .error (.fault c d) → exec (.spread w) s = .next (faulted f s c d))) ∧
  ActsInTurn .spread (fun f s => (tokPsn f.a = true ∨ tokPsn f.b = true) ∧ unused f s.hw ∧ freeSpread s.hw f.core = some 0) (fun f s =>
    .ok (setSpread (countIssued (expose s.hw f.core f.site.seq) f.site f.w.ls.toNat) f.core 0
      (.spread f.site { tok := f.a, base := 0, rows := 0, len := 0, stride := 0 } 1 0 0 0 true []))) ∧
  (∀ (w : Fields) (s : State) (f : Fire), Plain specRport w s f → Turn s f → tokPsn f.a = false → tokPsn f.b = false →
    let n := (f.b.value.extractLsb' 0 24).toNat + 1
    let op := (f.b.value.extractLsb' 24 3).toNat
    let fmt := f.b.value.extractLsb' 28 4
    let good := f.b.value.toNat < 2 ^ 32 ∧ op ≤ 4 ∧ rportFmt fmt.toNat (accBytes w) = true ∧ (op = 3 → fmt < 8)
    let formed := rangeAt f.site f.a { w := accBytes w, acc := 7, needR := true, needW := true } s.hw 1 (n * accBytes w) (n * accBytes w)
    (¬ good → exec (.rport w) s = .next (faulted f s cILLFIELD (15 + f.b.value.toNat % 2 ^ 48 * 2 ^ 16))) ∧
    (∀ hw r, good → formed = .ok (hw, r) → tileOf r.base / 2 ≠ f.core →
      exec (.rport w) s = .next (faulted f s cILLFIELD (10 + f.a.value.toNat % 2 ^ 48 * 2 ^ 16))) ∧
    (∀ hw r, good → formed = .ok (hw, r) → tileOf r.base / 2 = f.core →
      let idle := tfind (coreAt hw f.core).rport (tileOf r.base % 2) = none ∧
        ((coreAt hw f.core).rport.all fun y => !(y.2.site.elem = f.site.elem && y.2.site.slot = f.site.slot)) = true
      (idle → exec (.rport w) s = .next (fired f s (modCore (countIssued (expose hw f.core f.site.seq) f.site w.ls.toNat) f.core fun k =>
        { k with rport := tins k.rport (tileOf r.base % 2) { site := f.site, range := r, n := n, w := accBytes w, op := op, fmt := fmt } }))) ∧
      (¬ idle → exec (.rport w) s = .next (held s hw))) ∧
    (∀ c d, good → formed = .error (.fault c d) → exec (.rport w) s = .next (faulted f s c d))) ∧
  ActsInTurn .rport (fun f s => (tokPsn f.a = true ∨ tokPsn f.b = true) ∧ (coreAt s.hw f.core).rport = []) (fun f s =>
    .ok (modCore (countIssued (expose s.hw f.core f.site.seq) f.site f.w.ls.toNat) f.core fun k =>
      { k with rport := tins k.rport (f.a.value.toNat / 2 ^ 19 % 2)
                 { site := f.site, range := { tok := f.a, base := 0, rows := 0, len := 0, stride := 0 }, n := 0, w := 1, op := 0, fmt := 0, dead := true } })) ∧
  (∀ (w : Fields) (s : State) (f : Fire), Plain specLdrb w s f → Turn s f → tokPsn f.a = false → tokPsn f.b = false →
    let formed := formAddr s.hw f.core f.frame f.asid f.a 0 512 5 true false
    let here := fun (hw : Hw) (a : Loc) => isRemote hw a = false ∧ inAperture (paLocal a.pa) = true ∧ tileOf (paLocal a.pa) / 2 = f.core
    (3 < f.b.value → exec (.ldrb w) s = .next (faulted f s cILLFIELD (10 + 1 * 2 ^ 5 + f.b.value.toNat % 2 ^ 48 * 2 ^ 16))) ∧
    (∀ hw a, f.b.value ≤ 3 → formed = .ok (hw, a) → here hw a → rowInUse (coreAt hw f.core) f.b.value.toNat = false →
      exec (.ldrb w) s = .next (fired f s ((List.range 8).foldl (fun hw i =>
        postAccess hw (accessOf f hw 8 (.rowLine f.b.value.toNat i) { a with pa := a.pa + 64 * i } 64)) (countIssued hw f.site w.ls.toNat)))) ∧
    (∀ hw a, f.b.value ≤ 3 → formed = .ok (hw, a) → here hw a → rowInUse (coreAt hw f.core) f.b.value.toNat = true → exec (.ldrb w) s = .next (held s hw)) ∧
    (∀ hw a, f.b.value ≤ 3 → formed = .ok (hw, a) → ¬ here hw a →
      exec (.ldrb w) s = .next (faulted f s cILLFIELD (10 + f.a.value.toNat % 2 ^ 48 * 2 ^ 16))) ∧
    (∀ c d, f.b.value ≤ 3 → formed = .error (.fault c d) → exec (.ldrb w) s = .next (faulted f s c d))) ∧
  ActsInTurn .ldrb (fun f _ => tokPsn f.a = true ∨ tokPsn f.b = true)
    (fun f s => emitAll f (countIssued s.hw f.site f.w.ls.toNat) [tokOf f .data 0 true])

/-- A parameter word gives columns, rows and a stride that holds a row; a range that is found lies in one memory tile of this package, with its base, and its second row, aligned
(07 R220). -/
def Clauses.RangesFound : Prop :=
  (∀ (b : Word) (w cols rows stride : Nat), rangeParam b w = .ok (cols, rows, stride) ↔
    cols = (b.extractLsb' 0 12).toNat + 1 ∧ rows = (b.extractLsb' 12 12).toNat + 1 ∧ b.toNat < 2 ^ 48 ∧ cols * w ≤ stride ∧
      stride = (if b.extractLsb' 24 24 = 0 then cols * w else (b.extractLsb' 24 24).toNat)) ∧
  (∀ (s : Site) (t : Token) (u : RangeUse) (hw hw' : Hw) (rows len stride tail : Nat) (r : TileRange), rangeAt s t u hw rows len stride tail = .ok (hw', r) →
    inAperture r.base = true ∧ r.base % 2 ^ 19 + (if tail = 0 then (rows - 1) * stride + len else rows * stride + tail) ≤ 2 ^ 19 ∧
    baseNum t % u.w = 0 ∧ (rows ≠ 1 → u.steps = true → (baseNum t + stride) % u.w = 0) ∧
    r.tok = t ∧ r.rows = rows ∧ r.len = len ∧ r.stride = stride ∧ r.tail = tail ∧ r.stale = false)

/-- The session words, and the ranges that they find (07 R220 to R224, R426). -/
def Obligations.SessionWords : Prop := Clauses.SessionWords ∧ Clauses.RangesFound


/-! ## Matrix words (08 R230 to R252, 01 R29 to R31) -/

/-- The hardware after a command is queued at a macro of the firing's core, behind those that stand there (08 R234). -/
def queuedAt (f : Fire) (hw : Hw) (m : Nat) (body : MCmdBody) : Hw :=
  let hw1 := modCore (expose hw f.core f.site.seq) f.core fun k => { k with mstamp := k.mstamp + 1 }
  setMacro hw1 f.core m { macroAt hw f.core m with
    queue := (macroAt hw f.core m).queue ++ [{ body := body, stamp := (coreAt hw f.core).mstamp, site := f.site }] }

/-- A macro has room in its command queue, which holds eight (08 R234). -/
def macroRoom (f : Fire) (s : State) (m : Nat) : Prop := (macroAt s.hw f.core m).queue.length < 8

/-- MCFG, MLDB, MSWAP, MBC, MBCW and MCHK check their parameter word and queue their command at its macro, or wait while eight stand there; a broadcast that does not fire, or
that has a NULL on port a, queues one that adds no partial, and answers NULL at once. MLDB's panel is checked and translated when it fires, with the format that it will find:
its checks and its panel may fault (08 R234, R240 to R245, R250; that the poison of its base is ignored is the model's reading, log 47). -/
def Clauses.MacroWords : Prop :=
  let n := fun (f : Fire) => f.b.value.toNat
  let m := fun (f : Fire) => f.b.value.toNat % 8
  let cols := fun (fw : Nat) => if fw = 13 then 512 else if fw = 9 ∨ fw = 10 ∨ fw = 15 then 128 else 256
  let cfgFits := fun (f : Fire) => n f < 2 ^ 19 ∧ n f / 2 ^ 3 % 2 ^ 5 = 0 ∧ n f / 2 ^ 8 + cols (f.w.xf.toNat % 16) ≤ 2048
  let bcast := fun (f : Fire) (psn isNull isW : Bool) =>
    MCmdBody.mbc (n f / 2 ^ 3 % 4) (n f / 2 ^ 5 % 4) (n f / 2 ^ 7 % 2 ^ 8 + 1) f.b.value psn isNull isW
  let outOf := fun (f : Fire) => 10 + 1 * 2 ^ 5 + n f % 2 ^ 48 * 2 ^ 16
  let waits := fun (mk : Fields → Instr) (c : Fire → Prop) (mac : Fire → Nat) =>
    ∀ (sp : OpSpec) (w : Fields) (s : State) (f : Fire), specOf (mk w) = some sp → Plain sp w s f → c f →
      8 ≤ (macroAt s.hw f.core (mac f)).queue.length → exec (mk w) s = .next (held s s.hw)
  Acts .mcfg (fun f s => cfgFits f ∧ macroRoom f s (m f))
    (fun f s => .ok (queuedAt f s.hw (m f) (.mcfg (f.w.xf.extractLsb' 4 4) (f.w.xf.extractLsb' 0 4) (n f / 2 ^ 8) f.b.psn))) ∧
  Faults .mcfg (fun f _ => ¬ cfgFits f) cILLFIELD outOf ∧ waits .mcfg cfgFits m ∧
  Acts .mswap (fun f s => n f < 8 ∧ macroRoom f s (n f)) (fun f s => .ok (queuedAt f s.hw (n f) .mswap)) ∧
  Faults .mswap (fun f _ => 8 ≤ n f) cILLFIELD outOf ∧ waits .mswap (fun f => n f < 8) n ∧
  Acts .mchk (fun f s => n f < 16 ∧ macroRoom f s (m f)) (fun f s => .ok (queuedAt f s.hw (m f) (.mchk (f.b.value.getLsbD 3)))) ∧
  Faults .mchk (fun f _ => 16 ≤ n f) cILLFIELD outOf ∧ waits .mchk (fun f => n f < 16) m ∧
  (∀ isW : Bool,
    let mk := if isW then Instr.mbcw else Instr.mbc
    Acts mk (fun f s => n f < 2 ^ 15 ∧ macroRoom f s (m f)) (fun f s => .ok (queuedAt f s.hw (m f) (bcast f (tokPsn f.a) false isW))) ∧
    Faults mk (fun f _ => 2 ^ 15 ≤ n f) cILLFIELD outOf ∧ waits mk (fun f => n f < 2 ^ 15) m ∧
    (∀ (sp : OpSpec) (w : Fields) (s : State) (f : Fire) (hw : Hw), specOf (mk w) = some sp → Live sp w s f → anyEnd f.data = false → f.a.kind = .null →
      n f < 2 ^ 15 → macroRoom f s (m f) →
      (let hw1 := queuedAt f s.hw (m f) (bcast f false true isW)
       let t := tokOf f .null 0 false f.a.aux
       if isW then emit0 f hw1 [t] else emitAll f hw1 [t]) = .ok hw →
      exec (mk w) s = .next (fired f s hw)) ∧
    (∀ (sp : OpSpec) (w : Fields) (s : State) (f : Fire) (hw : Hw), specOf (mk w) = some sp → Ready sp w s f → f.queued = false → anyEnd f.data = false →
      predOf w.pr f.p = .notFire → n f < 2 ^ 15 → macroRoom f s (m f) →
      (let hw1 := queuedAt f s.hw (m f) (bcast f false true isW)
       if isW then emit0 f hw1 [tokOf f .null] else emitAll f hw1 [tokOf f .null]) = .ok hw →
      exec (mk w) s = .next (fired f s hw))) ∧
  Faults .mldb (fun f _ => 2 ^ 44 ≤ n f) cILLFIELD outOf ∧
  (∀ (w : Fields) (s : State) (f : Fire), Plain specMldb w s f → n f < 2 ^ 44 →
    let rows := n f % 2 ^ 8 + 1
    let cs := n f / 2 ^ 8 % 2 ^ 9 + 1
    let mac := n f / 2 ^ 41 % 8
    let lf := lfmtQueued (macroAt s.hw f.core mac)
    let bits := if lf = 13 then 4 else if lf = 9 ∨ lf = 10 ∨ lf = 15 then 16 else 8
    let rowLen := (cs * bits + 7) / 8
    let stride := if n f / 2 ^ 17 % 2 ^ 24 = 0 then rowLen else n f / 2 ^ 17 % 2 ^ 24
    let table := if 14 ≤ lf then (rows + 31) / 32 * cs else 0
    let use : RangeUse := { w := if bits = 16 then 2 else 1, acc := 5, needR := true, needW := false, unit := 0, steps := false }
    let found := rangeAt f.site f.a use s.hw rows rowLen stride table
    (cols lf < cs ∨ stride < rowLen → exec (.mldb w) s = .next (faulted f s cILLFIELD (15 + n f % 2 ^ 48 * 2 ^ 16))) ∧
    (cs ≤ cols lf → rowLen ≤ stride →
      (∀ c d, found = .error (.fault c d) → exec (.mldb w) s = .next (faulted f s c d)) ∧
      (∀ hw r, found = .ok (hw, r) → tileOf r.base / 2 ≠ f.core →
        exec (.mldb w) s = .next (faulted f s cILLFIELD (10 + f.a.value.toNat % 2 ^ 48 * 2 ^ 16))) ∧
      (∀ hw r, found = .ok (hw, r) → tileOf r.base / 2 = f.core → 8 ≤ (macroAt hw f.core mac).queue.length → exec (.mldb w) s = .next (held s hw)) ∧
      (∀ hw r, found = .ok (hw, r) → tileOf r.base / 2 = f.core → (macroAt hw f.core mac).queue.length < 8 →
        exec (.mldb w) s = .next (fired f s (queuedAt f hw mac (.mldb r f.b.value f.b.psn))))))

/-- The hardware in which a node instruction has its place in its core's issue order, and that instruction (08 R236). -/
def nodePosted (f : Fire) (s : State) (body : NCmdBody) (n0 cnt : Nat) : Hw × NCmd :=
  let hw := expose s.hw f.core f.site.seq
  (modCore hw f.core fun k => { k with mstamp := k.mstamp + 1 },
   { body := body, n0 := n0, cnt := cnt, stamp := (coreAt hw f.core).mstamp, site := f.site })

/-- ACCSET, ACCCNT, ACCRD and ACCCLR act on their range of nodes at once where nothing issued before stands in the way, else they are posted; what each does there: ACCSET
sets window and mode of nodes that have taken nothing since they were cleared, ACCCNT arms a range of unarmed nodes as one group, ACCRD sends the values and their flags, and
clears if it is to; each faults where it cannot; ACCCLR clears. A parameter word that is out of range faults (08 R236, R238, R240, R246 to R249). -/
def Clauses.NodeWords : Prop :=
  let c := fun (f : Fire) => f.c.value.toNat
  let n0 := fun (f : Fire) => f.b.value.toNat % 2 ^ 11
  let cnt := fun (f : Fire) => f.b.value.toNat / 2 ^ 11 % 2 ^ 11 + 1
  let fmt := fun (f : Fire) => f.w.xf.extractLsb' 0 4
  let sat := fun (f : Fire) => f.w.xf.getLsbD 8
  let clr := fun (f : Fire) => f.w.xf.getLsbD 9
  let fits2 := fun (f : Fire) => n0 f + cnt f ≤ 2048 ∧ f.b.value.toNat / 2 ^ 22 % 4 = 0
  let fits1 := fun (f : Fire) => n0 f + cnt f ≤ 2048 ∧ f.b.value.toNat < 2 ^ 22
  let setFits := fun (f : Fire) => c f / 2 ^ 18 % 2 ^ 6 = 0
  let cntFits := fun (f : Fire) => 1 ≤ c f % 2 ^ 14 ∧ c f % 2 ^ 14 ≤ 8192 ∧ (clr f = false → c f / 2 ^ 14 % 2 ^ 10 = 0)
  let bad1 := fun (f : Fire) => 10 + 1 * 2 ^ 5 + f.b.value.toNat % 2 ^ 48 * 2 ^ 16
  let bad2 := fun (f : Fire) => 10 + 2 * 2 ^ 5 + f.c.value.toNat % 2 ^ 48 * 2 ^ 16
  let issues := fun (mk : Fields → Instr) (ok : Fire → Prop) (body : Fire → NCmdBody) =>
    Acts mk (fun f s => ok f ∧ nodeReady (nodePosted f s (body f) (n0 f) (cnt f)).1 f.core (nodePosted f s (body f) (n0 f) (cnt f)).2 = true)
      (fun f s => do
        let p := nodePosted f s (body f) (n0 f) (cnt f)
        let hw ← nodeEffect p.1 f.core p.2
        .ok (matSettle hw f.core)) ∧
    (∀ (sp : OpSpec) (w : Fields) (s : State) (f : Fire) (code d : Nat), specOf (mk w) = some sp → Plain sp w s f → ok f →
      let p := nodePosted f s (body f) (n0 f) (cnt f)
      nodeReady p.1 f.core p.2 = true → nodeEffect p.1 f.core p.2 = .error (.fault code d) → exec (mk w) s = .next (faulted f s code d)) ∧
    Acts mk (fun f s => ok f ∧ nodeReady (nodePosted f s (body f) (n0 f) (cnt f)).1 f.core (nodePosted f s (body f) (n0 f) (cnt f)).2 = false)
      (fun f s =>
        let p := nodePosted f s (body f) (n0 f) (cnt f)
        .ok (modCore p.1 f.core fun k => { k with ncmds := k.ncmds ++ [p.2] }))
  issues .accset (fun f => fits2 f ∧ setFits f) (fun f =>
    .set (BitVec.ofNat 11 (c f)).toInt (c f / 2 ^ 11 % 2 ^ 6) (f.c.value.getLsbD 17) (f.b.psn || f.c.psn)) ∧
  issues .acccnt (fun f => fits2 f ∧ cntFits f) (fun f =>
    .cnt (c f % 2 ^ 14) (c f / 2 ^ 14 % 2 ^ 10 + 1) (fmt f) (sat f) (clr f) (f.b.psn || f.c.psn)) ∧
  issues .accrd fits1 (fun f => .rd (fmt f) (sat f) (clr f)) ∧
  issues .accclr fits1 (fun _ => .clr) ∧
  (∀ mk ∈ [Instr.accset, Instr.acccnt], Faults mk (fun f _ => ¬ fits2 f) cILLFIELD bad1) ∧
  (∀ mk ∈ [Instr.accrd, Instr.accclr], Faults mk (fun f _ => ¬ fits1 f) cILLFIELD bad1) ∧
  Faults .accset (fun f _ => fits2 f ∧ ¬ setFits f) cILLFIELD bad2 ∧
  Faults .acccnt (fun f _ => fits2 f ∧ ¬ cntFits f) cILLFIELD bad2 ∧
  (∀ (hw hw' : Hw) (k : Nat) (q : NCmd) (b0 : Int) (h : Nat) (trunc psn : Bool), q.body = .set b0 h trunc psn → nodeEffect hw k q = .ok hw' →
    (∀ n, q.n0 ≤ n → n < q.n0 + q.cnt → (nodeAt hw k n).parts = 0 ∧
      nodeAt hw' k n = { nodeAt hw k n with b0 := b0, h := h, trunc := trunc, l := b0, psn := (nodeAt hw k n).psn || psn }) ∧
    (∀ n, (n < q.n0 ∨ q.n0 + q.cnt ≤ n) → nodeAt hw' k n = nodeAt hw k n)) ∧
  (∀ (hw : Hw) (k : Nat) (q : NCmd) (b0 : Int) (h : Nat) (trunc psn : Bool) (n : Nat), q.body = .set b0 h trunc psn → q.n0 ≤ n → n < q.n0 + q.cnt →
    (nodeAt hw k n).parts ≠ 0 → (∀ j, q.n0 ≤ j → j < n → (nodeAt hw k j).parts = 0) →
    nodeEffect hw k q = .error (.fault cILLFIELD (16 + 0 * 2 ^ 5 + n * 2 ^ 8))) ∧
  (∀ (hw : Hw) (k : Nat) (q : NCmd) (cn r : Nat) (fm : BitVec 4) (sat clr psn : Bool), q.body = .cnt cn r fm sat clr psn →
    (∀ n, q.n0 ≤ n → n < q.n0 + q.cnt → (nodeAt hw k n).group ≠ none → (∀ j, q.n0 ≤ j → j < n → (nodeAt hw k j).group = none) →
      nodeEffect hw k q = .error (.fault cILLFIELD (16 + 1 * 2 ^ 5 + n * 2 ^ 8))) ∧
    ((∀ n, q.n0 ≤ n → n < q.n0 + q.cnt → (nodeAt hw k n).group = none) → ∃ hw', nodeEffect hw k q = .ok hw' ∧
      (coreAt hw' k).groups = (coreAt hw k).groups ++
        [{ id := hw.ids, n0 := q.n0, cnt := q.cnt, c := cn, r := r, fmt := fm, sat := sat, clr := clr, site := q.site }] ∧
      (∀ n, q.n0 ≤ n → n < q.n0 + q.cnt →
        nodeAt hw' k n = { nodeAt hw k n with group := some hw.ids, count := 0, psn := (nodeAt hw k n).psn || psn }) ∧
      (∀ n, (n < q.n0 ∨ q.n0 + q.cnt ≤ n) → nodeAt hw' k n = nodeAt hw k n))) ∧
  (∀ (hw : Hw) (k : Nat) (q : NCmd) (fm : BitVec 4) (sat clr : Bool), q.body = .rd fm sat clr →
    let ids := rangeNodes q.n0 q.cnt
    let valueOf := fun n => nodeValue (nodeAt hw k n) fm.toNat sat
    let free := clr = true → ∀ n ∈ ids, (nodeAt hw k n).group = none
    (∀ n, clr = true → q.n0 ≤ n → n < q.n0 + q.cnt → (nodeAt hw k n).group ≠ none → (∀ j, q.n0 ≤ j → j < n → (nodeAt hw k j).group = none) →
      nodeEffect hw k q = .error (.fault cILLFIELD (16 + 3 * 2 ^ 5 + n * 2 ^ 8))) ∧
    (∀ n, free → q.n0 ≤ n → n < q.n0 + q.cnt → valueOf n = none → (∀ j, q.n0 ≤ j → j < n → valueOf j ≠ none) →
      nodeEffect hw k q = .error (.fault cRANGE n)) ∧
    (∀ hw1 hw2, free → (∀ n ∈ ids, valueOf n ≠ none) →
      emitList hw q.site (siteSrc q.site) q.site.t0 (packNodes q.site.tag fm.toNat (ids.map fun n => ((valueOf n).getD 0, (nodeAt hw k n).psn))) = .ok hw1 →
      emitList hw1 q.site (siteSrc q.site) q.site.t1 [mkTok 0 q.site.tag .data (flagWord (ids.map (nodeAt hw k)) 0)] = .ok hw2 →
      nodeEffect hw k q = .ok (if clr then clearRange hw2 k q.n0 q.cnt else hw2))) ∧
  (∀ (hw hw' : Hw) (k : Nat) (q : NCmd), q.body = .clr → nodeEffect hw k q = .ok hw' →
    ∀ n, q.n0 ≤ n → n < q.n0 + q.cnt → nodeAt hw' k n =
      { b0 := (nodeAt hw k n).b0, h := (nodeAt hw k n).h, trunc := (nodeAt hw k n).trunc, l := (nodeAt hw k n).b0 })

/-- The matrix words: macro commands, and node instructions (08). -/
def Obligations.MatrixWords : Prop :=
  Clauses.MacroWords ∧ Clauses.NodeWords

/-- A node adds a partial p x 2^q exactly wherever its low bits lie at or above the node's floor, and else rounds it down to the floor and says so; a partial that reaches
the window's top, or one past 65536, faults; NaN is remembered (01 R30, 08 R252). -/
def Obligations.NodeArithmetic : Prop :=
  ∀ (n : Node) (x : Partial),
    let floor : Int := if n.trunc then n.b0 else n.b0 - n.h
    let exact := ∃ k : Int, (floor ≤ x.q ∨ x.p = k * 2 ^ (floor - x.q).toNat)
    let big := if x.q ≤ floor + 191 then (2 : Int) ^ (floor + 191 - x.q).toNat ≤ x.p.natAbs else x.p ≠ 0
    (65536 ≤ n.parts → addPartial n x = .error (1, n)) ∧
    (n.parts < 65536 → x.nan = true → ∃ n', addPartial n x = .ok n' ∧ n'.nan = true ∧ n'.s = n.s ∧ n'.l = n.l ∧ n'.parts = n.parts + 1) ∧
    (n.parts < 65536 → x.nan = false → big → ∃ n', addPartial n x = .error (0, n') ∧ n'.s = n.s ∧ n'.l = n.l ∧ n'.parts = n.parts) ∧
    (n.parts < 65536 → x.nan = false → ¬ big → ∃ n', addPartial n x = .ok n' ∧ n'.parts = n.parts + 1 ∧ n'.nan = n.nan ∧
      n'.psn = (n.psn || x.psn) ∧ n'.b0 = n.b0 ∧ n'.h = n.h ∧ n'.trunc = n.trunc ∧ n'.l ≤ n.l ∧
      (exact → n'.lost = n.lost ∧ ∀ m : Int, m ≤ n.l → m ≤ n'.l → m ≤ x.q →
        n'.s * 2 ^ (n'.l - m).toNat = n.s * 2 ^ (n.l - m).toNat + x.p * 2 ^ (x.q - m).toNat) ∧
      (¬ exact → n'.lost = true ∧ ∃ u : Int, u * 2 ^ (floor - x.q).toNat ≤ x.p ∧ x.p < (u + 1) * 2 ^ (floor - x.q).toNat ∧
        ∀ m : Int, m ≤ n.l → m ≤ n'.l → m ≤ floor →
          n'.s * 2 ^ (n'.l - m).toNat = n.s * 2 ^ (n.l - m).toNat + u * 2 ^ (floor - m).toNat))

/-! ## What a macro and a node do when the word has left (08 R233, R237, R241 to R245, R250, R252) -/

/-- The answer of a command whose effect is done: tokens to both targets of its word. -/
def answered (hw : Hw) (q : MCmd) (t : Token) : Hw := settle hw q.site (emitBoth hw q.site [{ t with tag := q.site.tag }])

/-- The command at the head of a macro's queue takes effect while the macro's output is free: MCFG sets formats and base, MLDB loads the shadow array, MSWAP exchanges
the arrays, MCHK compares the checksums, a broadcast puts its partials at the output, and the output's contributions reach their nodes once all may take them, or are
held there by groups that have not released; a partial that a node cannot take stops there; T1 of MBCW learns how many partials were delivered or held. A panel that is not
allowed, or that is no longer one of the format in force or may no longer be read (logs 62 and 74), a checksum that differs, a segment or a node range beyond its end is the fault of the word that queued the command. Of 8-bit integers, a partial is the dot product of 32 elements of A and a column of B (08 R233, R237, R241 to R245, R250). -/
def Obligations.MatrixEvents : Prop :=
  (∀ (s : State) (c m : Nat) (q : MCmd) (x : Macro), headCmd s.hw c m = some (q, x) →
    let ends := fun (hw : Hw) => (Host.Outcome.next { s with hw := matSettle hw c } : Res State)
    (∀ fa fw nb psn, q.body = .mcfg fa fw nb psn → exec (.mcfgEffect c m) s =
      ends (answered (setMacro s.hw c m { x with afmt := fa, lfmt := fw, nbase := nb, cpsn := psn }) q (mkTok 0 0 .order))) ∧
    (q.body = .mswap → exec (.mswapEffect c m) s =
      ends (answered (setMacro s.hw c m { x with active := x.shadow, shadow := x.active }) q (mkTok 0 0 .order))) ∧
    (∀ range par psn, q.body = .mldb range par psn →
      let cols := par.toNat / 2 ^ 8 % 2 ^ 9 + 1
      let found := mldbPanelNow q.site x.lfmt.toNat (7 + m) par s.hw range
      let shape := panelShape x.lfmt.toNat par
      (range.stale = false → cols ≤ columnsOf x.lfmt.toNat → range.rows = shape.1 → range.stride = shape.2.2 →
        range.len = rowBytes x.lfmt.toNat cols → range.tail = tableBytes x.lfmt.toNat shape.1 cols → found = .ok (s.hw, range)) ∧
      (columnsOf x.lfmt.toNat < cols → found = .error (.fault cILLFIELD (15 + par.toNat % 2 ^ 48 * 2 ^ 16))) ∧
      (∀ hw r, found = .ok (hw, r) →
        (panelBad s.mem x.lfmt.toNat r.base r.rows cols r.stride = false → ∃ a : Arr, a.wfmt = x.lfmt ∧ a.wcols = cols ∧ a.bad = false ∧
          exec (.mldbEffect c m) s = ends (answered (setMacro hw c m { x with shadow := a }) q (mkTok 0 0 .order)) ∧
          (x.lfmt.toNat < 2 → ∀ i j, i < r.rows → j < cols → r.rows ≤ 256 → cols ≤ 256 →
            tget a.words 0 (i * 512 + j) = (memByte s.mem (r.base + i * r.stride + j)).setWidth 16)) ∧
        (panelBad s.mem x.lfmt.toNat r.base r.rows cols r.stride = true → exec (.mldbEffect c m) s =
          ends (lateFault (setMacro s.hw c m x) q.site cILLFIELD (15 + par.toNat % 2 ^ 48 * 2 ^ 16) (.macro_ m q)))) ∧
      (∀ hw, found = .error (.wait hw) → exec (.mldbEffect c m) s = .next { s with hw := { hw with waited := true } }) ∧
      (∀ code d, found = .error (.fault code d) → exec (.mldbEffect c m) s =
        ends (lateFault (setMacro s.hw c m x) q.site code d (.macro_ m q)))) ∧
    (∀ sh, q.body = .mchk sh →
      let a := if sh then x.shadow else x.active
      ((∀ i, i < 256 → rowSum a i = tget a.ckRow 0 i) → (∀ j, j < 512 → colSum a j = tget a.ckCol 0 j) →
        exec (.mchkEffect c m) s = ends (answered (setMacro s.hw c m x) q (mkTok 0 0 .data))) ∧
      (∀ row col, row = (List.range 256).find? (fun i => rowSum a i != tget a.ckRow 0 i) →
        col = (List.range 512).find? (fun j => colSum a j != tget a.ckCol 0 j) → (row.isSome = true ∨ col.isSome = true) →
        let marked := if sh then { x with shadow := { a with bad := true } } else { x with active := { a with bad := true } }
        let d := m + (if sh then 1 else 0) * 2 ^ 3 + (if row.isSome then 1 else 0) * 2 ^ 4 + (if col.isSome then 1 else 0) * 2 ^ 5 +
          row.getD 0 * 2 ^ 8 + col.getD 0 * 2 ^ 16
        exec (.mchkEffect c m) s = ends (lateFault (setMacro s.hw c m marked) q.site cCHECKSUM d (.macro_ m q)))) ∧
    (∀ rb seg rows spec psn isW, q.body = .mbc rb seg rows spec psn false isW →
      let w := elemBits x.afmt.toNat
      let parts := (List.range x.active.wcols).map fun j => (x.nbase + j, columnPartials (coreAt s.hw c) x rb seg rows psn j)
      let o : MOut := { stamp := q.stamp, site := q.site, isW := isW, isNull := false, total := 0, psn := false, parts := parts }
      let hw := setMacro s.hw c m { x with out := some o }
      (seg * 32 * w + 32 * w ≤ 512 → x.nbase + x.active.wcols ≤ 2048 → exec (.broadcast c m) s =
        ends (if isW then streamOut hw q.site [mkTok 0 q.site.tag .order] else answered hw q (mkTok 0 0 .order))) ∧
      (512 < seg * 32 * w + 32 * w → exec (.broadcast c m) s =
        ends (lateFault (setMacro s.hw c m x) q.site cILLFIELD (10 + 1 * 2 ^ 5 + spec.toNat % 2 ^ 48 * 2 ^ 16) (.macro_ m q))) ∧
      (seg * 32 * w + 32 * w ≤ 512 → 2048 < x.nbase + x.active.wcols → exec (.broadcast c m) s =
        ends (lateFault (setMacro s.hw c m x) q.site cILLFIELD (16 + 2 * 2 ^ 5 + m * 2 ^ 8) (.macro_ m q)))) ∧
    (∀ rb seg rows spec psn isW, q.body = .mbc rb seg rows spec psn true isW →
      let o : MOut := { stamp := q.stamp, site := q.site, isW := isW, isNull := true, total := 0, psn := false
                        parts := (List.range x.active.wcols).map fun j => (x.nbase + j, []) }
      (x.nbase + x.active.wcols ≤ 2048 → exec (.nullBroadcast c m) s = .next { s with hw := setMacro s.hw c m { x with out := some o } }) ∧
      (2048 < x.nbase + x.active.wcols → exec (.nullBroadcast c m) s =
        ends (lateFault (setMacro s.hw c m x) q.site cILLFIELD (16 + 2 * 2 ^ 5 + m * 2 ^ 8) (.macro_ m q))))) ∧
  (∀ (s : State) (c m : Nat) (o : MOut), (macroAt s.hw c m).out = some o →
    let tells := fun (hw : Hw) (n : Nat) (psn : Bool) =>
      if o.isW && !o.told then doneOut hw o.site [mkTok 0 o.site.tag .data (BitVec.ofNat 64 n) 0 psn] else hw
    let counted := fun (y : Node) => { y with count := if y.group.isSome then y.count + 1 else y.count }
    ((∀ p ∈ o.parts, nodeOpen s.hw c o.stamp p.1 = true ∧ nodeHolds s.hw c p.1 = false) → (o.parts.map (·.1)).Nodup → (∀ p ∈ o.parts, p.2 = []) →
      ∃ hw, exec (.contribution c m) s = .next { s with hw := matSettle (tells hw o.total o.psn) c } ∧ (macroAt hw c m).out = none ∧
        (∀ p ∈ o.parts, nodeAt hw c p.1 = counted (nodeAt s.hw c p.1)) ∧ (∀ n, n ∉ o.parts.map (·.1) → nodeAt hw c n = nodeAt s.hw c n)) ∧
    (∀ n ps, o.parts = [(n, ps)] → nodeOpen s.hw c o.stamp n = true → nodeHolds s.hw c n = false →
      (∀ y, addAll (nodeAt s.hw c n) ps = .ok y →
        let hw := setMacro (setNode s.hw c n (counted y)) c m { macroAt s.hw c m with out := none }
        exec (.contribution c m) s = .next { s with hw := matSettle (tells hw (o.total + ps.length) (o.psn || ps.any (·.psn))) c }) ∧
      (∀ src p y, addAll (nodeAt s.hw c n) ps = .error (src, p, y) →
        let took := ps.take (y.parts - (nodeAt s.hw c n).parts)
        let hw := nodeFault s.hw c n y (.partial_ m) src m (ofSigned 12 p.q) (ofSigned 36 p.p)
        exec (.contribution c m) s = .next { s with hw := matSettle (setMacro hw c m { macroAt hw c m with
          out := some { o with total := o.total + took.length, psn := o.psn || took.any (·.psn) } }) c })) ∧
    (o.isW = true → o.told = false → o.parts ≠ [] →
      (∀ p ∈ o.parts, nodeHolds s.hw c p.1 = true ∧ (nodeAt s.hw c p.1).stop = none ∧ nodeCmdBefore s.hw c o.stamp p.1 1 = false) →
      let all := o.parts.flatMap (·.2)
      let hw := setMacro s.hw c m { macroAt s.hw c m with out := some { o with told := true } }
      exec (.contribution c m) s = .next { s with hw := tells hw (o.total + all.length) (o.psn || all.any (·.psn)) })) ∧
  (∀ (k : Core) (x : Macro) (rb seg rows j : Nat) (psn : Bool), x.afmt.toNat < 2 → x.active.wfmt.toNat < 2 →
    let val := fun (f : BitVec 4) (v : BitVec 8) => if f = 0 then v.toInt else (v.toNat : Int)
    let a := fun (i : Nat) => if i < rows then val x.afmt (tget k.rowbuf 0 (rb * 512 + seg * 256 + i)) else 0
    let b := fun (i : Nat) => val x.active.wfmt ((tget x.active.words 0 (i * 512 + j)).setWidth 8)
    (columnPartials k x rb seg rows psn j).map (fun p => (p.p, p.q, p.nan)) =
      (List.range ((rows + 31) / 32)).map fun t => (((List.range 32).map fun i => a (32 * t + i) * b (32 * t + i)).sum, 0, false))

/-! ## Halyard words (13 R348 to R354), and the words of firmware (15 R403, R404, 16 R419, R420, 02 R73) -/

/-- HCOPY, HGATH, HSCAT, HRED and HFILL read their descriptor and hand it to their cluster's engine, which holds sixteen, with ORDER at once on T1: a descriptor beyond its
limits is cause 15, a counter of another partition a protection fault; a FAULT on the order port passes through, also beside a NULL; a poisoned port or descriptor answers with poison (13
R348, R349, R351, R354). -/
def Obligations.HalyardWords : Prop :=
  (∀ x ∈ [(Instr.hcopy, 0), (Instr.hgath, 1), (Instr.hscat, 2), (Instr.hred, 3), (Instr.hfill, 4)],
    let mk := x.1
    let op := x.2
    let issued := fun (f : Fire) (hw : Hw) => countIssued hw f.site f.w.ls.toNat
    (∀ (sp : OpSpec) (w : Fields) (s : State) (f : Fire) (hw hw' hw'' : Hw) (a : Loc) (d : List Word), specOf (mk w) = some sp → Plain sp w s f → Turn s f →
      f.b.kind ≠ .fault → tokPsn f.a = false → formAddr s.hw f.core f.frame f.asid f.a 0 64 4 true false = .ok (hw, a) →
      (clAt hw (clOf f.core)).hal.length < 16 → readRecord f s.mem hw a = .ok (hw', d, false) →
      (badHal op d = none → (halCen d = true → crefMine hw' f.core (halCref d) = true) →
        (let e := copyEntry s.mem (issued f (expose hw' f.core f.site.seq)) f.site op d
         let r : HalReq := { id := e.1.ids, op := op, desc := d, site := f.site, scope := (w.xf.extractLsb' 0 3).toNat, gen := genOfCl e.1 (clOf f.core), entry := e.2 }
         emit1 f (modCl { e.1 with ids := e.1.ids + 1 } (clOf f.core) fun c => { c with hal := c.hal ++ [r] }) [tokOf f .order]) = .ok hw'' →
        exec (mk w) s = .next (fired f s hw'')) ∧
      (badHal op d = none → halCen d = true → crefMine hw' f.core (halCref d) = false →
        exec (mk w) s = .next (faulted f s cPROT (halCref d + 8 * 2 ^ 52))) ∧
      (∀ i, badHal op d = some i → exec (mk w) s = .next (faulted f s cILLFIELD (15 + i * 2 ^ 5 + (d.getD i 0).toNat % 2 ^ 48 * 2 ^ 16)))) ∧
    (∀ (sp : OpSpec) (w : Fields) (s : State) (f : Fire) (hw : Hw) (a : Loc), specOf (mk w) = some sp → Plain sp w s f → Turn s f →
      f.b.kind ≠ .fault → tokPsn f.a = false → formAddr s.hw f.core f.frame f.asid f.a 0 64 4 true false = .ok (hw, a) →
      (clAt hw (clOf f.core)).hal.length < 16 →
      (∀ hw' d hw'', readRecord f s.mem hw a = .ok (hw', d, true) → emitAll f (issued f hw') [tokOf f .data 0 true] = .ok hw'' →
        exec (mk w) s = .next (fired f s hw'')) ∧
      (∀ hw', readRecord f s.mem hw a = .error (.wait hw') → exec (mk w) s = .next (held s hw'))) ∧
    (∀ (sp : OpSpec) (w : Fields) (s : State) (f : Fire) (hw : Hw), specOf (mk w) = some sp → Live sp w s f → anyEnd f.data = false → f.a.kind = .null →
      f.b.kind = .fault → (do emitAll f (← nullLs .load f s.hw) [asSent f f.b]) = .ok hw → exec (mk w) s = .next (fired f s hw)) ∧
    (∀ (sp : OpSpec) (w : Fields) (s : State) (f : Fire) (hw : Hw) (a : Loc), specOf (mk w) = some sp → Plain sp w s f → Turn s f →
      f.b.kind ≠ .fault → tokPsn f.a = false → formAddr s.hw f.core f.frame f.asid f.a 0 64 4 true false = .ok (hw, a) →
      16 ≤ (clAt hw (clOf f.core)).hal.length → exec (mk w) s = .next (held s hw)) ∧
    FaultsInTurn mk (fun f _ => f.b.kind ≠ .fault ∧ tokPsn f.a = false) (fun f s => do
      let _ ← formAddr s.hw f.core f.frame f.asid f.a 0 64 4 true false
      .ok s.hw) ∧
    ActsInTurn mk (fun f _ => f.b.kind = .fault) (fun f s => emitAll f (issued f s.hw) [asSent f f.b]) ∧
    ActsInTurn mk (fun f _ => f.b.kind ≠ .fault ∧ tokPsn f.a = true) (fun f s => emitAll f (issued f s.hw) [tokOf f .data 0 true])) ∧
  (∀ (op : Nat) (w0 w1 w2 w3 w4 w5 w6 w7 : Word), op < 5 → op ≠ 3 →
    (badHal op [w0, w1, w2, w3, w4, w5, w6, w7] = none ↔
      (op ≠ 4 → w0.toNat < 2 ^ 48) ∧ w1.toNat < 2 ^ 48 ∧ w2.extractLsb' 0 32 ≠ 0 ∧ w2.extractLsb' 52 12 = 0 ∧ (op = 4 → w3.extractLsb' 0 32 = 0) ∧
      (op = 1 ∨ op = 2 → w4.toNat < 2 ^ 48 ∧ w4.toNat % 4 = 0) ∧ (op = 0 ∨ op = 4 → w4 = 0) ∧ w5.toNat < 2 ^ 25 ∧ w5.extractLsb' 16 8 = 0 ∧
      (w5.getLsbD 24 = true → op = 0) ∧ w6.toNat < 2 ^ 48 ∧ w6.toNat % 32 = 0 ∧ w7.toNat < 2 ^ 32 ∧ (w5.getLsbD 24 = false → w7 = 0))) ∧
  (∀ (w0 w1 w2 w3 w4 w5 w6 w7 : Word),
    let rop := (w5.extractLsb' 16 4).toNat
    let fmt := (w5.extractLsb' 20 4).toNat
    let aligned := fun (n : Nat) => n % ((fmtOf fmt).width / 8) = 0
    badHal 3 [w0, w1, w2, w3, w4, w5, w6, w7] = none ↔
      w0.toNat < 2 ^ 48 ∧ w1.toNat < 2 ^ 48 ∧ w2.extractLsb' 0 32 ≠ 0 ∧ w2.extractLsb' 52 12 = 0 ∧ w4 = 0 ∧ w5.toNat < 2 ^ 24 ∧
      w6.toNat < 2 ^ 48 ∧ w6.toNat % 32 = 0 ∧ w7 = 0 ∧
      ((rop = 0 ∧ 4 ≤ fmt ∧ fmt ≤ 10) ∨ ((rop = 1 ∨ rop = 2) ∧ fmt ≤ 10) ∨ (rop = 3 ∧ fmt ≤ 7)) ∧
      aligned w0.toNat ∧ aligned w1.toNat ∧ aligned (w2.extractLsb' 0 32).toNat ∧ aligned (w3.extractLsb' 0 32).toNat ∧ aligned (w3.extractLsb' 32 32).toNat)

/-- The states that the phases of a CHKPT BEGIN leave while it goes on, and once it is complete: then its operands are consumed. -/
def cutOn (m : Mem) (hw : Hw) : Res State := .next { mem := m, hw := { hw with focus := none, waited := false } }
/-- The state that a complete CHKPT leaves. -/
def cutOver (f : Fire) (m : Mem) (hw : Hw) : Res State := .next { mem := m, hw := { consume f hw with focus := none, waited := false } }
/-- A firing in a frame that firmware loaded. -/
def InFirmware (f : Fire) (s : State) : Prop := (frameAt (coreAt s.hw f.core) f.frame).firmware = true
/-- A firing whose operands are all DATA without poison. -/
def cleanData (f : Fire) : Prop := f.data.all (fun t => t.kind == .data && !t.psn) = true
/-- T0 of CHKPT: a status and the cut's number (16 R420). -/
def cutTold (f : Fire) (hw : Hw) (status n : Nat) : Except Stop Hw := emit0 f hw [tokOf f .data (BitVec.ofNat 64 (status + n * 2 ^ 32))]

/-- SYSRD, SYSWR and CHKPT fire only in a frame that firmware loaded, else a protection fault that names the operation. SYSRD answers a register's value and ORDER; SYSWR writes a
register and answers ORDER in one step; an address of another chip, outside register space, of no register, or not a multiple of 8 faults; poison accesses nothing (02 R73, 15
R403, R404; that SYSWR performs in its firing is the model's choice, log 31). -/
def Clauses.RegisterWords : Prop :=
  let inside := fun (ad : Word) (s : State) => ad.toNat < 2 ^ 56 ∧ paLC ad.toNat = ownLC s.hw ∧ inRegs (paLocal ad.toNat) = true
  (∀ mk ∈ [Instr.sysrd, .syswr, .chkptBegin, .chkptRestore, .chkptAbandon, .chkptQuery],
    ∀ (sp : OpSpec) (w : Fields) (s : State) (f : Fire), specOf (mk w) = some sp → Ready sp w s f → ¬ InFirmware f s →
      (anyEnd f.data = true ∨ predOf w.pr f.p ≠ .notFire) → exec (mk w) s = .next (faulted f s cPROT (sp.op.toNat * 2 ^ 16 + 14 * 2 ^ 52))) ∧
  (∀ (w : Fields) (s : State) (f : Fire) (hw : Hw), Plain specSysrd w s f → InFirmware f s → tokPsn f.a = false → tokPsn f.b = false →
    let ad := f.a.value + f.b.value
    inside ad s → ad.toNat % 8 = 0 → (regAt (paLocal ad.toNat)).isSome = true →
    (do let hw ← emit0 f (regRead s.hw (paLocal ad.toNat)).2 [tokOf f .data (regRead s.hw (paLocal ad.toNat)).1]
        emit1 f hw [tokOf f .order]) = .ok hw →
    exec (.sysrd w) s = .next (fired f s hw)) ∧
  (∀ (w : Fields) (s : State) (f : Fire) (hw : Hw), Plain specSyswr w s f → InFirmware f s → cleanData f →
    tokPsn f.a = false → tokPsn f.b = false → tokPsn f.c = false →
    let ad := f.a.value + f.c.value
    inside ad s → ad.toNat % 8 = 0 → (regAt (paLocal ad.toNat)).isSome = true → emitAll f s.hw [tokOf f .order] = .ok hw →
    (∀ m hw', regWrite .firmware s.mem (consume f hw) (paLocal ad.toNat) f.b.value = some (m, hw') →
      exec (.syswr w) s = .next { mem := m, hw := { hw' with focus := none, waited := false } }) ∧
    (regWrite .firmware s.mem (consume f hw) (paLocal ad.toNat) f.b.value = none → exec (.syswr w) s = .next (held s s.hw))) ∧
  (∀ x ∈ [(Instr.sysrd, fun (f : Fire) => f.b), (Instr.syswr, fun (f : Fire) => f.c)],
    let ad := fun (f : Fire) => f.a.value + (x.2 f).value
    let clean := fun (f : Fire) (s : State) => InFirmware f s ∧ tokPsn f.a = false ∧ tokPsn f.b = false ∧ (x.1 = .syswr → tokPsn f.c = false)
    Faults x.1 (fun f s => clean f s ∧ (¬ inside (ad f) s ∨ ((ad f).toNat % 8 = 0 ∧ (regAt (paLocal (ad f).toNat)).isNone = true))) cILLFIELD
      (fun f => 10 + (ad f).toNat % 2 ^ 48 * 2 ^ 16) ∧
    Faults x.1 (fun f s => clean f s ∧ inside (ad f) s ∧ (ad f).toNat % 8 ≠ 0) cMISALIGNED (fun f => memDetail (ad f).toNat 0 false 0) ∧
    Acts x.1 (fun f s => InFirmware f s ∧ (tokPsn f.a = true ∨ tokPsn f.b = true)) (fun f s => emitAll f s.hw [tokOf f .data 0 true])) ∧
  Acts .syswr (fun f s => InFirmware f s ∧ tokPsn f.c = true) (fun f s => emitAll f s.hw [tokOf f .data 0 true])

/-- CHKPT: BEGIN starts a cut where none is under way and its number is new, else status 2; it goes on phase by phase: it waits for what is exposed, to the drain limit, and is
then abandoned, or saves the ASIDs, sends the markers and ORDER, writes the image, resumes the ASIDs and answers status 0. ABANDON gives up the cut that is being taken, or
was recorded last; RESTORE goes back to the numbers of the record at DEST, which of another package's image are free (log 10); QUERY answers PART_CUT. A descriptor that
cannot be read, or whose words are not allowed, is a fault; poison does nothing (16 R416, R419 to R421; what the text leaves open of the phases, of QUERY's operand and of a
poisoned descriptor is log 19's). -/
def Clauses.CutWords : Prop :=
  let setCut := fun (hw : Hw) (c : Cut) => modPkg hw fun p => { p with cut := c }
  let num := fun (d : List Word) => (d.getD 0 0).toNat % 2 ^ 32
  let done := fun (hw : Hw) => setCut hw { hw.pkg.cut with taking := none, stopping := false }
  let both := fun (f : Fire) (hw : Hw) (status n : Nat) => (do emit1 f (← cutTold f hw status n) [tokOf f .order] : Except Stop Hw)
  let reads := fun (sp : OpSpec) (w : Fields) (s : State) (f : Fire) (d : List Word) =>
    Plain sp w s f ∧ InFirmware f s ∧ cleanData f ∧ cutDesc f s.mem s.hw = .ok (d, false)
  (∀ mk ∈ [Instr.chkptBegin, .chkptRestore, .chkptAbandon], ∀ (w : Fields) (s : State) (f : Fire),
    (mk = .chkptBegin → s.hw.pkg.cut.taking = none) →
    (∀ d i, reads specChkpt w s f d → badCut s.hw d = some i → exec (mk w) s = .next (faulted f s cILLFIELD (15 + i * 2 ^ 5 + (d.getD i 0).toNat % 2 ^ 48 * 2 ^ 16))) ∧
    (∀ c d, Plain specChkpt w s f → InFirmware f s → cleanData f → cutDesc f s.mem s.hw = .error (.fault c d) → exec (mk w) s = .next (faulted f s c d)) ∧
    (∀ d hw, Plain specChkpt w s f → InFirmware f s → cleanData f → cutDesc f s.mem s.hw = .ok (d, true) → emitAll f s.hw [tokOf f .data 0 true] = .ok hw →
      exec (mk w) s = cutOver f s.mem hw)) ∧
  (∀ mk ∈ [Instr.chkptBegin, .chkptRestore, .chkptAbandon, .chkptQuery], Acts mk (fun f s => InFirmware f s ∧ tokPsn f.a = true)
    (fun f s => emitAll f s.hw [tokOf f .data 0 true])) ∧
  (∀ (f : Fire) (m : Mem) (hw : Hw), let a := f.a.value
    let good := a.toNat < 2 ^ 56 ∧ paLC a.toNat = ownLC hw ∧ a.toNat % 64 = 0 ∧
      (inHbm (paLocal a.toNat) = true ∨ (inAperture (paLocal a.toNat) = true ∧ paLocal a.toNat / 2 ^ 28 % 2 ^ 12 = 0))
    (good → cutDesc f m hw = .ok ((List.range 8).map (fun i => BitVec.ofNat 64 (memRead m (paLocal a.toNat + 8 * i) 8)), linePsn m (paLocal a.toNat))) ∧
    (¬ good → cutDesc f m hw = .error (.fault cILLFIELD (10 + a.toNat % 2 ^ 48 * 2 ^ 16)))) ∧
  (∀ (w : Fields) (s : State) (f : Fire) (d : List Word), reads specChkptBegin w s f d → badCut s.hw d = none →
    let c := s.hw.pkg.cut
    (c.taking = none → c.state = 0 → c.num.toNat < num d → exec (.chkptBegin w) s =
      cutOn s.mem (setCut s.hw { c with state := 1, taking := some (f.site, d), since := s.hw.now, written := false })) ∧
    (∀ hw, ((c.taking = none ∧ (c.state ≠ 0 ∨ num d ≤ c.num.toNat)) ∨ ∃ site e, c.taking = some (site, e) ∧ site ≠ f.site) →
      cutTold f s.hw 2 (num d) = .ok hw → exec (.chkptBegin w) s = cutOver f s.mem hw)) ∧
  (∀ (w : Fields) (s : State) (f : Fire) (d : List Word), Plain specChkptBegin w s f → InFirmware f s → cleanData f →
    s.hw.pkg.cut.taking = some (f.site, d) →
    let c := s.hw.pkg.cut
    let waits := (cutExposed s.hw).isEmpty = false
    let late := c.since + (d.getD 2 0).toNat % 2 ^ 24 ≤ s.hw.now
    let quiet := cutDiscard s.hw
    (∀ hw, c.stopping = true → cutTold f (done s.hw) 1 (num d) = .ok hw → exec (.chkptBegin w) s = cutOver f s.mem hw) ∧
    (c.stopping = false → c.state = 1 →
      (waits → ¬ late → exec (.chkptBegin w) s = .next (held s s.hw)) ∧
      (∀ m hw1 hw, waits → late → cutAbandon (num d) s.mem s.hw = some (m, hw1) → cutTold f (done hw1) 1 (num d) = .ok hw →
        exec (.chkptBegin w) s = cutOver f m hw) ∧
      (¬ waits → cutSettled quiet = false → exec (.chkptBegin w) s = .next (held s quiet)) ∧
      (∀ m hw1 hw, ¬ waits → cutSettled quiet = true → cutSave s.mem quiet = (m, hw1) → emit1 f (releaseStreams (num d) (cutTake hw1 (dieOf f.core) d)) [tokOf f .order] = .ok hw →
        exec (.chkptBegin w) s = cutOn m hw)) ∧
    (c.stopping = false → c.state ≠ 1 →
      (c.written = false → exec (.chkptBegin w) s = cutOn (cutWrite s.mem s.hw (dieOf f.core)).1 (cutWrite s.mem s.hw (dieOf f.core)).2) ∧
      (c.written = true → (dieAt s.hw (dieOf f.core)).shoot ≠ none → exec (.chkptBegin w) s = .next (held s s.hw)) ∧
      (∀ m hw1 hw, c.written = true → (dieAt s.hw (dieOf f.core)).shoot = none → cutResume s.mem s.hw = some (m, hw1) →
        cutTold f (done (setCut hw1 { hw1.pkg.cut with state := 0, written := false })) 0 (num d) = .ok hw → exec (.chkptBegin w) s = cutOver f m hw))) ∧
  (∀ (w : Fields) (s : State) (f : Fire) (d : List Word), reads specChkptRestore w s f d → badCut s.hw d = none →
    let r := imageRec s.hw (d.getD 1 0).toNat (num d)
    (∀ x, (s.hw.pkg.cut.recs.find? fun r => r.dest = (d.getD 1 0).toNat && r.num = num d) = some x → r = x) ∧
    (cutRestore s.mem s.hw r = none → exec (.chkptRestore w) s = .next (held s s.hw)) ∧
    (∀ m hw1 hw, cutRestore s.mem s.hw r = some (m, hw1) → both f hw1 0 (num d) = .ok hw → exec (.chkptRestore w) s = cutOver f m hw) ∧
    (s.hw.pkg.cut.state ≠ 3 → ∃ hw1, cutRestore s.mem s.hw r = some (s.mem, hw1) ∧ hw1.pkg.nums = r.nums ∧
      hw1.pkg.replay = r.replay.map fun e => { e with due := true, tries := 0 })) ∧
  (∀ (w : Fields) (s : State) (f : Fire) (d : List Word), reads specChkptAbandon w s f d → badCut s.hw d = none →
    let c := s.hw.pkg.cut
    let taken := ∃ site e, c.taking = some (site, e) ∧ num e = num d ∧ c.stopping = false
    (∀ hw, ¬ taken → c.num.toNat ≠ num d → both f s.hw 0 (num d) = .ok hw → exec (.chkptAbandon w) s = cutOver f s.mem hw) ∧
    (∀ r rest hw, ¬ taken → c.num.toNat = num d → c.recs = r :: rest → r.num = num d →
      both f (modPkg s.hw fun p => { p with nums := p.nums.map fun x =>
                                              (x.1, if x.2.held.any fun k => decide (k ≤ num d) then { x.2 with held := none } else x.2)
                                            cut := { p.cut with num := BitVec.ofNat 32 r.before, recs := rest, abandoned := true } }) 0 (num d) = .ok hw →
      exec (.chkptAbandon w) s = cutOver f s.mem hw) ∧
    (∀ m hw1 hw, taken → cutAbandon (num d) s.mem (cutForget (num d) s.hw) = some (m, hw1) → both f (setCut hw1 { hw1.pkg.cut with stopping := true }) 0 (num d) = .ok hw →
      exec (.chkptAbandon w) s = cutOver f m hw) ∧
    (taken → cutAbandon (num d) s.mem (cutForget (num d) s.hw) = none → exec (.chkptAbandon w) s = .next (held s s.hw))) ∧
  (∀ (w : Fields) (s : State) (f : Fire) (hw hw' : Hw), Plain specChkptQuery w s f → InFirmware f s → tokPsn f.a = false →
    emit0 f s.hw [tokOf f .data (regValue s.hw .partCut)] = .ok hw → emit1 f hw [tokOf f .order] = .ok hw' →
    exec (.chkptQuery w) s = .next (fired f s hw'))

/-- The words of firmware (02 R73, 15 R403, R404, 16 R416, R419 to R421). -/
def Obligations.FirmwareWords : Prop := Clauses.RegisterWords ∧ Clauses.CutWords

/-! ## Events at an element's input, and configuration (02 R43, R44, 03 R75 to R83, R98 to R102, 13 Table 13.9) -/

/-- The fault that a token meets at a slot: SERVICE and HEADER tokens are refused at any; then an empty slot, an OP that is reserved, a field that its entry does not accept, a port or a
kind of token that it does not take (02 R48, R50, R51, R71, 03 R79). -/
def Clauses.TokenFaults : Prop :=
  ∀ (hw : Hw) (e slot : Nat) (t : Token),
    let word := tget (elemAt hw e).words 0 slot
    let other := t.kind ≠ .service ∧ t.kind ≠ .header
    (¬ other → tokenFault hw e slot t = some (cILLFIELD, 5, false)) ∧
    (other → wordOp word = 0 → tokenFault hw e slot t = some (cEMPTY, 0, false)) ∧
    (other → wordOp word ≠ 0 →
      (slotSpec hw e slot = none → tokenFault hw e slot t = some (cILLOP, (wordOp word).toNat * 2 ^ 16, true)) ∧
      (∀ sp w, slotSpec hw e slot = some (sp, w) →
        (∀ d, wordFault sp w (frameAt (coreAt hw (coreOf e)) (slot / 4)).header = some d → tokenFault hw e slot t = some (cILLFIELD, d, false)) ∧
        (wordFault sp w (frameAt (coreAt hw (coreOf e)) (slot / 4)).header = none →
          (t.kind = .endm → t.rank = 0 → tokenFault hw e slot t = some (cILLFIELD, 8, false)) ∧
          (¬ (t.kind = .endm ∧ t.rank = 0) → contPort t.cont ∈ tokenPorts sp w → contPort t.cont < 3 → t.kind ∈ sp.kinds (contPort t.cont) →
            tokenFault hw e slot t = none) ∧
          (contPort t.cont ∉ tokenPorts sp w → sp.stream = false → t.kind ≠ .endm → t.kind ≠ .fault → tokenFault hw e slot t = some (cILLFIELD, 5, false)))))

/-- Where an operand goes: one that completes a set is taken at once; else one of 48 shared entries, else, for the oldest index of its space, one of 16 that are kept, else, and behind a
record of its own port and tag, a record of the overflow store, while its core has one; else nowhere yet (03 R78 to R83). -/
def Clauses.OperandPlaces : Prop :=
  ∀ (hw : Hw) (e slot port : Nat) (tag : BitVec 20),
    let x := elemAt hw e
    let behind := ∃ o ∈ x.ops, o.slot = slot ∧ o.tok.tag = tag ∧ contPort o.tok.cont = port ∧ o.place = .spilled
    let spill := if overflowUsed hw (coreOf e) < 16384 then some Place.spilled else none
    (behind → placeFor hw e slot port tag = spill) ∧
    (¬ behind → completes hw e slot port tag = true → placeFor hw e slot port tag = some .direct) ∧
    (¬ behind → completes hw e slot port tag = false →
      (inPlace x .shared < 48 → placeFor hw e slot port tag = some .shared) ∧
      (48 ≤ inPlace x .shared → oldestTag hw (coreOf e) (slot / 4) tag = true → inPlace x .kept < 16 → placeFor hw e slot port tag = some .kept) ∧
      (48 ≤ inPlace x .shared → (oldestTag hw (coreOf e) (slot / 4) tag = false ∨ 16 ≤ inPlace x .kept) → placeFor hw e slot port tag = spill))

/-- What a token on its way meets at its element: it is dropped and counted if of another generation; a CONFIG token, or one that its slot does not take, freezes the
element with the token at its input; else it stands behind the others of its slot, or is held at the input while there is no record for it. Records in the overflow store
come back when an entry is free. A token for another package leaves, of one from there the end of its way is acknowledged; a record of an entry log that CHRECV took goes to
its port again (02 R43, R71, 03 R75, R79 to R83, R98, 13 R366, R370, 15 R396, 16 R411; which tokens of a slot go first is log 93's). -/
def Clauses.TokenArrivals : Prop :=
  (∀ (s : State) (n : Nat) (fl : Flight), s.hw.net[n]? = some fl → behindOwn s.hw n fl = false → portConfig fl = false →
    let e := contElem fl.tok.cont
    let slot := contSlot fl.tok.cont
    let port := contPort fl.tok.cont
    let hw := { s.hw with net := s.hw.net.take n ++ s.hw.net.drop (n + 1) }
    let current := fl.gen = genOfCl s.hw (clOf (coreOf e))
    let open_ := frozen s.hw e = false ∧ (fl.atInput = true ∨ secondLane hw fl.tok = true ∨ inputHeld hw e = false)
    let taken := fun (t : Hw) => exec (.tokenArrival n) s = .next { s with hw := ackToken t fl }
    (∀ t, (∀ lc, fl.src ≠ .fabric lc) → ackToken t fl = t) ∧
    (∀ t lc, fl.src = .fabric lc → ackToken t fl = ackOut t lc) ∧
    (contLC fl.tok.cont = ownLC s.hw → atEdge s.hw (contCore fl.tok.cont) (contFrame fl.tok.cont) = false →
      (¬ current → taken (modPkg hw fun p => { p with stale := p.stale + 1 })) ∧
      (current → fl.tok.kind = .config → taken (cfgFault hw { tok := fl.tok, src := .firmware } cILLFIELD 9)) ∧
      (current → fl.tok.kind ≠ .config → open_ →
        (∀ code d i, chanReplay s.hw fl = false → tokenFault s.hw e slot fl.tok = some (code, d, i) → taken (offeredFault hw e slot fl code d i)) ∧
        (∀ hw1, (chanReplay s.hw fl = true ∨ tokenFault s.hw e slot fl.tok = none) → noOpening s.hw e slot port fl.tok.tag = false →
          arrive hw e slot port fl.tok.tag = some hw1 →
          (∀ p, placeFor hw1 e slot port fl.tok.tag = some p →
            ∃ t, taken t ∧ t.net = hw.net ∧
              (elemAt t e).ops = (elemAt s.hw e).ops ++ [{ slot := slot, tok := fl.tok, place := p, stamp := hw1.ids, side := fl.side }] ∧
              (∀ j, j ≠ e → elemAt t j = elemAt s.hw j) ∧
              tget (coreAt t (coreOf e)).arrived 0 (keyPort (e % 32) slot port fl.tok.tag) =
                tget (coreAt s.hw (coreOf e)).arrived 0 (keyPort (e % 32) slot port fl.tok.tag) + 1) ∧
          (placeFor hw1 e slot port fl.tok.tag = none → fl.atInput = false →
            exec (.tokenArrival n) s = .next { s with hw := { s.hw with
              net := s.hw.net.take n ++ { fl with atInput := true } :: s.hw.net.drop (n + 1) } })))) ∧
    (contLC fl.tok.cont ≠ ownLC s.hw → fabGoes s.hw (srcDie fl.src) (contLC fl.tok.cont) 2 = true →
      exec (.tokenArrival n) s = .next { s with hw := fabSend hw (srcDie fl.src) (contLC fl.tok.cont) 2 (.token fl.tok) })) ∧
  (∀ (s : State) (e : Nat), (elemAt s.hw e).ops.any (fun o => o.place == .spilled && decide (o.slot < 32)) = true →
    (∀ j, ((elemAt s.hw e).ops.filter fun y => y.place == .spilled && decide (y.slot = j)).length ≤ 16384) →
    ∃ o, o ∈ (elemAt s.hw e).ops ∧ o.place = .spilled ∧
      (∀ p, freeEntry s.hw e o.slot o.tok.tag = some p →
        let ops := mapFirst (fun (y : Operand) => y.stamp = o.stamp) (fun y => { y with place := p, stamp := s.hw.ids }) (elemAt s.hw e).ops
        exec (.overflowRefill e) s = .next { s with hw := setElem { s.hw with ids := s.hw.ids + 1 } e { elemAt s.hw e with ops := ops } }) ∧
      ∀ j, j < 32 → ((elemAt s.hw e).ops.filter fun y => y.place == .spilled && decide (y.slot = j)).length ≤
        ((elemAt s.hw e).ops.filter fun y => y.place == .spilled && decide (y.slot = o.slot)).length)

/-- A fault register is read by its controller, oldest fault first, one report at a time, and reported to its service core; a SERVICE token enters an inbox of at most 512, and a TRAP then has
its ORDER. An action on a frozen element lets it issue its firing, or an operation that had issued, or be offered its token or message again, or has the operand set that faulted
consumed as of a predicated word that does not fire, with NULL to both targets (of a broadcast, a null-broadcast), the token of a session discarded, the token or message
given up; STEP passes a breakpoint (03 R101, R102, 08 R241, 13 R356, R358, R359, Table 13.9; a resume clears the whole register: log 89). -/
def Clauses.ResumeEvents : Prop :=
  (∀ (s : State) (cl i e : Nat), e ∈ unreported s.hw cl i → (∀ x ∈ unreported s.hw cl i, x ≠ e → (elemAt s.hw e).fault.arose < (elemAt s.hw x).fault.arose) →
    (copyOf s.hw e).2 = i → (∀ j ∈ controllerCopies i, (tget (clAt s.hw cl).copies {} j).held = false ∧ ∀ m ∈ s.hw.svc, m.copy ≠ some (cl, j)) →
    let r := (elemAt s.hw e).fault
    let hw := modCl s.hw cl fun c => { c with copies := tput (c.copies.filter fun x => !(controllerCopies i).contains x.1) {} i { reg := r, held := true } }
    exec (.faultReport cl i) s = .next { s with hw := report hw cl r.code.toNat (faultHigh r).toNat (some (cl, i)) }) ∧
  (∀ (s : State) (n : Nat) (m : SvcMsg), s.hw.svc[n]? = some m → (∀ y ∈ s.hw.svc.take n, y.die ≠ m.die ∨ y.sc ≠ m.sc) →
    let sc := scOf s.hw (m.die * 8 + m.sc * 2)
    let x := tget (dieAt s.hw m.die).scs {} sc
    let hw := modDie { s.hw with svc := s.hw.svc.take n ++ s.hw.svc.drop (n + 1) } m.die fun d =>
      { d with scs := tput d.scs {} sc { x with inbox := x.inbox ++ [m] } }
    x.reset = false → x.inbox.length < 512 →
    (∀ site, m.site = some site → m.reply = false →
      exec (.serviceInboxEntry n) s = .next { s with hw := settle hw site (emitBoth hw site [mkTok 0 site.tag .order]) }) ∧
    (m.site = none ∨ m.reply = true → exec (.serviceInboxEntry n) s = .next { s with hw := hw })) ∧
  (∀ (s : State) (e : Nat), frozen s.hw e = true → ∃ t, exec (.reissue e) s = .next t ∧ t.mem = s.mem ∧
    (∀ sl tag, ((elemAt s.hw e).why = .firing sl tag ∨ (elemAt s.hw e).why = .brk sl tag) → frozen t.hw e = false ∧ (elemAt t.hw e).ops = (elemAt s.hw e).ops ∧ t.hw.net = s.hw.net) ∧
    (∀ fl, (elemAt s.hw e).why = .offered fl → frozen t.hw e = false ∧ (elemAt t.hw e).ops = (elemAt s.hw e).ops ∧ t.hw.net = fl :: s.hw.net)) ∧
  (∀ (s : State) (e : Nat), frozen s.hw e = true →
    let base := forgetFails (unfreeze (ackElem s.hw e) e) (dieOf (coreOf e)) (coreOf e % 64)
    let marks := fun (d : Nat × BitVec 20 × Option Nat) =>
      setElem { base with scratch := base.scratch.filter fun y => !(y.elem = e && y.slot = d.1 && y.tag = d.2.1) } e { elemAt base e with drop := some d }
    (∀ m, (elemAt s.hw e).why = .config m → exec (.reissue e) s = .next { s with hw := takeCfg base m } ∧ exec (.nullify e) s = .next { s with hw := base }) ∧
    (∀ sl tag r, (elemAt s.hw e).why = .issued sl tag (some r) → exec (.reissue e) s = .next { s with hw := redo base e r } ∧
      exec (.nullify e) s = .next { s with hw := giveUp base e r }) ∧
    (∀ hw a, giveUp hw e (.access a) = settle hw a.site (emitBoth hw a.site [mkTok 0 a.site.tag .null])) ∧
    (∀ sl tag, (elemAt s.hw e).why = .issued sl tag none → exec (.reissue e) s = .next { s with hw := base } ∧ exec (.nullify e) s = .next { s with hw := base }) ∧
    (∀ sl tag, (elemAt s.hw e).why = .session sl tag → exec (.reissue e) s = .next { s with hw := base } ∧
      ∀ o, headAt (elemAt base e) sl tag 2 = some o →
        exec (.nullify e) s = .next { s with hw := setElem base e { elemAt base e with ops := (elemAt base e).ops.filter fun y => y.stamp != o.stamp } }) ∧
    (∀ sl tag k, (elemAt s.hw e).why = .queued sl tag k → exec (.reissue e) s = .next { s with hw := base } ∧
      ((coreAt base (coreOf e)).lsq.any (fun y => y.elem = e && y.slot = sl && y.tag = tag && y.occ = k) = true →
        exec (.nullify e) s = .next { s with hw := marks (sl, tag, some k) }))) ∧
  (∀ (s : State) (e : Nat), frozen s.hw e = true → ∃ t, exec (.nullify e) s = .next t ∧ t.mem = s.mem ∧
    (∀ fl, (elemAt s.hw e).why = .offered fl → frozen t.hw e = false ∧ t.hw.net = s.hw.net ∧ (elemAt t.hw e).ops = (elemAt s.hw e).ops) ∧
    (∀ sl tag sp w, ((elemAt s.hw e).why = .firing sl tag ∨ (elemAt s.hw e).why = .brk sl tag) → slotSpec s.hw e sl = some (sp, w) →
      (headsAt (elemAt s.hw e) sl tag (setPorts sp w)).isSome = true →
      frozen t.hw e = false ∧ (elemAt t.hw e).ops = (elemAt s.hw e).ops ∧ (elemAt t.hw e).drop = some (sl, tag, none))) ∧
  (∀ (i : Instr) (op : BitVec 9) (w : Fields) (sp : OpSpec) (s : State) (f : Fire) (hw : Hw), opFields i = some (op, w) → commonOp op → specOf i = some sp →
    focusFire sp w s.hw = some f → dropped s.hw f = true → emitAll f s.hw [tokOf f .null] = .ok hw → exec i s = .next (fired f s hw)) ∧
  (∀ (s : State) (e sl : Nat) (tag : BitVec 20) (f : Fire) (hw : Hw), (elemAt s.hw e).why = .brk sl tag →
    let hw0 := unfreeze (ackElem s.hw e) e
    focusFire specBrk (wordFields (tget (elemAt hw0 e).words 0 sl)) { hw0 with focus := some { elem := e, slot := sl, tag := tag } } = some f →
    emitAll f hw0 [asSent f f.a] = .ok hw → exec (.step e) s = .next (fired f s hw)) ∧
  (∀ (s : State) (e : Nat), frozen s.hw e = false → exec (.reissue e) s = .next s ∧ exec (.nullify e) s = .next s) ∧
  (∀ (s : State) (e : Nat), (∀ sl tag, (elemAt s.hw e).why ≠ .brk sl tag) → exec (.step e) s = .next s)

/-- What the six configuration messages put in their place, in a frame without held messages and, but for KSET, uncommitted activations: behind those a message is held. One from an
ingress port, which sends KSET alone, has its place in its stream; it is dropped and counted if of another generation. A message whose code, source, continuation or unused bits are not as
Table 2.4 states freezes the element it names with cause 9 (02 R43, R44, Table 2.4, 15 R396; the registers' OP and tag being the model's reading, log 30). -/
def Clauses.ConfigMessages : Prop :=
  ∀ (s : State) (m : CfgMsg), m.tok.kind = .config →
    let e := contElem m.tok.cont
    let slot := contSlot m.tok.cont
    let c := contCore m.tok.cont
    let f := contFrame m.tok.cont
    let x := elemAt s.hw e
    let v := m.tok.value
    let loaded := (frameAt (coreAt s.hw c) f).state ≠ .free
    let inner := ∀ p, m.src ≠ .ingress p
    let fits := cfgPlace m.tok = true ∧ cfgUnused m.tok = true
    let first := fits ∧ (frameAt (coreAt s.hw c) f).held = []
    let good := inner ∧ first ∧ frameBusy s.hw c f = false
    let all := [(1, Instr.iwordLo m), (2, .iwordHi m), (3, .bhdrLo m), (4, .bhdrHi m), (5, .route m), (6, .kset m)]
    let ends := fun (i : Instr) (p : Hw → Prop) => ∃ hw, exec i s = .next { s with hw := hw } ∧ p hw
    (m.tok.aux = 1 → good → ends (.iwordLo m) fun hw => (elemAt hw e).lo = tins x.lo slot v ∧ (elemAt hw e).words = x.words ∧
      (loaded → elemAt hw e = { x with lo := tins x.lo slot v })) ∧
    (∀ l, m.tok.aux = 2 → good → tfind x.lo slot = some l → ends (.iwordHi m) fun hw =>
      (elemAt hw e).lo = tdel x.lo slot ∧ (elemAt hw e).words = tput x.words 0 slot (v ++ l) ∧
      (loaded → elemAt hw e = { x with lo := tdel x.lo slot, words := tput x.words 0 slot (v ++ l) })) ∧
    (m.tok.aux = 2 → good → tfind x.lo slot = none → ends (.iwordHi m) fun hw => frozen hw e = true ∧ (elemAt hw e).words = x.words) ∧
    (m.tok.aux = 3 → good → ends (.bhdrLo m) fun hw => (frameAt (coreAt hw c) f).lo = some v) ∧
    (∀ l, m.tok.aux = 4 → good → (frameAt (coreAt s.hw c) f).lo = some l → ends (.bhdrHi m) fun hw =>
      let fr := frameAt (coreAt hw c) f
      fr.header = v ++ l ∧ fr.lo = none ∧ fr.state = (if (frameAt (coreAt s.hw c) f).loadTask then .transient else .resident)) ∧
    (m.tok.aux = 5 → good → ends (.route m) fun hw =>
      tget (frameAt (coreAt hw c) f).routes 0 (v.extractLsb' 32 8).toNat = v.extractLsb' 0 32) ∧
    (m.tok.aux = 6 → inner → first → wordOp (tget x.words 0 slot) ≠ 0 → ends (.kset m) fun hw =>
      elemAt hw e = { x with words := tput x.words 0 slot ((tget x.words 0 slot).extractLsb' 48 80 ++ v.extractLsb' 0 48) }) ∧
    (m.tok.aux = 6 → inner → first → wordOp (tget x.words 0 slot) = 0 → ends (.kset m) fun hw => frozen hw e = true) ∧
    (∀ p n y, m.src = .ingress p → m.tok.aux = 6 → cfgFlight s.hw m = some n → s.hw.net[n]? = some y →
      (∀ z ∈ s.hw.net.take n, z.src ≠ .port p ∨ contElem z.tok.cont ≠ e) →
      let hw := { s.hw with net := s.hw.net.take n ++ s.hw.net.drop (n + 1) }
      (y.gen ≠ genOfCl s.hw (clOf (coreOf e)) → exec (.kset m) s = .next { s with hw := modPkg hw fun g => { g with stale := g.stale + 1 } }) ∧
      (y.gen = genOfCl s.hw (clOf (coreOf e)) → ¬ fits → exec (.kset m) s = .next { s with hw := cfgFault hw m cILLFIELD 9 }) ∧
      (y.gen = genOfCl s.hw (clOf (coreOf e)) → first → wordOp (tget x.words 0 slot) ≠ 0 → ends (.kset m) fun t =>
        t.net = hw.net ∧ elemAt t e = { x with words := tput x.words 0 slot ((tget x.words 0 slot).extractLsb' 48 80 ++ v.extractLsb' 0 48) })) ∧
    (∀ y ∈ all, m.tok.aux = BitVec.ofNat 7 y.1 → inner → ¬ fits → exec y.2 s = .next { s with hw := cfgFault s.hw m cILLFIELD 9 }) ∧
    (inner → (m.tok.aux = 0 ∨ 7 ≤ m.tok.aux.toNat) → exec (.iwordLo m) s = .next { s with hw := cfgFault s.hw m cILLFIELD 9 }) ∧
    (∀ y ∈ all, m.tok.aux = BitVec.ofNat 7 y.1 → inner → fits → ((frameAt (coreAt s.hw c) f).held ≠ [] ∨ (y.1 ≠ 6 ∧ frameBusy s.hw c f = true)) →
      exec y.2 s = .next { s with hw := modCore s.hw c fun k => setFrame k f { frameAt k f with held := (frameAt k f).held ++ [m] } })

/-- The events at an element's input, at its fault register and of its configuration. -/
def Obligations.ArrivalEvents : Prop :=
  Clauses.TokenFaults ∧ Clauses.OperandPlaces ∧ Clauses.TokenArrivals ∧ Clauses.ResumeEvents ∧ Clauses.ConfigMessages

/-! ## Service cores (13 R357 to R360, Tables 13.8, 13.9) -/

/-- A service action does what it is listed for on a unit in the state listed, the reports at the front of the inbox being read, and changes nothing on a unit in another: a stopped
generator runs on, or ends as a CANCEL asked, or is aborted with a FAULT; frozen nodes clear; a stall record's VALID clears; a valid region is aborted. A service takes the first request of its
number out of the inbox and replies: ECHO its value, MAPREQ 0 to the first whose page is present, else a refusal's code, LOG 0 with the value in the partition's log, HOST_SERVICE the host's
word, a number not listed REFUSED; ABORTSELF discards the calling task, or aborts the calling region, and replies nothing; a reply goes to both targets of its SVC (07 R217, R227, 08 R252, 13 R357 to R360; that an action on a unit in another state changes nothing is the model's reading, log 58; that any action or service
reads the reports at the front, and that a refusal's detail is free, are the model's choices, log 16). -/
def Obligations.ServiceEvents : Prop :=
  let acted := fun (s : State) (hw : Hw) (k : Nat) => (Host.Outcome.next { s with hw := readReports hw k } : Res State)
  (∀ (s : State) (c g : Nat), (genAt s.hw c g).state = .stopped →
    let x := genAt s.hw c g
    let goesOn := fun (y : Gen) => (let hw := forgetFails (setGen s.hw c g y) (dieOf c) (c % 64)
      match y.site with
      | some st => moved hw c st.frame
      | none => hw : Hw)
    let cancelled := { x with state := GenState.cancelling, record := {}, cancel := false, queue := [], emitted := x.emitted - x.run, run := 0, endDue := false }
    (x.cancel = false → exec (.genresume c g) s = acted s (goesOn { x with state := .running, record := {} }) (clOf c)) ∧
    (x.cancel = true → exec (.genresume c g) s = acted s (goesOn { cancelled with fail := none }) (clOf c)) ∧
    exec (.genabort c g) s =
      acted s (goesOn { cancelled with fail := some (x.record.code.toNat, x.record.fva.toNat, x.record.pos.toNat) }) (clOf c)) ∧
  (∀ (s : State) (c g : Nat), (genAt s.hw c g).state ≠ .stopped → exec (.genresume c g) s = .next s ∧ exec (.genabort c g) s = .next s) ∧
  (∀ (s : State) (c : Nat), let stopped := ((coreAt s.hw c).nodes.any fun n => n.2.stop.isSome) = true
    (stopped → exec (.nodeclear c) s = acted s (((coreAt s.hw c).nodes.filterMap fun n => stopFrame (coreAt s.hw c) n.2).foldl (fun hw f => moved hw c f)
      (nodeClear s.hw c)) (clOf c)) ∧
    (¬ stopped → exec (.nodeclear c) s = .next s)) ∧
  (∀ (s : State) (c n : Nat), (epAt s.hw c n).stall.valid = true → exec (.stallclear (.channel c n)) s =
    acted s (setEp s.hw c n { epAt s.hw c n with stall := { (epAt s.hw c n).stall with valid := false }, since := none }) (clOf c)) ∧
  (∀ (s : State) (k i : Nat), (tget (clAt s.hw k).qstall {} i).valid = true → ∃ hw, exec (.stallclear (.quiesce k i)) s = acted s hw k ∧
    tget (clAt hw k).qstall {} i = { tget (clAt s.hw k).qstall {} i with valid := false } ∧ tget (clAt hw k).qsince 0 i = s.hw.now) ∧
  (∀ (s : State) (c n k i : Nat), ((epAt s.hw c n).stall.valid = false → exec (.stallclear (.channel c n)) s = .next s) ∧
    ((tget (clAt s.hw k).qstall {} i).valid = false → exec (.stallclear (.quiesce k i)) s = .next s) ∧
    ((rcAt s.hw k i).valid = true → exec (.regionabort k i) s = acted s (regionAbort s.hw k i) k) ∧
    ((rcAt s.hw k i).valid = false → exec (.regionabort k i) s = .next s)) ∧
  (∀ (s : State) (die sc : Nat) (m : SvcMsg) (pre rest : List SvcMsg), (scAt s.hw die sc).reset = false → (scAt s.hw die sc).inbox = pre ++ m :: rest →
    let num := fun (y : SvcMsg) => y.tok.aux.toNat % 64
    let present := fun (y : SvcMsg) => pagePresent s.mem s.hw die y.asid y.tok.value = true
    let first := fun (p : Nat → Prop) => m.tok.aux.getLsbD 6 = true ∧ p (num m) ∧ ∀ y ∈ pre, ¬ (y.tok.aux.getLsbD 6 = true ∧ p (num y))
    let hw := setSc s.hw die sc { scAt s.hw die sc with inbox := (pre ++ rest).dropWhile fun y => !y.tok.aux.getLsbD 6 }
    let replied := fun (hw : Hw) (fault : Option (BitVec 8)) (v : Word) => (match m.reply, m.site with
      | true, some st => { hw with replies := hw.replies ++ [{ site := st, fault := fault, value := v }] }
      | _, _ => hw : Hw)
    let refused := replied { hw with free := hw.free + 1 } (some (BitVec.ofNat 8 cREFUSED)) (Config.refusalDetail hw.free)
    (first (· = 0) → exec (.echo die sc) s = .next { s with hw := replied hw none m.tok.value }) ∧
    (m.tok.aux.getLsbD 6 = true → num m = 1 → present m → (∀ y ∈ pre, y.tok.aux.getLsbD 6 = true → num y = 1 → ¬ present y) →
      ∀ r, exec (.mapreq die sc r) s = .next { s with hw := replied hw none 0 }) ∧
    (first (· = 1) → (∀ y ∈ pre ++ m :: rest, y.tok.aux.getLsbD 6 = true → num y = 1 → ¬ present y) → ∀ r ∈ [cPAGE, cPROT],
      exec (.mapreq die sc (some (BitVec.ofNat 8 r))) s = .next { s with hw := replied hw none (BitVec.ofNat 64 r) }) ∧
    (first (· = 2) → ∀ p, partOfAsid s.hw m.asid = some p → ∃ hw', exec (.log die sc) s = .next { s with hw := replied hw' none 0 } ∧
      tget hw'.pkg.logs [] p = tget s.hw.pkg.logs [] p ++ [m.tok.value] ∧ hw'.cores = s.hw.cores ∧ hw'.elems = s.hw.elems) ∧
    (first (· = 2) → partOfAsid s.hw m.asid = none → exec (.log die sc) s = .next { s with hw := replied hw none 0 }) ∧
    (∀ id y, first (· = 3) → m.task = some id → taskAt s.hw id = some y → exec (.abortself die sc) s = .next { s with hw := discardTask hw y }) ∧
    (∀ st k i r, first (· = 3) → m.task = none → m.site = some st → regionOf s.hw (coreOf st.elem) st.frame = some (k, i, r) →
      exec (.abortself die sc) s = .next { s with hw := regionAbort hw k i }) ∧
    (first (· = 3) → ((∃ id, m.task = some id ∧ taskAt s.hw id = none) ∨ (m.task = none ∧ ∀ st, m.site = some st → regionOf s.hw (coreOf st.elem) st.frame = none)) →
      exec (.abortself die sc) s = .next { s with hw := hw }) ∧
    (first (32 ≤ ·) → (∀ v, exec (.hostService die sc (some v)) s = .next { s with hw := replied hw none v }) ∧
      exec (.hostService die sc none) s = .next { s with hw := refused }) ∧
    (first (fun n => 4 ≤ n ∧ n < 32) → exec (.serviceRefused die sc) s = .next { s with hw := refused })) ∧
  (∀ (s : State) (n : Nat) (r : SvcReply), s.hw.replies[n]? = some r →
    let hw := { s.hw with replies := s.hw.replies.take n ++ s.hw.replies.drop (n + 1) }
    let t := match r.fault with
      | none => mkTok 0 r.site.tag .data r.value
      | some c => mkTok 0 r.site.tag .fault r.value (c.setWidth 7)
    exec (.svcReply n) s = .next { s with hw := settle hw r.site (emitBoth hw r.site [t]) })

/-! ## The loader and host ingress (15 R383 to R392, 06 R162) -/

/-- An object is kept whole, and found under the handle that it was given, where it can be read, passes its checks, and pages are given for its parts; else the loader answers
the code of the first check that failed and nothing else changes. Unloading an object frees its entries. A firmware update rebuilds the blocks of an object with a graph section; one
without keeps its handle only where the new level supports it. A Resident frame without activations becomes Free, its slots EMPTY (06 R162, 15 R387 to R392). What rebuilt words are is
free (log 9; the pages given and the answer kept are the model's choice, log 14, 41; the order of the checks of blocks, and the code of a wrong DIGEST or signature, logs 86, 80). -/
def Clauses.LoaderEvents : Prop :=
  (∀ (s : State) (asid base : Nat) (pages : List Nat) (img : List Byte),
    let a := BitVec.ofNat 10 asid
    let answers := fun (m : Mem) (hw : Hw) (code : Nat) =>
      (Host.Outcome.next { mem := m, hw := modPkg hw fun p => { p with loadCode := BitVec.ofNat 8 code } } : Res State)
    (∀ code, parseObject img base = .error code → exec (.objectLoad asid base ⟨pages, img⟩) s = answers s.mem s.hw code) ∧
    (∀ o, parseObject img base = .ok o →
      (∀ code, objectCheck s.hw a img o = some code → exec (.objectLoad asid base ⟨pages, img⟩) s = answers s.mem s.hw code) ∧
      (∀ m hw i, objectCheck s.hw a img o = none → storeWaits s.mem s.hw a pages ((objectParts img o).map fun x => (x.1, x.2.1.length)) = false →
        freeHandle s.hw = some i → keepObject s.mem s.hw a pages img o = some (m, hw) →
        exec (.objectLoad asid base ⟨pages, img⟩) s = answers m hw 0 ∧ objOf hw (BitVec.ofNat 32 (s.hw.pkg.hseq.toNat * 2 ^ 12 + i)) = some o) ∧
      ((tget (dieAt s.hw 0).xlAsid 0 a.toNat).getLsbD 63 = false → ∃ m hw, keepObject s.mem s.hw a pages img o = some (m, hw)))) ∧
  (∀ (s : State) (r : BitVec 32) (o : Obj), objOf s.hw r = some o → ∃ t, exec (.objectUnload r) s = .next t ∧ t.mem = s.mem ∧ objOf t.hw r = none ∧
    t.hw.pkg.handles.length < s.hw.pkg.handles.length) ∧
  (∀ (s : State) (r : BitVec 32) (level : Nat), objOf s.hw r = none → ∃ t, exec (.firmwareUpdate ⟨r, level⟩) s = .next t ∧ t.hw.pkg.flevel = level ∧ t.mem = s.mem ∧
    ∀ q o, objOf s.hw q = some o → o.graph.isEmpty = true → level < o.flevel → q ∈ unsupported s.hw level) ∧
  (∀ (s : State) (r : BitVec 32) (o : Obj) (level : Nat), objOf s.hw r = some o → (o.graph.isEmpty = true ∨ (rebuildObject s.mem s.hw r).isSome = true) → ∃ t, exec (.firmwareUpdate ⟨r, level⟩) s = .next t ∧ t.hw.pkg.flevel = level ∧
    (o.graph.isEmpty = true → t.mem = s.mem ∧ (level < o.flevel → objOf t.hw r = none) ∧ (r ∉ unsupported s.hw level → objOf t.hw r = some o)) ∧
    (o.graph.isEmpty = false → r ∉ unsupported s.hw level → ∃ bs, objOf t.hw r = some { o with blocks := bs } ∧ bs.length = o.blocks.length)) ∧
  (∀ (s : State) (c f : Nat), (frameAt (coreAt s.hw c) f).state = .resident → frameBusy s.hw c f = false → c < 256 → f < 8 →
    ∃ t, exec (.frameUnload c f) s = .next t ∧ t.mem = s.mem ∧ frameAt (coreAt t.hw c) f = { asid := (frameAt (coreAt s.hw c) f).asid } ∧
      ∀ e5 j, e5 < 32 → j < 4 → tget (elemAt t.hw (c * 32 + e5)).words 0 (f * 4 + j) = 0)

/-- A stream's tokens are taken in order at NEXT, a misplaced write being discarded with an error record; a token that passes the checks of Table 15.5 goes on its way with its partition's
generation, one that fails puts the stream into the error state, in which tokens are dropped; the eighth HEADER token of a record sends the record. HOIST and INSTALL hold the stream until the hoist is resident, the installation
complete or failed; a stream that a cut holds waits (15 R383 to R386, R392, 16 R416; a hoist that is already resident stays as it is, log 23; a stream without a current hoist has no
ASID to act for, log 15; visibility of an installed version is at once, log 98). -/
def Clauses.IngressEvents : Prop :=
  (∀ (s : State) (b : Writer) (a off : Nat) (bs : List Byte),
    (aperturePort s.hw b a = none → exec (.ingressWrite ⟨b, a⟩ off bs) s = .next s) ∧
    (∀ p, aperturePort s.hw b a = some p →
      let x := portAt s.hw p
      let takes := portHolds s.hw x = false ∧ x.hold = .none ∧ x.queue = [] ∧ portHeld s.hw p = false
      let placed := BitVec.ofNat 16 off = x.next ∧ bs.length % 16 = 0 ∧ bs.length ≤ 65536
      (x.en = false → exec (.ingressWrite ⟨b, a⟩ off bs) s = .next s) ∧
      (x.en = true → takes → placed →
        let y := { x with queue := writeTokens off bs, next := x.next + BitVec.ofNat 16 bs.length }
        exec (.ingressWrite ⟨b, a⟩ off bs) s = .next { s with hw := portGo (setPort s.hw p y) p }) ∧
      (x.en = true → takes → ¬ placed →
        exec (.ingressWrite ⟨b, a⟩ off bs) s = .next { s with hw := setPort s.hw p (portErr x (BitVec.ofNat 16 off) cINGRESS 7) }))) ∧
  (∀ (hw : Hw) (a : Nat), ((∀ n, aperturePort hw (.agent n) a = if a < 64 then some a else none) ∧
    ∀ n, aperturePort hw (.function (n + 1)) a = ((List.range 64).filter fun p =>
      (tget hw.pkg.parts {} (portAt hw p).part.toNat).valid && decide ((tget hw.pkg.parts {} (portAt hw p).part.toNat).func.toNat = n + 1))[a]?)) ∧
  (∀ (hw : Hw) (p : Nat) (x : Port) (off : BitVec 16) (t : Token),
    (x.err = true → portTake hw p x off t = setPort hw p { x with seq := x.seq + 1 }) ∧
    (x.err = false → tokenCheck hw x t = none → t.kind ≠ .header → ∃ hw', portTake hw p x off t = hw' ∧
      hw'.net = hw.net ++ [{ tok := t, src := .port p, side := none, gen := (tget hw.pkg.parts {} x.part.toNat).gen }] ∧
      portAt hw' p = { x with seq := x.seq + 1 }) ∧
    (x.err = false → tokenCheck hw x t = none → t.kind = .header →
      (x.words.length < 7 → portTake hw p x off t = setPort hw p { x with words := x.words ++ [t.value], seq := x.seq + 1 }) ∧
      (∀ cc, 7 ≤ x.words.length → portCluster hw x = some cc → portTake hw p x off t =
        setPort { hw with recs := hw.recs ++ [{ words := x.words ++ [t.value], psn := false, asid := portAsid hw x, cc := cc, site := none, port := some p }] } p
          { x with words := [], hold := .record, curOff := off, seq := x.seq + 1 })) ∧
    (∀ code cause, x.err = false → tokenCheck hw x t = some (code, cause) → ∃ hw', portTake hw p x off t = hw' ∧ hw'.net = hw.net ∧
      (portAt hw' p).err = true ∧ (portAt hw' p).seq = x.seq + 1 ∧ (portAt hw' p).nrec = x.nrec + 1 ∧
      tget (portAt hw' p).ewin {} (x.nrec % 4) = { offset := off, code := BitVec.ofNat 8 code, cause := BitVec.ofNat 4 cause, seq := x.seq })) ∧
  (∀ (s : State) (p : Nat) (off : BitVec 16) (t : Token) (rest : List (BitVec 16 × BitVec 128)),
    let x := { portAt s.hw p with queue := rest, seq := (portAt s.hw p).seq + 1, cur := t.value, curOff := off }
    let r := t.value.extractLsb' 0 32
    (portControl s.hw p 7 = some (off, t, rest) →
      (hoistResident s.hw r = true → exec (.hoist p) s = .next { s with hw := portGo (setPort s.hw p { x with hoist := r }) p }) ∧
      (hoistResident s.hw r = false → exec (.hoist p) s = .next { s with hw := setPort s.hw p { x with hold := .hoist } })) ∧
    (portControl s.hw p 8 = some (off, t, rest) → exec (.install p) s = .next { s with hw := setPort s.hw p { x with hold := .install } })) ∧
  (∀ (hw : Hw) (p : Nat) (x : Port) (t : Token), portHeld hw p = true → tokenWaits hw p x t = true) ∧
  (∀ (hw : Hw) (p : Nat), hw.pkg.cut.state ≠ 0 → portHeld hw p = true) ∧
  (∀ (s : State) (p : Nat), (portAt s.hw p).hold = .hoist → portHeld s.hw p = false →
    let r := (portAt s.hw p).cur.extractLsb' 0 32
    (hoistResident s.hw r = true →
      exec (.hoistPlacement p) s = .next { s with hw := portFree (setPort s.hw p { portAt s.hw p with hoist := r }) p none }) ∧
    (hoistResident s.hw r = false →
      let placed := placeHoist s.hw r ((portAt s.hw p).cur.toNat / 2 ^ 32 % 2 ^ 16)
      (∀ hw, placed = .ok hw → exec (.hoistPlacement p) s = .next { s with hw := portFree (setPort hw p { portAt hw p with hoist := r }) p none }) ∧
      (∀ code, placed = .error code → exec (.hoistPlacement p) s = .next { s with hw := portFree s.hw p (some (code, 9)) }))) ∧
  (∀ (s : State) (p : Nat) (h : Handle) (o : Obj), (portAt s.hw p).hold = .install → portHeld s.hw p = false →
    let r := (portAt s.hw p).cur.extractLsb' 0 32
    let hw := modPkg s.hw fun g => { g with ttypes := typesAfter g.ttypes h.asid r o }
    handleOf s.hw r = some h → objOf s.hw r = some o →
    (hoistsFit hw h.asid = false → exec (.installComplete p) s = .next { s with hw := portFree s.hw p (some (cTAGBUDGET, 9)) }) ∧
    (hoistsFit hw h.asid = true → ∃ hw', exec (.installComplete p) s = .next { s with hw := portFree hw' p none } ∧ hw'.pkg.ttypes = hw.pkg.ttypes)) ∧
  (∀ (s : State) (p : Nat), (portAt s.hw p).hold = .install → portHeld s.hw p = false → objOf s.hw ((portAt s.hw p).cur.extractLsb' 0 32) = none →
    exec (.installComplete p) s = .next { s with hw := portFree s.hw p (some (cHANDLE, 8)) })

/-- The events of the loader and of host ingress. -/
def Obligations.LoaderEvents : Prop := Clauses.LoaderEvents ∧ Clauses.IngressEvents

/-! ## Registers from outside (15 R380, R382, R385, R393 to R397, R399, 11 R311, 13 R344, 16 R405, R408) -/

/-- A write by one who may not write a register, or to no register, changes nothing, one through a virtual function being counted; the owner and firmware may write the package's registers, a
partition's function its own ports' and clusters', and a core by a store its partition's. A permitted write has the register's own effect, granule by granule, port by port, and as ownership passes, of
claims at once the lowest agent's first; a read answers with the value and clears what it clears; through
a virtual function only its partition's registers answer, others read 0. A service core's store to memory performs at its home: that it is this event is the model's choice (00 R5, 11 R311, 13 R344, R356, 15
R380 to R382, R385, R393 to R397, R399, 16 R405, R408, log 77; which writes of a virtual function are counted, log 53). -/
def Obligations.RegisterEvents : Prop :=
  let wrote := fun (s : State) (hw : Hw) => (Host.Outcome.next { s with hw := hw } : Res State)
  (∀ (hw : Hw) (n : BitVec 2) (q p : Nat) (k : Nat), mayWrite hw .firmware .gown = true ∧ (mayWrite hw (.agent n) .gown = true ↔ n = hw.pkg.owner ∧ n ≠ 0) ∧
    mayWrite hw (.function q) .gown = false ∧ mayWrite hw (.function q) .ownClaim = false ∧ mayWrite hw (.function q) .ownSucc = false ∧
    (∀ r, mayRead hw (.agent n) r = true ∧ mayRead hw .firmware r = true ∧ mayRead hw (.function q) r = mayWrite hw (.function q) r) ∧
    (∀ c, mayWrite hw (.core c) .gown = false ∧ mayWrite hw (.core c) .ownClaim = false ∧
      (mayWrite hw (.core c) (.cntVal k 0) = true ↔ c.isSome = true ∧ partOfCl hw k = c)) ∧
    (let ofFunction := fun (n : Nat) => (tget hw.pkg.parts {} n).valid = true ∧ (tget hw.pkg.parts {} n).func.toNat = q
     (mayWrite hw (.function q) (.cntVal k 0) = true ↔ ∃ n, partOfCl hw k = some n ∧ ofFunction n) ∧
     (mayWrite hw (.function q) (.ingCfg p) = true ↔ ofFunction (portAt hw p).part.toNat))) ∧
  (∀ (s : State) (b : Writer) (v : Word),
    let no := fun (i : Instr) (r : Reg) => mayWrite s.hw b r = false → exec i s = wrote s (ignored s.hw b)
    let yes := fun (i : Instr) (r : Reg) (hw : Hw) => mayWrite s.hw b r = true → exec i s = wrote s hw
    (∀ k n, k < 32 → n < 1024 → no (.cntValWrite b k n v) (.cntVal k n) ∧
      (let x := cntAt s.hw k n
       yes (.cntValWrite b k n v) (.cntVal k n) (settleCnt (setCnt s.hw k n
        { v := v.setWidth 32, fault := x.fault && !v.getLsbD 32, uflow := x.uflow && !v.getLsbD 33 }) k n))) ∧
    (∀ d, d < 4 → v.getLsbD 63 = true → (dieAt s.hw d).shoot = none →
      (v.getLsbD 62 = false → no (.shootDown b d v) (.xlInv d) ∧ yes (.shootDown b d v) (.xlInv d) (shootWrite s.hw d v)) ∧
      (v.getLsbD 62 = true → no (.shootDownAll b d v) (.xlInv d) ∧ yes (.shootDownAll b d v) (.xlInv d) (shootWrite s.hw d v))) ∧
    (∀ p, p < 64 → no (.ingCfgWrite b p v) (.ingCfg p) ∧
      (let x := { portAt s.hw p with en := v.getLsbD 63, part := v.setWidth 4 }
       yes (.ingCfgWrite b p v) (.ingCfg p) (setPort s.hw p
        (if v.getLsbD 63 = true ∧ (portAt s.hw p).en = false then { x with next := 0, seq := 0, hoist := 0, ewin := [], nrec := 0, words := [] } else x)))) ∧
    (∀ p, p < 64 → v.getLsbD 0 = true → no (.ingErrClear b p v) (.ingStatus p) ∧
      yes (.ingErrClear b p v) (.ingStatus p) (setPort s.hw p { portAt s.hw p with err := false, words := [] })) ∧
    (v.getLsbD 63 = true → v.extractLsb' 61 2 ≠ 3 → s.hw.pkg.assigning = none → no (.granuleAssign b v) .gown ∧
      yes (.granuleAssign b v) .gown (modPkg s.hw fun p => { p with assigning := some (v.toNat % 2 ^ 18, v.extractLsb' 61 2, v.extractLsb' 51 10) })) ∧
    ((v.getLsbD 63 = false ∨ v.extractLsb' 61 2 = 3) → yes (.granuleAssign b v) .gown s.hw) ∧
    (∀ n, n < 16 → no (.partCfgWrite b n v) (.partCfg n) ∧
      (v.getLsbD 63 = true → (∃ q ∈ s.hw.pkg.parts, q.1 ≠ n ∧ q.2.valid = true ∧ q.2.clusters &&& v.setWidth 32 ≠ 0) →
        yes (.partCfgWrite b n v) (.partCfg n) s.hw) ∧
      ((v.getLsbD 63 = false ∨ ∀ q ∈ s.hw.pkg.parts, q.1 ≠ n → q.2.valid = true → q.2.clusters &&& v.setWidth 32 = 0) → mayWrite s.hw b (.partCfg n) = true →
        ∃ t, exec (.partCfgWrite b n v) s = .next t ∧ tget t.hw.pkg.parts {} n =
          { tget s.hw.pkg.parts {} n with valid := v.getLsbD 63, func := v.extractLsb' 40 5, clusters := v.setWidth 32 })) ∧
    (v.getLsbD 63 = true → no (.partReset b v) .partReset ∧ (mayWrite s.hw b .partReset = true →
      ∃ t, exec (.partReset b v) s = .next t ∧ t = (let r := partReset s.mem s.hw (v.toNat % 16)
                                                    { mem := r.1, hw := r.2 }) ∧
        (tget t.hw.pkg.parts {} (v.toNat % 16)).gen = (tget s.hw.pkg.parts {} (v.toNat % 16)).gen + 1)) ∧
    (∀ l, l < 16 → no (.lnkCtlWrite b l v) (.lnkCtl l) ∧ yes (.lnkCtlWrite b l v) (.lnkCtl l) (lnkCtlWrite s.hw l v)) ∧
    ((mayPkg s.hw b = false → exec (.ensSelfWrite b v) s = wrote s (ignored s.hw b)) ∧
     (mayPkg s.hw b = true → (∃ x ∈ s.hw.pkg.ports, x.2.en = true) → exec (.ensSelfWrite b v) s = .next s) ∧
     (mayPkg s.hw b = true → (∀ x ∈ s.hw.pkg.ports, x.2.en = false) → ∃ hw, exec (.ensSelfWrite b v) s = wrote s hw ∧
       (∀ d, d < 4 → (dieAt hw d).ensSelf = (v &&& 0x80000000000003FF)) ∧ hw.pkg.nums = [] ∧ hw.pkg.replay = [] ∧ hw.pkg.fabWait = [] ∧ hw.pkg.recvBuf = [])) ∧
    (∀ a, inRegs a = true → a % 8 = 0 →
      (regAt a = none → (b ≠ .firmware ∨ inMemory a = false) → exec (.registerWrite b a v) s = wrote s (ignored s.hw b)) ∧
      (∀ r, regAt a = some r → (b ≠ .firmware ∨ inMemory a = false) → mayWrite s.hw b r = false → exec (.registerWrite b a v) s = wrote s (ignored s.hw b)) ∧
      (∀ r, regAt a = some r → (b ≠ .firmware ∨ inMemory a = false) → mayWrite s.hw b r = true → r ≠ .gown → (∀ d, r ≠ .pctl d ∧ r ≠ .xlInv d) → ∃ m hw, regSet b s.mem s.hw r v = some (m, hw) ∧
        exec (.registerWrite b a v) s = .next { mem := m, hw := hw }) ∧
      (let answers := fun (hw : Hw) (x : Word) => exec (.registerReadClear ⟨b, a⟩) s = wrote s (modPkg hw fun p => { p with readVal := x })
       (∀ r, regAt a = some r → mayRead s.hw b r = true → answers (regReadEffect s.hw r) (regValue s.hw r)) ∧
       ((∀ r, regAt a = some r → mayRead s.hw b r = false) → answers s.hw 0))) ∧
    (∀ a, inMemory a = true → a % 8 = 0 → zeroing s.hw a = false → bankBusy s.hw 3 a 8 = false → exec (.registerWrite .firmware a v) s =
      .next { mem := memStore s.mem a 8 v.toNat false, hw := afterWrite (memStore s.mem a 8 v.toNat false) (physWrite (bankTake s.hw a 8) a) a 8 })) ∧
  (∀ (s : State) (k i : Nat), k < 32 → i < 12 → ∃ hw, exec (.errEfaultAck k i) s = wrote s hw ∧
    tget (clAt hw k).copies {} i = { tget (clAt s.hw k).copies {} i with held := false }) ∧
  (∀ (s : State) (g : Nat) (kind : BitVec 2) (own : BitVec 10), s.hw.pkg.assigning = some (g, kind, own) → ∃ t, exec .granuleZeroed s = .next t ∧
    t.hw.pkg.assigning = none ∧ tget t.hw.pkg.granules (0, 0) g = (kind, own) ∧
    (∀ a, memByte t.mem a = if g * 2 ^ 21 ≤ a ∧ a < g * 2 ^ 21 + 2 ^ 21 then 0 else memByte s.mem a)) ∧
  (∀ (s : State) (n m : BitVec 2),
    ((∀ k, Instr.ownClaim k ∈ s.hw.inputs → k = 0 ∨ n ≤ k) → exec (.ownClaim n) s = if s.hw.pkg.owner = 0 ∧ n ≠ 0 then wrote s (modPkg s.hw fun p => { p with owner := n, epoch := p.epoch + 1 }) else .next s) ∧
    (exec (.ownSucc n m) s = if n ≠ 0 ∧ s.hw.pkg.owner = n ∧ m ≠ n then wrote s (modPkg s.hw fun p => { p with owner := m, epoch := p.epoch + 1 }) else .next s)) ∧
  (∀ hw : Hw, regValue (regReadEffect hw .errCe) .errCe = 0 ∧ regValue (regReadEffect hw .errUe) .errUe = 0 ∧ regValue (regReadEffect hw .errStale) .errStale = 0 ∧
    ∀ k, regValue (regReadEffect hw (.starts k)) (.starts k) = 0 ∧ (clAt (regReadEffect hw (.monStat k)) k).monOver = 0)

/-! ## Activations, tasks' blocks and regions (06 R162 to R193, 10 R265, R267, 11 R314, R315) -/

/-- An activation with every store, write and exit of its masks accounted for, which none of its tag precedes, commits: it leaves, its writes reach the context's hold registers with its
poison mark, its stores go to the release queue, and a task whose exit names no successor retires. A successor opens where its block stands, or is fetched, or its task parks; at its retirement a
task's keys go and its done counter is decremented; a parked task resumes, and one that is parked, saved or running is discarded (06 R163, R168 to R170, R175 to R178, 10 R265, R267, 13 R346; what a discard leaves is the model's reading, log 39, 51, and that only the frame which loses its last activation becomes Cached is log 95's). -/
def Clauses.ActivationEvents : Prop :=
  (∀ (s : State) (c q : Nat) (a : Act),
    let x := coreAt s.hw c
    x.acts.find? (fun a => a.seq = q) = some a → beforeSeqs s.hw c a = [] →
    (∀ i, i < 32 → smaskBit (frameAt x a.frame).header i = true → a.lsids.getLsbD i = true) →
    (∀ j, j < 64 → wmaskBit (frameAt x a.frame).header j = true → (tfind a.writes j).isSome = true) → a.exit.isSome = true →
    let left := fun (hw : Hw) =>
      (coreAt hw c).acts.map (·.seq) = (x.acts.filter (fun y => y.seq != q)).map (·.seq) ∧ (coreAt hw c).stores = x.stores.filter (fun b => b.seq != q) ∧
      (∀ n, a.ctx = some n → (ctxAt (coreAt hw c) n).hold = commitWrites (actMarked x a) a.writes (ctxAt x n).hold) ∧
      (∀ n b k, a.tag = mkTag (0xFF0 + n) 0 → n < 16 → a.ctx = some n → a.exit = some (b, k) → b = noSuccessor → (ctxAt x n).state = .running →
        (ctxAt (coreAt hw c) n).state = .retiring)
    ((∀ b ∈ x.stores ++ x.releaseQ, b.stale = false) → ∃ t, exec (.commit c q) s = .next t ∧ left t.hw ∧ t.mem = s.mem) ∧
    ∃ hw, left hw ∧ (coreAt hw c).releaseQ = x.releaseQ ++ ((x.stores.filter fun b => b.seq = q).map fun b => { b with psn := b.psn || actMarked x a }) ∧
      exec (.commit c q) s = (match drainReleases s.mem hw c with
        | none => .fault .notEnabled
        | some (m, hw) => .next { mem := m, hw := hw })) ∧
  (∀ (m : Bool) (l : Tab Staged) (h : Tab (Word × Bool)) (j : Nat), commitWrites m [] h = h ∧ commitWrites m ((j, .null) :: l) h = commitWrites m l h ∧
    ∀ v p, commitWrites m ((j, .value v p) :: l) h = commitWrites m l (tput h (0, false) j (v, p || m))) ∧
  (∀ (s : State) (c n : Nat) (nx : Succ),
    let k := ctxAt (coreAt s.hw c) n
    k.next = some nx → k.state = .running → nx.failed = none → chainLen (coreAt s.hw c) n < 4 → heldAsid s.hw k.asid = false →
    let found := holdingFrame s.hw c k.asid (currentRef s.hw 4096 nx.srchnd) nx.block.toNat
    (∀ f, found = some f → exec (.successorOpen c n) s =
      .next { s with hw := openBlock (modCore s.hw c fun x => setCtx x n { k with next := none }) c f n }) ∧
    (found = none → ∀ m hw, (∀ f, blockFrame s.mem s.hw c k.asid nx.srchnd nx.block.toNat = some (m, hw, .ok f) →
        exec (.fetch c n) s = .next { mem := m, hw := hw }) ∧
      (∀ r tva, blockFrame s.mem s.hw c k.asid nx.srchnd nx.block.toNat = some (m, hw, .error (r, tva)) →
        let fail := { nx with failed := some (BitVec.ofNat 4 r, tva) }
        exec (.fetch c n) s = .next { mem := m, hw := parkIfDue (modCore hw c fun x => setCtx x n { ctxAt x n with next := some fail }) c n }))) ∧
  (∀ (s : State) (c n : Nat) (t : Task),
    let k := ctxAt (coreAt s.hw c) n
    s.hw.tasks.find? (fun t => t.id = k.task) = some t → k.state = .retiring → storesPerformed s.hw c n = true →
    (∀ a ∈ (coreAt s.hw c).acts, ¬ (a.ctx = some n ∧ tagSpace a.tag = 0xFF0 + n)) →
    let hw1 := releaseKeys s.hw t
    let hw2 := { hw1 with tasks := hw1.tasks.filter fun u => u.id != t.id }
    (recDonec t.words = 0x3FF → exec (.retirement c n) s = .next { s with hw := freeCtx hw2 c n }) ∧
    (recDonec t.words ≠ 0x3FF → exec (.retirement c n) s =
      .next { s with hw := freeCtx (decCnt hw2 t.cc (recDonec t.words) 1 false) c n })) ∧
  (∀ (s : State) (c n : Nat), n < 16 →
    let k := ctxAt (coreAt s.hw c) n
    (k.state ≠ .parked → exec (.taskresume c n) s = .next s) ∧
    (k.state = .parked → ∃ t, exec (.taskresume c n) s = .next t ∧ t.mem = s.mem ∧ (ctxAt (coreAt t.hw c) n).state = .running ∧
      (ctxAt (coreAt t.hw c) n).record = {} ∧ (ctxAt (coreAt t.hw c) n).next = k.next.map fun x => { x with failed := none })) ∧
  (∀ (s : State) (c : Nat), (coreAt s.hw c).relHeld = false → exec (.taskresume c 16) s = .next s) ∧
  (∀ (s : State) (c : Nat), (coreAt s.hw c).relHeld = true →
    let hw := modCore (forgetFails s.hw (dieOf c) (c % 64)) c fun x => { x with relHeld := false, relRec := {} }
    (∀ m hw', drainReleases s.mem hw c = some (m, hw') → exec (.taskresume c 16) s = .next { mem := m, hw := hw' }) ∧
    ((∀ b ∈ (coreAt s.hw c).releaseQ, b.stale = false) → ∃ hw', drainReleases s.mem hw c = some (s.mem, hw'))) ∧
  (∀ (s : State) (n : Nat) (t : Task), s.hw.tasks.find? (fun t => t.id = n) = some t →
    ((t.state = .parked ∨ t.state = .saved ∨ t.state = .running) → exec (.taskdiscard n) s = .next { s with hw := discardTask s.hw t }) ∧
    (¬ (t.state = .parked ∨ t.state = .saved ∨ t.state = .running) → exec (.taskdiscard n) s = .next s)) ∧
  (∀ (s : State) (n : Nat), s.hw.tasks.find? (fun t => t.id = n) = none → exec (.taskdiscard n) s = .next s)

/-- A region's controller samples its elements and takes up the reporters' decision: quiet, if none has fired since the last sample; the head SWITCH of a quiet region makes its frame the current configuration in a new period and sends its token on; a QUIET request
has its set fixed from the other cores' activations; a watch that has counted 65,536 cycles over operands that wait alone records them and reports STALL (03 Table 3.1, R103, 06 R185, R190, R191, 11 R314, R315). -/
def Clauses.RegionEvents : Prop :=
  (∀ (s : State) (k i : Nat),
    let r := rcAt s.hw k i
    let still := stayedQuiet s.hw (probed k r)
    let decides := regionQuiet s.hw k r && still
    (¬ (r.quiet = decides ∧ still = true) → ∃ t, exec (.quiescenceProbe k i) s = .next t ∧
      t = { s with hw := setRc ((probed k r).foldl sampleCore s.hw) k i { r with quiet := decides } } ∧ t.mem = s.mem ∧
      ∀ c ∈ probed k r, ∀ e5, e5 < 32 → (elemAt t.hw (c * 32 + e5)).fired = false) ∧
    (still = true ↔ ∀ c ∈ probed k r, ∀ e5, e5 < 32 → (elemAt s.hw (c * 32 + e5)).fired = false ∨ frozen s.hw (c * 32 + e5) = true) ∧
    (∀ f t site rest, r.swq = (f, t, site) :: rest → r.quiet = true → regionQuiet s.hw k r = true →
      let hw0 := setRc s.hw k i { r with swq := rest, period := r.period + 1, cur := f, quiet := false }
      let hw1 := (regionCores (k / 8) r).foldl (fun hw c => modCore hw c (unmarkFrames r.frames)) hw0
      rcAt hw1 k i = { r with swq := rest, period := r.period + 1, cur := f, quiet := false } ∧
      ∀ hw, (do let hw ← emitTo hw1 site (siteSrc site) site.t0 t true
                emitTo hw site (siteSrc site) site.t1 t true) = .ok hw →
        exec (.regionSwitch k i) s = .next { s with hw := hw }) ∧
    (∀ pre q rest, r.quiets = pre ++ q :: rest → (∀ y ∈ pre, y.taken.isSome = true) → q.taken = none →
      let others := (regionCores (k / 8) r).filter fun c => c != coreOf q.elem
      let set := others.flatMap fun c => ((coreAt s.hw c).acts.filter fun a => a.frame = r.cur.toNat).map fun a => (c, a.seq)
      exec (.quietRequestTaken k i) s = .next { s with hw := setRc s.hw k i { r with quiets := pre ++ { q with taken := some set } :: rest } }) ∧
    (i < 12 → (tget (clAt s.hw k).qstall {} i).valid = false → lonely s.hw (watched s.hw k i) ≠ [] → (∀ x ∈ watched s.hw k i, unitStopped s.hw x.1 x.2 = false) →
      lastMove s.hw (watched s.hw k i) + 65536 ≤ s.hw.now → tget (clAt s.hw k).qsince 0 i + 65536 ≤ s.hw.now →
      ∃ t, exec (.quiescenceStall k i) s = .next t ∧ t.mem = s.mem ∧ tget (clAt t.hw k).qstall {} i = stallRecord s.hw k i (lonely s.hw (watched s.hw k i)) ∧
        (tget (clAt t.hw k).qstall {} i).valid = true ∧ t.hw.svc.length = s.hw.svc.length + 1))

/-- The events of activations, tasks' blocks and regions. -/
def Obligations.BlockEvents : Prop := Clauses.ActivationEvents ∧ Clauses.RegionEvents

/-! ## Accesses at their homes (07 R200 to R203, R211, R212, 11 R298, R304, R312) -/

/-- An access that nothing of its port holds back performs at its home in one step: a load answers its bytes with the forwarded ones in their place, a store writes its bytes and answers ORDER, a
release store does so after its activation's others, an atomic writes its new value and answers the old, a line fills its row-buffer entry, a word reaches the firing that waits for it; in register space the register answers.
One refused a bank sixteen times, or refused and of higher priority, goes first. The WAITA of a condition that holds is done, else an entry waits for it or the table is full, or its
deadline passes. An access for another package leaves for it, or meets its fault (07 R200 to R203, R205, R211, R212, 11 R298, R304, R312, 16 R407, R410; a store to register
space that is not of 8 bytes is ignored, and a narrower load answers some of the register's bytes, by log 17). -/
def Obligations.HomeEvents : Prop :=
  (∀ (s : State) (n : Nat) (a : Access), s.hw.acc[n]? = some a → accDue s.hw n a = true → (paLC a.pa = ownLC s.hw → zeroing s.hw (paLocal a.pa) = false) →
    let l := paLocal a.pa
    let hw := grant s.hw n a
    let free := outranked s.hw a = false
    let old := memRead s.mem l a.width
    let psn := rangePsn s.mem l a.width
    let here := paLC a.pa = ownLC s.hw ∧ inRegs l = false
    (here → a.strel = none → free → ∀ sgn acq, a.kind = .load sgn acq → exec (.accessAtHome n) s =
      .next { s with hw := endAccess hw a (withForwarded a old) (loadPsn s.mem a l) }) ∧
    (here → a.strel = none → free → ∀ g p, a.kind = .genRead g p → exec (.accessAtHome n) s =
      .next { s with hw := genFill hw a.core g p a.id (withForwarded a old) (loadPsn s.mem a l) }) ∧
    (here → a.strel = none → free → a.kind = .fetchWord → exec (.accessAtHome n) s =
      .next { s with hw := fillWord hw a (withForwarded a old) (loadPsn s.mem a l) }) ∧
    (here → a.strel = none → free → ∀ rb line, a.kind = .rowLine rb line →
      ∃ t, exec (.accessAtHome n) s = .next t ∧ t.mem = s.mem ∧ t.hw.acc = hw.acc ∧
        (∀ i, i < 64 → tget (coreAt t.hw a.core).rowbuf 0 (rb * 512 + line * 64 + i) = memByte s.mem (l + i)) ∧
        tget (coreAt t.hw a.core).rowPsn false (rb * 8 + line) = linePsn s.mem l) ∧
    (paLC a.pa = ownLC s.hw → inRegs l = true → a.strel = none → free →
      (∀ sgn acq, a.kind = .load sgn acq → let r := regRead hw (l / 8 * 8)
        exec (.accessAtHome n) s = .next { s with hw := endAccess r.2 a (withForwarded a (bits r.1.toNat (8 * (l % 8)) (8 * a.width))) (loadPsn s.mem a l) }) ∧
      (∀ m h, a.kind = .store → a.width = 8 → regStore a.site.asid s.mem hw l (BitVec.ofNat 64 a.data.toNat) = some (m, h) →
        exec (.accessAtHome n) s = .next { mem := m, hw := endAccess h a 0 false }) ∧
      (a.kind = .store → a.width ≠ 8 → exec (.accessAtHome n) s = .next { s with hw := endAccess hw a 0 false })) ∧
    (here → a.kind = .store →
      let t : State :=
        { mem := memStore s.mem l a.width a.data.toNat a.psn
          hw := (let h := afterWrite (memStore s.mem l a.width a.data.toNat a.psn) hw l a.width
                 settle h a.site (emitBoth h a.site [mkTok 0 a.site.tag .order])) }
      (a.strel = none → free → exec (.accessAtHome n) s = .next t) ∧ (a.strel.isSome = true → free → exec (.strelRelease n) s = .next t) ∧
      (16 ≤ a.refused → exec (.bankStarvationGrant n) s = .next t)) ∧
    (here → free → ∀ op y z yp zp sgn, a.kind = .atomic op y z yp zp sgn →
      (∀ v, atomNew op a.width old y z = some v →
        let m := memStore s.mem l a.width v (psn || (yp || zp))
        exec (.atomicAtHome n) s = .next { mem := m, hw := endAccess (afterWrite m hw l a.width) a old psn }) ∧
      (atomNew op a.width old y z = none → exec (.atomicAtHome n) s = .next { s with hw := endAccess hw a old psn })) ∧
    (here → free → ∀ cond y lim sgn, a.kind = .monitor cond y lim sgn →
      let k := homeCluster l
      (monHolds cond a.width old y = true → exec (.monitorPost n) s = .next { s with hw := monDone hw a.site a.width old sgn psn 0 }) ∧
      (monHolds cond a.width old y = false → (clAt s.hw k).mons.length < 256 → ∃ t e, exec (.monitorPost n) s = .next t ∧ t.mem = s.mem ∧
        (clAt t.hw k).mons = (clAt s.hw k).mons ++ [e] ∧ e.addr = l ∧ e.width = a.width ∧ e.cond = cond ∧ e.y = y ∧ e.site = a.site ∧
        e.due = (if lim = 0 then none else some (s.hw.now + lim))) ∧
      (monHolds cond a.width old y = false → 256 ≤ (clAt s.hw k).mons.length → ∃ h, exec (.monitorPost n) s =
        .next { s with hw := monDone h a.site a.width old sgn psn cMONOVER } ∧ (clAt h k).monOver = (clAt s.hw k).monOver + 1 ∧
          (clAt h k).mons = (clAt s.hw k).mons)) ∧
    (paLC a.pa ≠ ownLC s.hw → fabGoes s.hw (dieOf a.core) (paLC a.pa) 0 = true →
      let t : State := { s with hw := fabSend { s.hw with acc := putAt s.hw.acc n { a with sent := true } } (dieOf a.core) (paLC a.pa) 0 (.request (remoteOf s.hw a) a.id) }
      (isAtomic a = false → isMonitor a = false → a.strel = none → free → exec (.accessAtHome n) s = .next t) ∧
      (isAtomic a = true → free → exec (.atomicAtHome n) s = .next t) ∧ (isMonitor a = true → free → exec (.monitorPost n) s = .next t) ∧
      (a.strel.isSome = true → free → exec (.strelRelease n) s = .next t)) ∧
    (paLC a.pa ≠ ownLC s.hw → a.kind ≠ .store → ∀ code d,
      fabCheck s.hw (dieOf a.core) (paLC a.pa) 0 (a.va % 2 ^ 48 + accCode a.kind * 2 ^ 48 + (if a.isPa then 1 else 0) * 2 ^ 51 + paLC a.pa * 2 ^ 52) = .error (.fault code d) →
      let t : State := { s with hw := accFault { s.hw with acc := s.hw.acc.take n ++ s.hw.acc.drop (n + 1) } a code d }
      (isAtomic a = false → isMonitor a = false → a.strel = none → free → exec (.accessAtHome n) s = .next t) ∧
      (isAtomic a = true → free → exec (.atomicAtHome n) s = .next t) ∧ (isMonitor a = true → free → exec (.monitorPost n) s = .next t)) ∧
    (∀ j y, s.hw.acc[j]? = some y → j ≠ n → accDue s.hw j y = true → sameBank s.hw y a = true → ∃ z ∈ hw.acc, z = { y with refused := y.refused + 1 })) ∧
  (∀ (hw : Hw) (a : Access), outranked hw a = true ↔ ∃ y ∈ hw.acc, y.id ≠ a.id ∧ sameBank hw y a = true ∧
    (16 ≤ y.refused ∨ (0 < y.refused ∧ a.refused < 16 ∧ bankRank hw y < bankRank hw a))) ∧
  (∀ (s : State) (k n d : Nat) (e : MonEntry), (clAt s.hw k).mons[n]? = some e → e.due = some d → d ≤ s.hw.now →
    exec (.monitorDeadline k n) s =
      .next { s with hw := monEnd s.mem (modCl s.hw k fun c => { c with mons := c.mons.take n ++ c.mons.drop (n + 1) }) e 0x100 }) ∧
  (∀ (c : BitVec 2) (w v : Nat) (y : Word), v < 2 ^ (8 * w) →
    let u := y.toNat % 2 ^ (8 * w)
    monHolds c w v y = true ↔ (c = 0 ∧ v = u) ∨ (c = 1 ∧ v ≠ u) ∨ (c = 2 ∧ u ≤ v) ∨ (c = 3 ∧ v < u))

/-! ## Streams, sessions and channels under way (07 R215 to R227) -/

/-- A generator issues its next position, an empty one, an address, or a read of it, or sends its next token, where T0 takes it: a value, the NULL of a run of empty positions, the END that closes
a row, ORDER at the end of the walk; where both are ready, either goes first. One that met a fault stops once the positions before it are out; a cancelled or aborted one sends its one END of rank 3
and ORDER, or the FAULT, once its reads have performed (07 R215 to R219, 11 R301). -/
def Clauses.GeneratorSteps : Prop :=
  ∀ (s : State) (c g : Nat) (site : Site),
    let x := genAt s.hw c g
    let room := fun (t : Token) => streamRoom s.hw site site.t0 t = true
    let goes := fun (hw : Hw) => exec (.generatorStep c g) s = .next { s with hw := hw }
    let put := fun (y : Gen) => setGen s.hw c g y
    let sends := fun (t : Token) (y : Gen) => room t → goes (setGen (streamOut s.hw site [t]) c g y)
    let total := gTotal x.desc
    let rank := fun (n : Nat) => gClose x.desc n
    let issuesNone := total ≤ x.issued ∨ x.fail ≠ none ∨ 64 ≤ x.queue.length
    let null := fun (n : Nat) => mkTok 0 site.tag .null 0 (BitVec.ofNat 7 (n - 1))
    x.site = some site →
    (x.state = .running → x.run < 128 → x.queue = [] → x.endDue = false → x.fail = none → x.issued < total → x.emitted < total →
      (gAddr x.desc x.issued = none → goes (put { x with queue := [.empty], issued := x.issued + 1 })) ∧
      (∀ a, gAddr x.desc x.issued = some a →
        (bits (dWord x.desc 1) 50 2 = 1 → goes (put { x with queue := [.value (BitVec.ofInt 64 a) false], issued := x.issued + 1 })) ∧
        (bits (dWord x.desc 1) 50 2 ≠ 1 →
          let va := ofSigned 48 a
          let fits := 0 ≤ a ∧ a < 2 ^ 48
          (¬ fits → goes (genFail s.hw c g cPROT (memDetail va 3 false 5) x.issued)) ∧
          (fits → va % gWidth x.desc ≠ 0 → goes (genFail s.hw c g cMISALIGNED (memDetail va 3 false 0) x.issued)) ∧
          (fits → va % gWidth x.desc = 0 →
            (∀ hw, vaLoc s.hw c site.frame site.asid va 3 true false (1 + g) = .error (.wait hw) → goes { hw with waited := true }) ∧
            (∀ code d, vaLoc s.hw c site.frame site.asid va 3 true false (1 + g) = .error (.fault code d) → goes (genFail s.hw c g code d x.issued)) ∧
            (∀ hw l, vaLoc s.hw c site.frame site.asid va 3 true false (1 + g) = .ok (hw, l) →
              let hw1 := postAccess hw { id := hw.ids, core := c, port := 1 + g, kind := .genRead g x.issued, va := l.addr, isPa := false, pa := l.pa
                                         width := gWidth x.desc, data := 0, psn := false, fwd := [], site := site, seq := site.seq.getD 0, lsid := 0
                                         strel := none, gen := genOfCl hw (clOf c) }
              goes (setGen hw1 c g { genAt hw1 c g with queue := (genAt hw1 c g).queue ++ [.pending hw.ids], issued := (genAt hw1 c g).issued + 1 })))))) ∧
    (x.state = .running → issuesNone →
      (128 ≤ x.run → sends (null 128) { x with run := x.run - 128 }) ∧
      (x.run < 128 →
        (∀ v p q, x.queue = .value v p :: q → x.endDue = false → x.run = 0 →
          sends (mkTok 0 site.tag .data v 0 p) { x with queue := q, emitted := x.emitted + 1, endDue := decide (0 < rank x.emitted) }) ∧
        (∀ q, x.queue = .empty :: q → x.endDue = false →
          goes (put { x with queue := q, run := x.run + 1, emitted := x.emitted + 1, endDue := decide (0 < rank x.emitted) })) ∧
        (((∃ v p q, x.queue = .value v p :: q) ∨ x.endDue = true ∨ (x.queue = [] ∧ (total ≤ x.emitted ∨ x.fail ≠ none))) → 0 < x.run →
          sends (null x.run) { x with run := 0 }) ∧
        (x.endDue = true → x.run = 0 → sends (mkTok 0 site.tag .endm 0 0 false (BitVec.ofNat 2 (rank (x.emitted - 1))))
          { x with endDue := false, ended3 := decide (rank (x.emitted - 1) = 3) }) ∧
        (x.queue = [] → x.endDue = false → x.run = 0 → x.fail = none → total ≤ x.emitted →
          goes (genIdle (doneOut s.hw site [mkTok 0 site.tag .order]) c g)) ∧
        (∀ code d pos, x.queue = [] → x.endDue = false → x.run = 0 → x.fail = some (code, d, pos) →
          goes (genStop s.hw c g code d pos)))) ∧
    (∀ hw h, genEmit s.hw c g = some hw → genIssue s.hw c g = some (.ok h) →
      goes { hw with free := s.hw.free + 1 } ∨ goes { h with free := s.hw.free + 1 }) ∧
    (x.state = .cancelling → genReads s.hw c g = false →
      let last := match x.fail with
        | none => mkTok 0 site.tag .order
        | some (code, d, _) => mkTok 0 site.tag .fault (BitVec.ofNat 64 (d % 2 ^ 48)) (BitVec.ofNat 7 code)
      let close := mkTok 0 site.tag .endm 0 0 false 3
      (x.ended3 = true → goes (genIdle (doneOut s.hw site [last]) c g)) ∧
      (x.ended3 = false → room close → goes (genIdle (doneOut (streamOut s.hw site [close]) site [last]) c g)))

/-- WRING sends the positions of its tile, where T0 takes them, and makes its residency entry valid at the end; SPREAD and RPORT take their stream token by token, writing each element, or merging
it, at its home; a token that does not fit stops the session's element; a poisoned session consumes its stream and answers poison. A range whose translation was removed is translated again first:
where that fails the element freezes, which is the model's choice; a request at its banks that has been refused and is of higher priority, or has waited for 16 cycles, goes
first (07 R202, R220 to R223, R426, 13 R337, log 74; these units keep no count of their own refusals: log 94). -/
def Clauses.SessionSteps : Prop :=
  (∀ (s : Site) (u : RangeUse) (hw : Hw) (r : TileRange), (r.stale = false → freshRange s u hw r = .ok (hw, r)) ∧
    (r.stale = true → freshRange s u hw r = rangeAt s r.tok u hw r.rows r.len r.stride r.tail)) ∧
  (∀ (s : State) (site : Site), (∀ hw, retryRange s site (.wait hw) = .next { s with hw := { hw with waited := true } }) ∧
    ∀ c d, retryRange s site (.fault c d) =
      .next { s with hw := freeze (dropScratch s.hw site) site.elem site.slot site.tag site.op (.issued site.slot site.tag none) c d }) ∧
  (∀ (s : State) (c u w cols row col run : Nat) (site : Site) (sgn : Bool) (r : TileRange) (made : Option (Nat × Nat)),
    tfind (coreAt s.hw c).spread u = some (.wring site r w cols sgn row col run made) → (r.stale = true → frozen s.hw site.elem = false) →
    (∀ e, freshRange site (spreadUse u w true) s.hw r = .error e → exec (.wringEmit c u) s = retryRange s site e) ∧
    (∀ hw0 r', freshRange site (spreadUse u w true) s.hw r = .ok (hw0, r') →
      let a := r'.base + row * r'.stride + col * w
      let y := wringTokens site.tag run row col r'.rows cols sgn w (memRead s.mem a w) (rangePsn s.mem a w)
      let hw := streamOut (bankTake hw0 a w) site y.1
      y.1.all (streamRoom hw0 site site.t0) = true → bankBusy hw0 7 a w = false →
      (col + 1 < cols → row < r'.rows → exec (.wringEmit c u) s =
        .next { s with hw := setSpread hw c u (.wring site r' w cols sgn row (col + 1) y.2 made) }) ∧
      (col + 1 = cols → row + 1 < r'.rows → exec (.wringEmit c u) s =
        .next { s with hw := setSpread hw c u (.wring site r' w cols sgn (row + 1) 0 y.2 made) }) ∧
      (col + 1 = cols → row + 1 = r'.rows →
        (made = none → exec (.wringEmit c u) s = .next { s with hw := doneOut (endSpread hw c u) site [mkTok 0 site.tag .order] }) ∧
        (∀ cl n, made = some (cl, n) → exec (.wringEmit c u) s =
          .next { s with hw := doneOut (resFill (endSpread hw c u) cl n (r'.rows * cols * w) true) site [mkTok 0 site.tag .order] })))) ∧
  (∀ (tag : BitVec 20) (run row col rows cols w v : Nat) (sgn p : Bool), v ≠ 0 →
    let value := mkTok 0 tag .data (BitVec.ofNat 64 ((extend sgn w v).toNat % 2 ^ 32 + col * 2 ^ 32 + row * 2 ^ 48)) 0 p
    let close := mkTok 0 tag .endm 0 0 false (if row + 1 = rows then 2 else 1)
    (col + 1 < cols → wringTokens tag run row col rows cols sgn w 0 p = ([], run + 1) ∧
      wringTokens tag run row col rows cols sgn w v p = (nulls tag run ++ [value], 0)) ∧
    (cols ≤ col + 1 → wringTokens tag run row col rows cols sgn w 0 p = (nulls tag (run + 1) ++ [close], 0) ∧
      wringTokens tag run row col rows cols sgn w v p = (nulls tag run ++ [value, close], 0))) ∧
  (∀ (s : State) (c u w cols row col : Nat) (site : Site) (r : TileRange) (dead : Bool) (marked : List Nat) (o : Operand),
    tfind (coreAt s.hw c).spread u = some (.spread site r w cols row col dead marked) → frozen s.hw site.elem = false →
    headAt (elemAt s.hw site.elem) site.slot site.tag 2 = some o →
    (∀ e, freshRange site (spreadUse u w false) s.hw r = .error e → exec (.spreadSessionToken c u) s = retryRange s site e) ∧
    (∀ hw0 r', freshRange site (spreadUse u w false) s.hw r = .ok (hw0, r') →
      let v := o.tok.value.toNat
      let a := r'.base + row * r'.stride + col * w
      let bytes := if dead then 0 else if o.tok.kind = .data then w else if o.tok.kind = .null then (o.tok.aux.toNat + 1) * w else 0
      let hw1 := bankTake hw0 a bytes
      let hw := takeStream hw1 site o
      let bad := exec (.spreadSessionToken c u) s = .next { s with hw := streamFault hw1 site o.tok }
      let next := fun (n : Nat) => if col + n = cols then (row + 1, 0) else (row, col + n)
      let placed := row < r'.rows ∧ v / 2 ^ 32 % 2 ^ 16 = col ∧ v / 2 ^ 48 = row
      let n := o.tok.aux.toNat + 1
      let atEnd := col = 0 ∧ 0 < row
      bankBusy hw0 7 a bytes = false →
      (dead = true → ((o.tok.kind = .endm ∧ 2 ≤ o.tok.rank.toNat) →
          exec (.spreadSessionToken c u) s = .next (closeSpread s.mem hw c u site r' true marked)) ∧
        (¬ (o.tok.kind = .endm ∧ 2 ≤ o.tok.rank.toNat) → exec (.spreadSessionToken c u) s = .next { s with hw := hw })) ∧
      (dead = false → o.tok.kind = .data → placed →
        let m := memStore s.mem a w v o.tok.psn
        let run := SpreadUnit.spread site r' w cols (next 1).1 (next 1).2 false (if o.tok.psn then sins marked (lineOf a) else marked)
        exec (.spreadSessionToken c u) s = .next { mem := m, hw := setSpread (afterWrite m hw a w) c u run }) ∧
      (dead = false → o.tok.kind = .data → ¬ placed → bad) ∧
      (dead = false → o.tok.kind = .null → row < r'.rows → col + n ≤ cols →
        let z := spreadZeros s.mem hw a w n
        exec (.spreadSessionToken c u) s = .next { mem := z.1, hw := setSpread z.2 c u (.spread site r' w cols (next n).1 (next n).2 false marked) }) ∧
      (dead = false → o.tok.kind = .null → (r'.rows ≤ row ∨ cols < col + n) → bad) ∧
      (dead = false → o.tok.kind = .endm →
        (o.tok.rank = 1 → atEnd → row < r'.rows → exec (.spreadSessionToken c u) s = .next { s with hw := hw }) ∧
        (o.tok.rank = 1 → ¬ (atEnd ∧ row < r'.rows) → bad) ∧
        (o.tok.rank ≠ 1 → atEnd → row = r'.rows →
          exec (.spreadSessionToken c u) s = .next (closeSpread s.mem hw c u site r' false marked)) ∧
        (o.tok.rank ≠ 1 → ¬ (atEnd ∧ row = r'.rows) → bad)))) ∧
  (∀ (m : Mem) (hw : Hw) (c u : Nat) (site : Site) (r : TileRange) (marked : List Nat),
    let t := closeSpread m hw c u site r false marked
    t.mem.bytes = m.bytes ∧ (∀ l, l ∈ t.mem.poison ↔ l ∈ m.poison ∧ ¬ (lineInRange r.base r.rows r.len r.stride l = true ∧ l ∉ marked)) ∧
    t.hw = settle (endSpread hw c u) site (emitBoth (endSpread hw c u) site [mkTok 0 site.tag .order]) ∧
    closeSpread m hw c u site r true marked =
      { mem := m, hw := settle (endSpread hw c u) site (emitBoth (endSpread hw c u) site [mkTok 0 site.tag .data 0 0 true]) }) ∧
  (∀ (s : State) (c tile : Nat) (x : RSession) (o : Operand), tfind (coreAt s.hw c).rport tile = some x → frozen s.hw x.site.elem = false →
    headAt (elemAt s.hw x.site.elem) x.site.slot x.site.tag 2 = some o →
    let use : RangeUse := { w := x.w, acc := 7, needR := true, needW := true, unit := 5 + tile }
    (∀ e, freshRange x.site use s.hw x.range = .error e → exec (.reductionSessionToken c tile) s = retryRange s x.site e) ∧
    (∀ hw0 r', freshRange x.site use s.hw x.range = .ok (hw0, r') →
      let a := r'.base + x.pos * x.w
      let bytes := if x.dead = true ∨ o.tok.kind ≠ .data then 0 else x.w
      let hwt := bankTake hw0 a bytes
      let hw := takeStream hwt x.site o
      let put := fun (hw : Hw) (pos : Nat) => modCore hw c fun k => { k with rport := tins k.rport tile { x with range := r', pos := pos } }
      let bad := exec (.reductionSessionToken c tile) s = .next { s with hw := streamFault hwt x.site o.tok }
      let n := o.tok.aux.toNat + 1
      bankBusy hw0 2 a bytes = false →
      (x.dead = false → o.tok.kind = .data → x.pos < x.n →
        let v := rportMerge x.op x.fmt.toNat x.w (memRead s.mem a x.w) o.tok.value.toNat
        let m := memStore s.mem a x.w v (o.tok.psn || rangePsn s.mem a x.w)
        exec (.reductionSessionToken c tile) s = .next { mem := m, hw := put (afterWrite m hw a x.w) (x.pos + 1) }) ∧
      (x.dead = false → o.tok.kind = .data → x.n ≤ x.pos → bad) ∧
      (x.dead = false → o.tok.kind = .null → x.pos + n ≤ x.n → exec (.reductionSessionToken c tile) s = .next { s with hw := put hw (x.pos + n) }) ∧
      (x.dead = false → o.tok.kind = .null → x.n < x.pos + n → bad) ∧
      (x.dead = true → (o.tok.kind = .data ∨ o.tok.kind = .null) → exec (.reductionSessionToken c tile) s = .next { s with hw := hw }) ∧
      (o.tok.kind = .endm → o.tok.rank ≠ 3 → exec (.reductionSessionToken c tile) s = .next { s with hw := hw }) ∧
      (o.tok.kind = .endm → o.tok.rank = 3 →
        let hw1 := modCore hw c fun k => { k with rport := tdel k.rport tile }
        let out := if x.dead then mkTok 0 x.site.tag .data 0 0 true else mkTok 0 x.site.tag .order
        exec (.reductionSessionToken c tile) s = .next { s with hw := settle hw1 x.site (emitBoth hw1 x.site [out]) }))) ∧
  (∀ w m v : Nat, rportMerge 3 2 w m v = m ||| v % 2 ^ (8 * w) ∧ rportMerge 0 2 w m v = (m + v % 2 ^ (8 * w)) % 2 ^ (8 * w) ∧ rportMerge 4 2 w m v = v % 2 ^ (8 * w) ∧
    rportMerge 1 3 w m v = max m (v % 2 ^ (8 * w)) ∧ rportMerge 2 3 w m v = min m (v % 2 ^ (8 * w)))

/-- A token of a channel joins its consumer's buffer, or is dropped where the endpoint is no consumer of that producer; credits are added by an open producer, held for the opening of a closed endpoint,
discarded by another; a consumer whose buffer is empty, with debt, while its producer waits without credit for 4,096 cycles has its stall recorded and reported (07 R225 to R227). -/
def Clauses.ChannelEvents : Prop :=
  (∀ (s : State) (n : Nat) (m : ChanMsg), s.hw.chan[n]? = some m →
    let hw := { s.hw with chan := s.hw.chan.take n ++ s.hw.chan.drop (n + 1) }
    let x := epAt s.hw m.dst.1 m.dst.2
    (∀ t, m.body = .inl t → (∀ y ∈ s.hw.chan.take n, ¬ (y.src = m.src ∧ y.dst = m.dst)) →
      ((x.state = .consumer ∨ x.state = .closing true) → x.peer = m.src →
        exec (.channelTokenArrival n) s = .next { s with hw := setEp hw m.dst.1 m.dst.2 { x with buf := x.buf ++ [(t, m.side)] } }) ∧
      (x.peer ≠ m.src ∨ x.state = .closed ∨ x.state = .producer ∨ x.state = .closing false → exec (.channelTokenArrival n) s = .next { s with hw := hw })) ∧
    (∀ k, m.body = .inr k → (∀ y ∈ s.hw.chan.take n, ¬ (y.src = m.src ∧ y.dst = m.dst ∧ y.body.isRight = true)) →
      ((x.state = .producer ∨ x.state = .closing false) → x.peer = m.src → ∃ hw', exec (.creditArrival n) s = .next { s with hw := hw' } ∧ hw'.chan = hw.chan ∧
        (epAt hw' m.dst.1 m.dst.2).pcred = x.pcred + k ∧ (epAt hw' m.dst.1 m.dst.2).granted = max x.granted (x.pcred + k)) ∧
      (x.state = .consumer ∨ x.state = .closing true ∨ ((x.state = .producer ∨ x.state = .closing false) ∧ x.peer ≠ m.src) → exec (.creditArrival n) s = .next { s with hw := hw }) ∧
      (x.state = .closed → (x.held.map fun h => h.2.2).sum < 1024 →
        let y := { x with held := x.held ++ [(m.src.1, m.src.2, min k (1024 - (x.held.map fun h => h.2.2).sum))] }
        exec (.creditArrival n) s = .next { s with hw := setEp hw m.dst.1 m.dst.2 y }) ∧
      (x.state = .closed → 1024 ≤ (x.held.map fun h => h.2.2).sum → exec (.creditArrival n) s = .next { s with hw := hw }))) ∧
  (∀ (s : State) (c n t : Nat), (epAt s.hw c n).since = some t → t + 4096 ≤ s.hw.now → stallCond s.hw c n = true →
    ∃ hw r, exec (.channelStall c n) s = .next { s with hw := hw } ∧ epAt hw c n = { epAt s.hw c n with stall := r, since := none } ∧ r.valid = true ∧
      r.debt = BitVec.ofNat 11 (epAt s.hw c n).debt ∧ hw.svc.length = s.hw.svc.length + 1)

/-- The events of streams, sessions and channels. -/
def Obligations.StreamEvents : Prop := Clauses.GeneratorSteps ∧ Clauses.SessionSteps ∧ Clauses.ChannelEvents

/-! ## Tasks and keys (10 R259 to R283, 11 R310) -/

/-- A record is accepted in its turn where its cluster has room, behind the CONFIG tokens of its stream, or refused with cause 17; a task that leaves Counter-wait, in acceptance order among those of
its counter, sends a try for every key and travels to its home cluster, which records of one sender reach in order; a startable task starts on the eligible core of the highest score, its tile
references and ARG in H0 to H8, and waits there while no frame can hold its block; a block that cannot be fetched parks it, with SRCBLK 0 and exit 0, the model's choice (log 38); one that no core
of its cluster can take goes to the next cluster of its partition, or leaves (10 R259, R265, R273 to R275, R277, R282, R283, 06 R163, R173). -/
def Clauses.TaskFlow : Prop :=
  (∀ (s : State) (n : Nat) (r : RecMsg), s.hw.recs[n]? = some r →
    (4096 ≤ heldRecords s.hw r.cc ∨ (∃ y ∈ s.hw.recs.take n, y.cc = r.cc) ∨ behindConfig s.hw r = true) → exec (.taskRecordAccept n) s = .fault .notEnabled) ∧
  (∀ (hw : Hw) (r : RecMsg), behindConfig hw r = true ↔ ∃ p, r.port = some p ∧ ∃ fl ∈ hw.net, fl.src = .port p ∧ fl.tok.kind = .config) ∧
  (∀ (s : State) (n : Nat) (r : RecMsg), s.hw.recs[n]? = some r → (∀ y ∈ s.hw.recs.take n, y.cc ≠ r.cc) → heldRecords s.hw r.cc < 4096 →
    behindConfig s.hw r = false →
    let hw := { s.hw with recs := s.hw.recs.take n ++ s.hw.recs.drop (n + 1) }
    let go := recWaitc r.words = 0x3FF ∨ (cntAt s.hw r.cc (recWaitc r.words)).v = 0
    let task : Task := { id := s.hw.ids, words := r.words, psn := r.psn, asid := r.asid, cc := r.cc, cl := r.cc, state := if go then .routing else .counterWait }
    let took := { hw with ids := s.hw.ids + 1, tasks := s.hw.tasks ++ [task] }
    (recordFault hw r.asid r.words = none →
      (∀ x, r.site = some x → exec (.taskRecordAccept n) s = .next { s with hw := settle took x (emitBoth took x [mkTok 0 x.tag .order]) }) ∧
      (∀ p, r.site = none → r.port = some p → exec (.taskRecordAccept n) s = .next { s with hw := portFree took p none }) ∧
      (r.site = none → r.port = none → exec (.taskRecordAccept n) s = .next { s with hw := took })) ∧
    (∀ d, recordFault hw r.asid r.words = some d →
      (∀ site, r.site = some site → exec (.taskRecordAccept n) s =
        .next { s with hw := freeze hw site.elem site.slot site.tag site.op (.issued site.slot site.tag (some (.record r))) cILLFIELD d }) ∧
      (∀ p, r.site = none → r.port = some p → exec (.taskRecordAccept n) s = .next { s with hw := portFree hw p (some (cINGRESS, 3)) }) ∧
      (r.site = none → r.port = none → exec (.taskRecordAccept n) s = .next { s with hw := hw }))) ∧
  (∀ (s : State) (id : Nat) (t : Task), taskAt s.hw id = some t → (t.state ≠ .routing ∨ behindReleased s.hw t = true) → exec (.taskRouting id) s = .fault .notEnabled) ∧
  (∀ (hw : Hw) (t : Task), behindReleased hw t = true ↔ recWaitc t.words ≠ 0x3FF ∧
    ∃ u ∈ hw.tasks, u.state = .routing ∧ u.cc = t.cc ∧ recWaitc u.words = recWaitc t.words ∧ u.id < t.id) ∧
  (∀ (s : State) (id : Nat) (t : Task), taskAt s.hw id = some t → t.state = .routing → behindReleased s.hw t = false → recKeys t.words ≠ [] →
    let home := homeOf s.hw t
    let t' := { t with cl := home, state := .acquiring, transit := home != t.cl, tries := (recKeys t.words).length, visited := [home], grantAt := s.hw.now,
                       sender := t.cl, sentAt := s.hw.ids }
    let tries := (recKeys t.words).map fun k => KeyMsg.try_ { task := id, home := home, asid := t.asid, key := k.1, excl := k.2, resv := t.aged }
    exec (.taskRouting id) s = .next { s with hw := { s.hw with ids := s.hw.ids + 1, tasks := s.hw.tasks.map (fun x => if x.id = id then t' else x),
                                                                keyMsgs := s.hw.keyMsgs ++ tries } }) ∧
  (∀ (s : State) (id : Nat) (t : Task), taskAt s.hw id = some t → t.state = .routing → behindReleased s.hw t = false → recKeys t.words = [] → t.held = [] →
    t.want = none → ∃ u x, exec (.taskRouting id) s = .next u ∧ taskAt u.hw id = some x ∧ x.cl = homeOf s.hw t ∧
      (x.state = .ready ↔ homeOf s.hw t = t.cl)) ∧
  (∀ (hw : Hw) (t : Task), recTrefs t.words = [] → homeOf hw t = t.cc) ∧
  (∀ (s : State) (id : Nat) (t : Task), taskAt s.hw id = some t →
    let passed := s.hw.tasks.any fun u => u.transit && u.sender = t.sender && u.cl = t.cl && decide (u.sentAt < t.sentAt)
    ((t.transit = false ∨ 4096 ≤ heldRecords s.hw t.cl ∨ passed = true) → exec (.routedRecordArrival id) s = .fault .notEnabled) ∧
    (t.transit = true → heldRecords s.hw t.cl < 4096 → passed = false →
      let held := t.state = .acquiring ∧ t.tries = 0 ∧ t.want = none ∧ t.held.length = (recKeys t.words).length
      let put := fun (ids : Nat) (x : Task) => { s.hw with ids := ids, tasks := s.hw.tasks.map fun u => if u.id = id then x else u }
      (held → exec (.routedRecordArrival id) s = .next { s with hw := put (s.hw.ids + 1) { t with transit := false, state := .ready, readyAt := s.hw.ids } }) ∧
      (¬ held → exec (.routedRecordArrival id) s = .next { s with hw := put s.hw.ids { t with transit := false } }))) ∧
  (∀ (s : State) (cl : Nat), pickTask s.hw cl = none → exec (.taskStart cl) s = .fault .notEnabled) ∧
  (∀ (s : State) (cl c lvl p n k : Nat) (t : Task) (m : Mem) (hw0 hw : Hw) (r : Except (Nat × Nat) Nat), pickTask s.hw cl = some (t, lvl, p, n) → chooseCore s.hw cl t = some c →
    pxBack (t.px.map fun x => (c, x)) s.hw = some hw0 →
    let fetched := blockFrame s.mem hw0 c t.asid (startBlock s.hw t).1 (startBlock s.hw t).2
    (fetched = some (m, hw, r) ∨ (fetched = none ∧ m = s.mem ∧ hw = hw0)) →
    least 16 (fun i => (ctxAt (coreAt s.hw c) i).state == .free) = some k →
    let hw1 := setTask hw { t with state := .running, core := c, ctx := k, saved := none, area := [], areaPsn := [], px := [], resume := none, visited := [t.cl] }
    let area := putArea m (modCore hw1 c fun x => setCtx x k { startCtx t with handle := (startBlock s.hw t).1 }) c k t
    let nx : Succ := { block := BitVec.ofNat 20 (startBlock s.hw t).2, exit := 0, srcblk := 0, srchnd := (startBlock s.hw t).1, srcSeq := (coreAt hw c).nextSeq }
    let waits := fun (y : Succ) => modCore area.2 c fun x => setCtx x k { ctxAt x k with next := some y }
    let key := t.asid.toNat * 4096 + recType t.words
    let told := fun (hw : Hw) => modCl hw cl fun y =>
      { y with levels := tput y.levels (0, 0) lvl (p, n), rotor := y.rotor + 1, starts := y.starts + 1, tcache := (key :: y.tcache.filter fun i => i != key).take 256 }
    (∀ f, fetched.isSome = true → r = .ok f → exec (.taskStart cl) s = .next { mem := area.1, hw := told (openBlock area.2 c f k) }) ∧
    (∀ w tva, fetched.isSome = true → r = .error (w, tva) → exec (.taskStart cl) s =
      .next { mem := area.1, hw := told (parkIfDue (waits { nx with failed := some (BitVec.ofNat 4 w, tva) }) c k) }) ∧
    (fetched = none → exec (.taskStart cl) s = .next { mem := area.1, hw := told (waits nx) })) ∧
  (∀ (s : State) (cl c lvl p n : Nat) (t : Task), pickTask s.hw cl = some (t, lvl, p, n) → chooseCore s.hw cl t = some c →
    startOn s.mem s.hw c t = none → exec (.taskStart cl) s = .fault .notEnabled) ∧
  (∀ (hw : Hw) (cl c : Nat) (t : Task), cl < 32 → chooseCore hw cl t = some c →
    clOf c = cl ∧ eligible hw c t = true ∧ ∀ d, clOf d = cl → eligible hw d t = true →
      score hw d t < score hw c t ∨ (score hw d t = score hw c t ∧ (load hw c < load hw d ∨ (load hw c = load hw d ∧
        (c + 8 - (clAt hw cl).rotor.toNat) % 8 ≤ (d + 8 - (clAt hw cl).rotor.toNat) % 8)))) ∧
  (∀ (hw : Hw) (cl lvl p n : Nat) (t : Task), pickTask hw cl = some (t, lvl, p, n) → t ∈ candidates hw cl ∧
    (∀ u ∈ candidates hw cl, recPrio u.words ≤ recPrio t.words) ∧
    ∀ u ∈ candidates hw cl, recPrio u.words = recPrio t.words → u.asid = t.asid → t.readyAt ≤ u.readyAt) ∧
  (∀ (hw : Hw) (t : Task), startable hw t = true ↔ t.transit = false ∧ heldAsid hw t.asid = false ∧ (t.state = .ready ∨ t.state = .saved)) ∧
  (∀ (t : Task), t.saved = none →
    (∀ j, j < 8 → tget (startCtx t).hold (0, false) j = (BitVec.ofNat 64 (recTref t.words j), t.psn)) ∧
    tget (startCtx t).hold (0, false) 8 = (BitVec.ofNat 64 (recArg t.words), t.psn) ∧ (startCtx t).poison = t.psn ∧ (startCtx t).state = .running) ∧
  (∀ (s : State) (id : Nat) (t : Task), taskAt s.hw id = some t →
    (startable s.hw t = false ∨ (∃ i, i < 8 ∧ everEligible s.hw (t.cl * 8 + i) t = true)) → exec (.taskReroute id) s = .fault .notEnabled) ∧
  (∀ (s : State) (id : Nat) (t : Task), taskAt s.hw id = some t → startable s.hw t = true →
    (∀ i, i < 8 → everEligible s.hw (t.cl * 8 + i) t = false) →
    let ks := partClusters (tget s.hw.pkg.parts {} ((partOfAsid s.hw t.asid).getD 16))
    (∀ k, t.cl < 32 → k ≠ t.cl → k ∈ ks → k ∉ t.visited → (∀ j ∈ ks, j ∉ t.visited → (k + 32 - t.cl) % 32 ≤ (j + 32 - t.cl) % 32) →
      let t' := { t with cl := k, state := .acquiring, transit := true, visited := t.visited ++ [k], sender := t.cl, sentAt := s.hw.ids }
      exec (.taskReroute id) s =
        .next { s with hw := { s.hw with ids := s.hw.ids + 1, tasks := s.hw.tasks.map fun x => if x.id = id then t' else x } }) ∧
    ((∀ k ∈ ks, k ∈ t.visited) → exec (.taskReroute id) s =
      .next { s with hw := report (discardTask s.hw t) t.cl cHANDLE (recWord t.words 0) }))

/-- A slice decides tries and requests as Table 10.6 states, an entry that frees being kept for the reserved requests that wait for one and no request passing an earlier one for its key, and a release
grants from the head of the key's queue; the ordered phase keeps the keys below the lowest refused one; a task that has waited 64 rounds of 16 cycles has its requests reserved; a waiting request
takes an entry that is free, reserved ones first, the earliest request of the key with it (10 R277 to R280; which requests a freed entry is kept for is the model's reading, log 37). -/
def Clauses.KeyEvents : Prop :=
  (∀ (s : State) (n : Nat) (m : KeyMsg), s.hw.keyMsgs[n]? = some m → (∀ y ∈ s.hw.keyMsgs.take n, keyMsgOf y ≠ keyMsgOf m) →
    let hw := { s.hw with keyMsgs := s.hw.keyMsgs.take n ++ s.hw.keyMsgs.drop (n + 1) }
    let sl := fun (k : BitVec 31) => clAt s.hw (sliceOf k.toNat)
    let free := fun (k : BitVec 31) => (sl k).keys.length + ((sl k).keyWait.filter (·.resv)).length < 2048
    let held := fun (r : KeyReq) => ({ asid := r.asid, key := r.key, holders := [(r.task, r.excl)], queue := [] } : KeyEntry)
    (∀ r, m = .try_ r →
      (keyAt s.hw r.asid r.key = none → free r.key → exec (.keyTry n) s =
        .next { s with hw := keyReply (putKey hw (held r)) r true true }) ∧
      (keyAt s.hw r.asid r.key = none → ¬ free r.key → exec (.keyTry n) s = .next { s with hw := keyReply hw r false true }) ∧
      (∀ e, keyAt s.hw r.asid r.key = some e →
        (e.queue ≠ [] ∨ compatible e r.excl = false → exec (.keyTry n) s = .next { s with hw := keyReply hw r false true }) ∧
        (e.queue = [] → compatible e r.excl = true → exec (.keyTry n) s =
          .next { s with hw := keyReply (putKey hw { e with holders := e.holders ++ [(r.task, r.excl)] }) r true true }))) ∧
    (∀ r, m = .request r →
      let early := ∃ x ∈ (sl r.key).keyWait, x.asid = r.asid ∧ x.key = r.key
      (¬ early → keyAt s.hw r.asid r.key = none → free r.key → exec (.keyRequest n) s =
        .next { s with hw := keyReply (putKey hw (held r)) r true false }) ∧
      ((early ∨ (keyAt s.hw r.asid r.key = none ∧ ¬ free r.key)) → exec (.keyRequest n) s =
        .next { s with hw := modCl hw (sliceOf r.key.toNat) fun c => { c with keyWait := c.keyWait ++ [r] } }) ∧
      (∀ e, ¬ early → keyAt s.hw r.asid r.key = some e →
        (e.queue ≠ [] ∨ compatible e r.excl = false → exec (.keyRequest n) s = .next { s with hw := putKey hw { e with queue := e.queue ++ [r] } }) ∧
        (e.queue = [] → compatible e r.excl = true → exec (.keyRequest n) s =
          .next { s with hw := keyReply (putKey hw { e with holders := e.holders ++ [(r.task, r.excl)] }) r true false }))) ∧
    (∀ r g w, m = .reply r g w →
      (∀ t, taskAt s.hw r.task = some t → exec (.keyReply n) s = .next { s with hw := takeReply hw t r g w }) ∧
      (taskAt s.hw r.task = none → g = true → exec (.keyReply n) s = .next { s with hw := { hw with keyMsgs := hw.keyMsgs ++ [.release r.task r.asid r.key] } }) ∧
      (taskAt s.hw r.task = none → g = false → exec (.keyReply n) s = .next { s with hw := hw })) ∧
    (∀ t a k, m = .release t a k → ∃ u, exec (.keyRelease n) s = .next u ∧ u.mem = s.mem ∧
      (∀ r ∈ (clAt u.hw (sliceOf k.toNat)).keyWait, ¬ (r.task = t ∧ r.asid = a ∧ r.key = k)) ∧
      ∀ e, keyAt s.hw a k = some e →
        let kept := { e with holders := e.holders.filter (fun h => h.1 != t), queue := e.queue.filter fun r => r.task != t }
        (kept.holders = [] → kept.queue = [] → keyAt u.hw a k = none) ∧
        (∀ r q, kept.queue = r :: q → compatible kept r.excl = true →
          ∃ e', keyAt u.hw a k = some e' ∧ (r.task, r.excl) ∈ e'.holders ∧ KeyMsg.reply r true false ∈ u.hw.keyMsgs) ∧
        (∀ r q, kept.queue = r :: q → compatible kept r.excl = false → keyAt u.hw a k = some kept))) ∧
  (∀ (e : KeyEntry) (x : Bool), compatible e x = true ↔ e.holders = [] ∨ (x = false ∧ ∀ h ∈ e.holders, h.2 = false)) ∧
  (∀ (hw : Hw) (t : Task) (r : KeyReq),
    takeReply hw t r true true =
      (if t.tries - 1 = 0 then afterTries hw { t with held := t.held ++ [(r.key, r.excl)], tries := 0, grantAt := hw.now }
       else setTask hw { t with held := t.held ++ [(r.key, r.excl)], tries := t.tries - 1, grantAt := hw.now }) ∧
    takeReply hw t r false true =
      (if t.tries - 1 = 0 then afterTries hw { t with refused := t.refused ++ [r.key], tries := 0 } else setTask hw { t with refused := t.refused ++ [r.key], tries := t.tries - 1 })) ∧
  (∀ (hw : Hw) (t : Task) (k : BitVec 31), k ∈ t.refused → (∀ j ∈ t.refused, k.toNat ≤ j.toNat) →
    (∃ x, (k, x) ∈ recKeys t.words) → (∀ h ∈ t.held, h.1 ≠ k) →
    (∀ h ∈ t.held, k.toNat < h.1.toNat → KeyMsg.release t.id t.asid h.1 ∈ (afterTries hw t).keyMsgs) ∧
    ∀ u ∈ (afterTries hw t).tasks, u.id = t.id → u.held = t.held.filter fun h => decide (h.1.toNat < k.toNat)) ∧
  (∀ (s : State) (id : Nat) (t : Task), taskAt s.hw id = some t →
    let due := t.state = .acquiring ∧ t.aged = false ∧ t.want.isSome = true ∧ t.grantAt + 64 * 16 ≤ s.hw.now
    (due → exec (.keyAging id) s = .next { s with hw := reserve (setTask s.hw { t with aged := true }) id }) ∧
    (¬ due → exec (.keyAging id) s = .fault .notEnabled)) ∧
  (∀ (s : State) (cl : Nat) (x r : KeyReq),
    let c := clAt s.hw cl
    (waitOrder c.keyWait).find? (fun y => (keyAt s.hw y.asid y.key).isSome || decide (c.keys.length < 2048)) = some x →
    c.keyWait.find? (fun y => y.asid = x.asid && y.key = x.key) = some r →
    let hw := setCl s.hw cl { c with keyWait := c.keyWait.erase r }
    exec (.keyEntryRetry cl) s = .next { s with hw := requestAt hw ((keyAt s.hw r.asid r.key).getD (newKey r)) r }) ∧
  (∀ (l : List KeyReq), (waitOrder l).length = l.length ∧ (∀ r, r ∈ waitOrder l ↔ r ∈ l) ∧
    ∀ (i j : Nat) (a b : KeyReq), i < j → (waitOrder l)[i]? = some a → (waitOrder l)[j]? = some b → b.resv = true → a.resv = true)

/-- A notice makes the valid entries that it names stale, and marks the filling ones; a counter applies the operations of one element in the order of their issue, and a CNTWAIT returned for a full pool is posted anew
after its round (10 R270, 11 R310). -/
def Clauses.CounterEvents : Prop :=
  (∀ (s : State) (n cl : Nat) (a : BitVec 10) (tref : BitVec 32), s.hw.notices[n]? = some (cl, a, tref) → ∃ t, exec (.residencyStaleNotice n) s = .next t ∧
    t.mem = s.mem ∧ t.hw.notices = s.hw.notices.take n ++ s.hw.notices.drop (n + 1) ∧
    (∀ k, k ≠ cl → clAt t.hw k = clAt s.hw k) ∧
    (clAt t.hw cl).res = (clAt s.hw cl).res.map fun e =>
      if e.asid = a ∧ e.tref = tref then
        (if e.state = .valid then { e with state := .stale, made := s.hw.ids } else if e.state = .filling then { e with notice := true } else e) else e) ∧
  (∀ (s : State) (n : Nat) (o : CntOp), s.hw.cntOps[n]? = some o → 
    (∃ y ∈ s.hw.cntOps.take n, cntSource y.src = cntSource o.src ∧ y.cl = o.cl ∧ y.idx = o.idx) → exec (.counterApply n) s = .fault .notEnabled) ∧
  (∀ (e a b a' b' : Nat), cntSource (.slot e a b) = cntSource (.slot e a' b')) ∧
  (∀ (s : State) (n : Nat) (o : CntOp), s.hw.cntOps[n]? = some o → (∀ y ∈ s.hw.cntOps.take n, ¬ (cntSource y.src = cntSource o.src ∧ y.cl = o.cl ∧ y.idx = o.idx)) →
    let hw := { s.hw with cntOps := s.hw.cntOps.take n ++ s.hw.cntOps.drop (n + 1) }
    (∀ v f x, o.body = .init v f x → exec (.counterApply n) s = .next { s with hw := cntOrder (initCnt hw o.cl o.idx v f) x }) ∧
    (∀ d f x, o.body = .dec d f x → exec (.counterApply n) s = .next { s with hw := cntOrder (decCnt hw o.cl o.idx d.toNat f) x }) ∧
    (∀ x, o.body = .wait x → exec (.counterApply n) s = .next { s with hw := postWait hw o.cl o.idx x })) ∧
  (∀ (hw : Hw) (s : Site), cntOrder hw (some s) = settle hw s (emitBoth hw s [mkTok 0 s.tag .order]) ∧ cntOrder hw none = hw) ∧
  (∀ (s : State) (n cl : Nat) (w : CntWait), (allWaits s.hw)[n]? = some (cl, w) → 
    (w.returned = false ∨ s.hw.now < w.due → exec (.cntwaitRetry n) s = .fault .notEnabled) ∧
    (w.returned = true → w.due ≤ s.hw.now → exec (.cntwaitRetry n) s =
      .next { s with hw := postWait (modCl s.hw cl fun c => { c with waits := c.waits.erase w }) cl w.idx w.site }))

/-- The events of tasks, of keys and of counters. -/
def Obligations.TaskEvents : Prop := Clauses.TaskFlow ∧ Clauses.KeyEvents ∧ Clauses.CounterEvents

/-! ## Translation, shoot-downs and the halyard engines (13 R335 to R339, R344, R345, R350 to R354) -/

/-- A miss is served by its die's directory, the holder's bit set and the translation installed, or goes to one of sixteen walkers; a full directory first drops, at every holder, a translation whose
holders can all acknowledge, and else what would fill it waits; a walk writes A and D before its translation is used, or its failure goes back to the one that asked; an invalidation unit removes the
translation, and acknowledges when the accesses that used it have performed (13 R335 to R339, R345; which one is dropped is the model's choice, log 50). -/
def Clauses.TranslationUnits : Prop :=
  (∀ (s : State) (die n : Nat) (r : XlReq), (dieAt s.hw die).reqs[n]? = some r → r.walking = false →
    (∀ e, (dieAt s.hw die).dir.find? (fun e => xlServes e.x r.asid (r.va * 4096) r.write) = some e →
      let hw := modDie (modDie s.hw die fun d => { d with reqs := d.reqs.take n ++ d.reqs.drop (n + 1) }) die fun d => { d with dhits := d.dhits + 1 }
      (∀ h, returnXlat hw die r.holder e.x = some h → exec (.directoryLookup die n) s = .next { s with hw := h }) ∧
      (returnXlat hw die r.holder e.x = none → exec (.directoryLookup die n) s = .fault .notEnabled)) ∧
    ((dieAt s.hw die).dir.find? (fun e => xlServes e.x r.asid (r.va * 4096) r.write) = none →
      (((dieAt s.hw die).reqs.filter (·.walking)).length < 16 → exec (.directoryLookup die n) s = .next { s with hw := modDie s.hw die fun d =>
        { d with reqs := d.reqs.take n ++ { r with walking := true } :: d.reqs.drop (n + 1) } }) ∧
      (16 ≤ ((dieAt s.hw die).reqs.filter (·.walking)).length → exec (.directoryLookup die n) s = .fault .notEnabled))) ∧
  (∀ (hw : Hw) (die holder : Nat) (x : Xlat),
    ((returnXlat hw die holder x).isSome = true ↔
      (∃ e ∈ (dieAt hw die).dir, xlSame e.x x = true) ∨ (dieAt hw die).dir.length < 8192 ∨ (dirVictim hw die).isSome = true) ∧
    (∀ h, returnXlat hw die holder x = some h →
      (holder < 72 → ∃ y ∈ holderTlb h die holder, xlSame y x = true ∧ y.pa = x.pa ∧ y.r = x.r ∧ y.w = x.w ∧ y.d = x.d) ∧
      (∃ y ∈ (dieAt h die).dir, xlSame y.x x = true ∧ holder ∈ y.holders)) ∧
    (∀ o, dirVictim hw die = some o → o ∈ (dieAt hw die).dir ∧ ∀ k ∈ o.holders, xlOutstanding hw die k o.x = false)) ∧
  (∀ (s : State) (die n : Nat) (r : XlReq), (dieAt s.hw die).reqs[n]? = some r → r.walking = true → walkWaits s.mem s.hw die r.asid (r.va * 4096) = false →
    let hw := modDie (modDie s.hw die fun d => { d with reqs := d.reqs.take n ++ d.reqs.drop (n + 1) }) die fun d => { d with walks := d.walks + 1 }
    (∀ e, walk s.mem s.hw die r.asid (r.va * 4096) r.write = .error e → exec (.pageWalk die n) s = .next { s with hw := modDie hw die fun d =>
      { d with fails := d.fails ++ [{ holder := r.holder, asid := r.asid, va := r.va, write := r.write, who := r.who, fail := e }] } }) ∧
    (∀ x a p, walk s.mem s.hw die r.asid (r.va * 4096) r.write = .ok (x, a, p) →
      let m := memStore s.mem a 8 p false
      let w := if memRead s.mem a 8 = p then (s.mem, hw) else (m, afterWrite m hw a 8)
      (∀ h, returnXlat w.2 die r.holder x = some h → exec (.pageWalk die n) s = .next { mem := w.1, hw := h }) ∧
      (returnXlat w.2 die r.holder x = none → exec (.pageWalk die n) s = .fault .notEnabled))) ∧
  (∀ (s : State) (die n : Nat) (r : XlReq), (dieAt s.hw die).reqs[n]? = some r →
    (r.walking = true → exec (.directoryLookup die n) s = .fault .notEnabled) ∧ (r.walking = false → exec (.pageWalk die n) s = .fault .notEnabled)) ∧
  (∀ (m : Mem) (hw : Hw) (die : Nat) (asid : BitVec 10) (va a p : Nat) (write : Bool) (x : Xlat), walk m hw die asid va write = .ok (x, a, p) →
    p.testBit 5 = true ∧ x.d = p.testBit 6 ∧ (write = true → x.d = true) ∧ x.asid = asid ∧ x.va ≤ va ∧ va < x.va + pageBytes x.size ∧
    p = memRead m a 8 ||| 0x20 ||| (if write then 0x40 else 0) ∧ linePsn m a = false) ∧
  (∀ (s : State) (n : Nat) (m : InvMsg), s.hw.invs[n]? = some m →
    (m.removed = true → xlOutstanding s.hw m.die m.holder m.x = true → exec (.invalidation n) s = .fault .notEnabled) ∧
    (m.removed = false → xlOutstanding s.hw m.die m.holder m.x = true → ∃ t, exec (.invalidation n) s = .next t ∧ t.mem = s.mem ∧
      (m.holder < 72 → holderTlb t.hw m.die m.holder = (holderTlb s.hw m.die m.holder).filter fun y => !xlSame m.x y) ∧
      t.hw.invs = s.hw.invs.take n ++ { m with removed := true } :: s.hw.invs.drop (n + 1)) ∧
    (xlOutstanding s.hw m.die m.holder m.x = false →
      let hw := if m.removed then s.hw else holderDrop s.hw m.die m.holder m.x
      exec (.invalidation n) s = .next { s with hw := settleShoots { hw with invs := s.hw.invs.take n ++ s.hw.invs.drop (n + 1) } }))

/-- A halyard request writes its units in turn, each up to the end of its 256-byte block of the destination; a unit that fails ends the request; at its end the completion record is written, the
counter decremented, the residency entry made, and ORDER or FAULT with the code and the VA goes to T0 (13 R350 to R354; that a poisoned index poisons the bytes it places, that a unit
is one event, and where poison cannot travel, are the model's choices, log 26; its banks are waited for by 07 R202, log 94). -/
def Clauses.HalyardUnits : Prop :=
  (∀ (s : State) (cl n : Nat), (clAt s.hw cl).hal[n]? = none → exec (.halyardUnit cl n) s = .fault .notEnabled) ∧
  (∀ (s : State) (cl n : Nat) (r : HalReq), (clAt s.hw cl).hal[n]? = some r → r.pending ≠ [] → exec (.halyardUnit cl n) s = .fault .notEnabled) ∧
  (∀ (s : State) (cl n : Nat) (r : HalReq), (clAt s.hw cl).hal[n]? = some r → r.pending = [] →
    let record := bits (dWord r.desc 6) 0 48
    let waits := fun (hw : Hw) => exec (.halyardUnit cl n) s = .next { s with hw := { hw with waited := true } }
    (r.ended = false → r.sent = true → exec (.halyardUnit cl n) s = .next { s with hw := setHal s.hw cl n (unitDone r r.unit) }) ∧
    (r.ended = false → r.sent = false →
      (∀ m hw, unitRun s.mem s.hw cl n r = .ok (m, hw) → exec (.halyardUnit cl n) s = .next { mem := m, hw := hw }) ∧
      (∀ hw, unitRun s.mem s.hw cl n r = .error (.wait hw) → waits hw) ∧
      (∀ f, unitRun s.mem s.hw cl n r = .error (.fail f) → exec (.halyardUnit cl n) s = .next { s with hw := setHal s.hw cl n (unitFails r f) })) ∧
    (r.ended = true → record = 0 ∨ r.sent = true → exec (.halyardUnit cl n) s = .next { s with hw := halEnd s.hw cl n r }) ∧
    (r.ended = true → record ≠ 0 → r.sent = false →
      (∀ hw, halRange r 1 false true record 32 s.hw = .error (.wait hw) → waits hw) ∧
      (∀ hw va pa k rest, halRange r 1 false true record 32 s.hw = .ok (hw, (va, pa, k) :: rest) →
        (paLC pa = ownLC hw → bankBusy hw 3 (paLocal pa) 32 = false →
          let w := writeUnit r.site.asid s.mem (bankTake hw (paLocal pa) 32) (paLocal pa) ((halRecord r).map fun b => (b, false))
          exec (.halyardUnit cl n) s = .next { mem := w.1, hw := halEnd w.2 cl n r }) ∧
        (paLC pa ≠ ownLC hw →
          let l := remoteWrites 0 r.desc (fdomOf hw r.site.asid) r.gen pa (halRecord r)
          (∀ h, halSend hw cl n r (paLC pa) l = some h → exec (.halyardUnit cl n) s = .next { s with hw := h }) ∧
          (halSend hw cl n r (paLC pa) l = none → waits hw))) ∧
      (∀ f, halRange r 1 false true record 32 s.hw = .error (.fail f) → exec (.halyardUnit cl n) s = .next { s with hw := halEnd s.hw cl n r }))) ∧
  (∀ (m : Mem) (hw : Hw) (cl n : Nat) (r : HalReq),
    (r.op ≠ 1 → r.op ≠ 2 → itemIndex m hw cl n r = .ok (r.item, false, hw)) ∧
    (r.op = 1 ∨ r.op = 2 → ∀ h h' p bs, halRange r 2 true false ((dWord r.desc 4 : Int) + 4 * r.item) 4 hw = .ok (h, p) → halRead m h cl n r 2 p = .ok (bs, h') →
      itemIndex m hw cl n r = .ok (ofBytes (bs.map (·.1)), bs.any (·.2), h'))) ∧
  (∀ (m : Mem) (hw h0 h1 h2 h : Hw) (cl n k va pa len : Nat) (kp : Bool) (r : HalReq) (sp rest : List (Nat × Nat × Nat)) (read : PsnBytes),
    itemIndex m hw cl n r = .ok (k, kp, h0) →
    let src := itemBase r.desc false (if r.op = 2 then r.item else k) + r.off
    let t := itemBase r.desc true (if r.op = 1 then r.item else k) + r.off
    let u := min (halLen r.desc - r.off) (256 - (t % 256).toNat)
    let fill := (List.range u).map fun (i : Nat) => (byteOf (dWord r.desc 0) ((t + (i : Int)) % 8).toNat, false)
    (r.op = 4 ∧ sp = [] ∧ h1 = h0 ∨ r.op ≠ 4 ∧ halRange r 0 true false src u h0 = .ok (h1, sp)) →
    halRange r 1 (r.op == 3) true t u h1 = .ok (h2, (va, pa, len) :: rest) →
    (r.op = 4 ∧ read = fill ∧ h = h2 ∨ r.op ≠ 4 ∧ halRead m h2 cl n r 0 sp = .ok (read, h)) →
    let bs := read.map fun b => (b.1, b.2 || kp)
    (paLC pa = ownLC h → bankBusy h 3 (paLocal pa) u = false →
      let l := paLocal pa
      let r' := { r with marked := (psnLines l bs).foldl sins r.marked }
      let h := bankTake h l u
      let w := if r.op = 3 then reduceUnit r.site.asid m h r.desc l bs else writeUnit r.site.asid m h l bs
      unitRun m hw cl n r = .ok (cleanUnit w.1 r' u t l, setHal w.2 cl n (unitDone r' u))) ∧
    (paLC pa ≠ ownLC h → (∃ b ∈ bs, b.2 = true) → unitRun m hw cl n r = .error (poisonStop src bs)) ∧
    (paLC pa ≠ ownLC h → (∀ b ∈ bs, b.2 = false) →
      let out := halSend h cl n { r with unit := u, dva := ofSigned 48 t } (paLC pa) (remoteWrites r.op r.desc (fdomOf h r.site.asid) r.gen pa (bs.map (·.1)))
      (∀ h', out = some h' → unitRun m hw cl n r = .ok (m, h')) ∧ (out = none → unitRun m hw cl n r = .error (.wait h)))) ∧
  (∀ (m : Mem) (r : HalReq) (u l : Nat) (t : Int), (cleanUnit m r u t l).bytes = m.bytes ∧
    ∀ a, a ∈ (cleanUnit m r u t l).poison ↔ a ∈ m.poison ∧
      ¬ (a ∈ linesOf l u ∧ a ∉ r.marked ∧ ∀ (i : Nat), i < 64 → rowCovers r u (t + ((a : Int) - l) + i) = true)) ∧
  (∀ (r : HalReq) (u : Nat) (f : HalFail),
    (unitFails r f).ended = true ∧ (unitFails r f).failed = some f ∧ (unitFails r f).bytes = r.bytes ∧ (unitFails r f).items = r.items ∧
    (unitDone r u).bytes = r.bytes + u ∧
    (r.off + u < halLen r.desc → (unitDone r u).off = r.off + u ∧ (unitDone r u).item = r.item ∧ (unitDone r u).ended = false) ∧
    (halLen r.desc ≤ r.off + u → (unitDone r u).off = 0 ∧ (unitDone r u).item = r.item + 1 ∧ (unitDone r u).items = r.items + 1 ∧
      ((unitDone r u).ended = true ↔ halCount r.desc ≤ r.item + 1))) ∧
  (∀ (hw : Hw) (cl n : Nat) (r : HalReq),
    let h := modCl hw cl fun c =>
      { c with hal := c.hal.take n ++ c.hal.drop (n + 1), halDone := c.halDone + 1, halFails := if r.failed.isSome then c.halFails + 1 else c.halFails }
    let h := if halCen r.desc then decCnt h (crefCl (halCref r.desc)) (crefIdx (halCref r.desc)) 1 r.failed.isSome else h
    let h := match r.entry with
      | none => h
      | some k => resFill h cl k r.bytes r.failed.isNone
    (r.failed = none → halEnd hw cl n r = settle h r.site (emitList h r.site (siteSrc r.site) r.site.t0 [mkTok 0 r.site.tag .order])) ∧
    (∀ f, r.failed = some f → halEnd hw cl n r = settle h r.site (emitList h r.site (siteSrc r.site) r.site.t0
      [mkTok 0 r.site.tag .fault (BitVec.ofNat 64 f.va) (BitVec.ofNat 7 f.code)]))) ∧
  (∀ (r : HalReq), (halRecord r).length = 32 ∧
    (r.failed = none → r.op < 8 → ofBytes ((halRecord r).take 8) = r.op * 2 ^ 8 + 3 * 2 ^ 16 + r.site.tag.toNat * 2 ^ 32) ∧
    (∀ f, r.failed = some f → f.code < 2 ^ 8 → f.reason < 2 ^ 4 → f.side < 2 ^ 2 → r.op < 8 →
      ofBytes ((halRecord r).take 8) = f.code + r.op * 2 ^ 8 + f.reason * 2 ^ 12 + f.side * 2 ^ 16 + r.site.tag.toNat * 2 ^ 32 ∧
      ofBytes (((halRecord r).drop 16).take 8) = f.va % 2 ^ 48) ∧
    ofBytes (((halRecord r).drop 8).take 8) = r.bytes % 2 ^ 48 ∧ ofBytes ((halRecord r).drop 24) = r.items % 2 ^ 32)

/-- The events of translation and of the halyard engines. -/
def Obligations.TranslationEvents : Prop := Clauses.TranslationUnits ∧ Clauses.HalyardUnits

/-! ## The package: pre-emption, its host, contained errors (13 R362 to R370, 15 R395, R398 to R402, 06 R189) -/

/-- A GO by one who may write, at an idle partition, starts a soft or a hard pre-emption, and a hard one takes over a soft one; another write is ignored. The drain ends when no exposed activation
is left or its limit has passed, the exposed ones left being counted and reported; a save takes the ASID's work out of the machine when it is quiet and nothing of its committed activations is under
way, and a RESUME puts it back where its places are free (13 R363, R364, R367, R369, R370; log 13; the limit is the one in die 0's PDRAIN, log 54). -/
def Clauses.PreemptEvents : Prop :=
  (∀ (s : State) (w : Writer) (v : Word), v.getLsbD 63 = true →
    let i := if v.getLsbD 61 then Instr.hardPreemption w v else Instr.softPreemption w v
    let a := v.extractLsb' 0 10
    (partOfAsid s.hw a = none ∨ mayPkg s.hw w = false → exec i s = .next { s with hw := ignored s.hw w }) ∧
    (∀ p, partOfAsid s.hw a = some p → mayPkg s.hw w = true →
      let x := preAt s.hw p
      (x.phase = .idle → isSaved s.hw a = false →
        let y := { x with phase := if v.getLsbD 61 then .drain else .soft, hard := v.getLsbD 61, asid := a, since := s.hw.now }
        exec i s = .next { s with hw := setPre s.hw p y }) ∧
      (v.getLsbD 61 = true → x.phase = .soft → x.asid = a → exec i s =
        .next { s with hw := setPre s.hw p { x with phase := .drain, hard := true, since := s.hw.now } }) ∧
      (¬ (x.phase = .idle ∧ isSaved s.hw a = false) → ¬ (v.getLsbD 61 = true ∧ x.phase = .soft ∧ x.asid = a) → exec i s = .next s))) ∧
  (∀ (s : State) (w : Writer) (v : Word),
    (v.getLsbD 63 = false ∨ v.getLsbD 61 = true → exec (.softPreemption w v) s = .fault .notEnabled) ∧
    (v.getLsbD 63 = false ∨ v.getLsbD 61 = false → exec (.hardPreemption w v) s = .fault .notEnabled) ∧
    (v.getLsbD 63 = true ∨ v.getLsbD 62 = false → exec (.preemptResume w v) s = .fault .notEnabled)) ∧
  (∀ (s : State) (part : Nat),
    let x := preAt s.hw part
    let mine := fun (a : BitVec 10) => decide (a = x.asid)
    let left := (actsOfAsid s.hw mine).filter fun d => d.2.exposed
    let lapsed := left = [] ∨ x.since + (dieAt s.hw 0).pdrain.toNat ≤ s.hw.now
    let lost := (s.hw.cores.flatMap fun c => c.2.logLost.filter fun l => (frameAt c.2 l.1).asid = x.asid).length
    let cl := ((partClusters (tget s.hw.pkg.parts {} part))[0]?).getD 0
    let hw := discardAsids s.hw mine fun _ _ => false
    let told := if left = [] then hw else report hw cl 0 left.length
    (x.phase = .drain → lapsed → exec (.drainLimit part) s =
      .next { s with hw := setPre told part { x with phase := .ready, xlost := left.length, llost := lost } }) ∧
    (¬ (x.phase = .drain ∧ lapsed) → exec (.drainLimit part) s = .fault .notEnabled)) ∧
  (∀ (s : State) (part : Nat),
    let x := preAt s.hw part
    let go := (x.phase = .ready ∨ (x.phase = .soft ∧ softDone s.hw x.asid = true)) ∧ chanBusy s.hw x.asid = false ∧ underWay s.hw x.asid = false
    (go →
      let r := saveVictim s.mem s.hw x.asid x.hard
      exec (.save part) s = .next { mem := r.1, hw := setPre r.2.1 part { x with phase := .idle, works := x.works ++ [(x.asid, r.2.2)] } }) ∧
    (¬ go → exec (.save part) s = .fault .notEnabled)) ∧
  (∀ (m : Mem) (hw : Hw) (t : Task), let r := saveTask m hw t
    (∀ u ∈ r.2.tasks, u.id = t.id → u.state = .saved) ∧
    ∀ k, (∃ u ∈ r.2.tasks, u.id = t.id ∧ u.saved = some k) → ∀ j, (typeAt hw t.asid (recType t.words)).holds ≤ j →
      tget k.hold (0, false) j = (0, false)) ∧
  (∀ (m : Mem) (hw : Hw) (t : Task), let r := saveTask m hw t
    r.1 = memZero m (taskSlice hw t.core t.ctx).1 (taskSlice hw t.core t.ctx).2 ∧
    ∀ u ∈ r.2.tasks, u.id = t.id → u.px = (coreAt hw t.core).tlb.filter fun x => x.px && x.pxTask == some t.id) ∧
  (∀ (s : State) (w : Writer) (v : Word), v.getLsbD 62 = true → v.getLsbD 63 = false →
    let a := v.extractLsb' 0 10
    (partOfAsid s.hw a = none ∨ mayPkg s.hw w = false → exec (.preemptResume w v) s = .next { s with hw := ignored s.hw w }) ∧
    (∀ p, partOfAsid s.hw a = some p → mayPkg s.hw w = true →
      let x := preAt s.hw p
      (x.phase ≠ .idle → exec (.preemptResume w v) s = .next s) ∧
      (x.phase = .idle → x.works.find? (fun y => y.1 = a) = none → exec (.preemptResume w v) s = .next s) ∧
      (∀ y, x.phase = .idle → x.works.find? (fun y => y.1 = a) = some y →
        let free := placesFree s.hw y.2 = true ∧ (pxBack y.2.px s.hw).isSome = true
        let r := restoreVictim s.mem (setPre s.hw p { x with works := x.works.filter fun z => z.1 ≠ a }) y.2
        (free → exec (.preemptResume w v) s = .next { mem := r.1, hw := r.2 }) ∧
        (¬ free → exec (.preemptResume w v) s = .fault .notEnabled))))

/-- After a package reset, and at the start of bring-up, nothing is left but what stands in secure storage; firmware that fails its signature or is older leaves the package stopped. An attestation
uses its index once, and is refused when none is left; a gated core holds no translation, and its cycle counter starts at 0 when it returns; a core that passes to another ASID is zeroed (06 R189, 07 R197, 15 R395, R399 to
R402; that the package stays stopped is the model's reading, log 57, and that a gated core keeps its frames, log 29). -/
def Clauses.HostEvents : Prop :=
  (∀ (s : State), ∃ t, exec .packageReset s = .next t ∧ t.mem = {} ∧ t.hw.pkg.owner = 0 ∧ t.hw.pkg.parts = [] ∧ t.hw.pkg.asids = [] ∧ t.hw.cores = [] ∧
    t.hw.elems = [] ∧ t.hw.cls = [] ∧ t.hw.dies = [] ∧ t.hw.net = [] ∧ t.hw.acc = [] ∧ t.hw.tasks = [] ∧ t.hw.pkg.stopped = false ∧
    t.hw.pkg.attIdx = s.hw.pkg.attIdx ∧ t.hw.pkg.fwVersion = s.hw.pkg.fwVersion) ∧
  (∀ (s : State) (fw : Firmware), ∃ t, exec (.bringUp fw) s = .next t ∧ t.mem = {} ∧ t.hw.pkg.owner = 0 ∧ t.hw.pkg.parts = [] ∧ t.hw.pkg.asids = [] ∧
    t.hw.pkg.ports = [] ∧ t.hw.cores = [] ∧ t.hw.cls = [] ∧
    let ok := Config.signatureOk fw.image = true ∧ s.hw.pkg.fwVersion ≤ fw.version
    (ok → t.hw.pkg.stopped = false ∧ t.hw.pkg.fwVersion = fw.version ∧ t.hw.pkg.fwImage = fw.image) ∧
    (¬ ok → t.hw.pkg.stopped = true ∧ t.hw.pkg.fwVersion = s.hw.pkg.fwVersion ∧ t.hw.pkg.fwImage = [])) ∧
  (∀ (s : State) (nonce : List Byte),
    (2 ^ 40 ≤ s.hw.pkg.attIdx → exec (.attestationRequest nonce) s =
      .next { s with hw := modPkg s.hw fun p => { p with attCode := BitVec.ofNat 8 cREFUSED } }) ∧
    (s.hw.pkg.attIdx < 2 ^ 40 → ∃ t r sig, exec (.attestationRequest nonce) s = .next t ∧ t.mem = s.mem ∧ t.hw.pkg.attCode = 0 ∧ t.hw.pkg.attIdx = s.hw.pkg.attIdx + 1 ∧
      t.hw.pkg.attested = s.hw.pkg.attested ++ [(s.hw.pkg.attIdx, nonce, r ++ [BitVec.ofNat 64 s.hw.pkg.fwVersion, 3] ++ ((List.range 16).map fun n => regValue s.hw (.partCfg n)) ++ [sig])] ∧
      r = (List.range 4).map fun i => BitVec.ofNat 64 (ofBytes (((shake256 s.hw.pkg.fwImage).drop (8 * i)).take 8)))) ∧
  (∀ (s : State) (core : Nat),
    (256 ≤ core ∨ (coreAt s.hw core).gated = true → exec (.corePowerGate core) s = .fault .notEnabled) ∧
    ((coreAt s.hw core).gated = false → exec (.powerGatingReturn core) s = .fault .notEnabled) ∧
    (∀ asid, 256 ≤ core ∨ 1024 ≤ asid → exec (.coreAssignment core asid) s = .fault .notEnabled)) ∧
  (∀ (s : State) (core : Nat), core < 256 →
    ((coreAt s.hw core).gated = false → ∃ t, exec (.corePowerGate core) s = .next t ∧ t.mem = s.mem ∧ (coreAt t.hw core).gated = true ∧
      (coreAt t.hw core).tlb = [] ∧ (coreAt t.hw core).frames = (coreAt s.hw core).frames ∧
      ∀ e ∈ (dieAt t.hw (dieOf core)).dir, core % 64 ∉ e.holders) ∧
    ((coreAt s.hw core).gated = true → ∃ t, exec (.powerGatingReturn core) s = .next t ∧ t.mem = s.mem ∧ (coreAt t.hw core).gated = false ∧
      (coreAt t.hw core).cycleAt0 = t.hw.now)) ∧
  (∀ (s : State) (core asid : Nat), core < 256 → asid < 1024 → ∃ t, exec (.coreAssignment core asid) s = .next t ∧
    tget t.hw.pkg.tileOwner 0 (core * 2) = BitVec.ofNat 10 asid ∧ tget t.hw.pkg.tileOwner 0 (core * 2 + 1) = BitVec.ofNat 10 asid ∧
    (tget s.hw.pkg.tileOwner 0 (core * 2) = BitVec.ofNat 10 asid → t.mem = s.mem) ∧
    (tget s.hw.pkg.tileOwner 0 (core * 2) ≠ BitVec.ofNat 10 asid → t.mem = memZero s.mem (tileBase core 0) (2 ^ 20) ∧
      ∀ e5, e5 < 32 → (elemAt t.hw (core * 32 + e5)).ops = [] ∧ frozen t.hw (core * 32 + e5) = false))

/-- Each class of error is contained as Table 15.6 states: every class but the first sets ERR_LAST to its class; a poisoned line is counted and reported with its address; a region is aborted and
loaded anew, a core reset, a partition reset, a stack taken off line and the partitions on it reset, a service core reset with its inbox emptied, the package stopped (15 R398, Table 15.6). The
packing of most reports, and which reportable code they carry, are free (00 R8; log 18). -/
def Clauses.ContainedErrors : Prop :=
  let last := fun (t : State) (cls : Nat) => t.hw.pkg.last.toNat % 2 ^ 8 = cls
  (∀ (s : State) (on : Bool), exec (.thermalLimit on) s = .next { s with hw := modPkg s.hw fun p => { p with thermal := on } }) ∧
  (∀ (s : State) (p w : Nat), exec (.correctableError p w) s = .next { s with hw := modPkg s.hw fun p => { p with ce := p.ce + 1 } }) ∧
  (∀ cls, containCode cls < 0x17 ∧ containCode cls ≠ cTAGBUDGET ∧ containCode cls ≠ cMONOVER) ∧
  (∀ (s : State) (addr : Nat), let ok := inHbm addr = true ∨ (inAperture addr = true ∧ bits addr 28 12 = 0)
    (¬ ok → exec (.uncorrectableError addr) s = .fault .notEnabled) ∧ (ok → ∃ t m, exec (.uncorrectableError addr) s = .next t ∧ t.mem = poisonLine s.mem (lineOf addr) ∧
    linePsn t.mem addr = true ∧ t.hw.pkg.ue = s.hw.pkg.ue + 1 ∧ last t 2 ∧ t.hw.svc = s.hw.svc ++ [m] ∧
    m.tok = mkTok 0 0 .service (BitVec.ofNat 64 (ownPa s.hw (lineOf addr) + 2 ^ 63)) 0)) ∧
  (∀ (s : State) (elem frame k i : Nat) (r : Region), regionOf s.hw (coreOf elem) frame = some (k, i, r) → exec (.elementStateError elem frame) s =
    .next { s with hw := contained (reloadRegion (regionAbort s.hw k i) k i) 3 ((partOfCl s.hw (clOf (coreOf elem))).getD 0) k elem }) ∧
  (∀ (s : State) (elem frame : Nat), ∃ t, exec (.elementStateError elem frame) s = .next t ∧ t.mem = s.mem ∧ last t 3 ∧
    ((regionOf s.hw (coreOf elem) frame).isNone = true → frameAt (coreAt t.hw (coreOf elem)) frame = {})) ∧
  (∀ (s : State) (core : Nat), core < 256 → ∃ t, exec (.coreStateError core) s = .next t ∧ t.mem = s.mem ∧ last t 4 ∧
    (coreAt t.hw core).acts = [] ∧ (coreAt t.hw core).tlb = [] ∧ (coreAt t.hw core).frames = []) ∧
  (∀ (s : State) (cl : Nat), cl < 32 → ∃ t, exec (.clusterControlError cl) s = .next t ∧ last t 5 ∧
    (partOfCl s.hw cl = none → t.mem = s.mem) ∧ (∀ p, partOfCl s.hw cl = some p → t.mem = (partReset s.mem s.hw p).1)) ∧
  (∀ (s : State) (stack : Nat), stack < 8 → ∃ t, exec (.hbmStackFailure stack) s = .next t ∧ last t 6 ∧ stack ∈ t.mem.dead ∧
    t.mem = ((stackParts s.hw stack).foldl (fun (x : Mem × Hw) p => partReset x.1 x.2 p)
      ({ s.mem with dead := sins s.mem.dead stack }, modPkg s.hw fun p => { p with offline := sins p.offline stack })).1 ∧
    (stackParts s.hw stack = [] → stack ∈ t.hw.pkg.offline)) ∧
  (∀ (s : State) (d1 d2 : Nat) (x : Bool), d1 < 4 → d2 < 4 → d1 ≠ d2 → ∃ t, exec (.ucieLinkError d1 d2 x) s = .next t ∧ t.mem = s.mem ∧ last t 7 ∧
    t.hw.pkg.detour = (if x then s.hw.pkg.detour ++ [(d1, d2)] else s.hw.pkg.detour) ∧ (x = true → t.hw.pkg.last.toNat / 2 ^ 8 % 2 ^ 8 = cREPLAY)) ∧
  (∀ (s : State) (die sc : Nat), die < 4 → sc < 4 → (scAt s.hw die sc).reset = false → ∃ t, exec (.serviceCoreFailure die sc) s = .next t ∧ t.mem = s.mem ∧
    (scAt t.hw die sc).reset = true ∧ (scAt t.hw die sc).inbox = [] ∧
    ((∃ j, j < 4 ∧ j ≠ sc ∧ (scAt s.hw die j).reset = false) → last t 9) ∧
    ((∀ j, j < 4 → j ≠ sc → (scAt s.hw die j).reset = true) → last t 10 ∧ t.hw.pkg.stopped = true)) ∧
  (∀ (s : State) (n : Nat), (256 ≤ n → exec (.coreStateError n) s = .fault .notEnabled) ∧ (32 ≤ n → exec (.clusterControlError n) s = .fault .notEnabled) ∧
    (8 ≤ n → exec (.hbmStackFailure n) s = .fault .notEnabled) ∧ (∀ d x, 4 ≤ n ∨ 4 ≤ d ∨ n = d → exec (.ucieLinkError n d x) s = .fault .notEnabled) ∧
    (∀ sc, 4 ≤ n ∨ 4 ≤ sc ∨ (scAt s.hw n sc).reset = true → exec (.serviceCoreFailure n sc) s = .fault .notEnabled)) ∧
  (∀ (s : State), ∃ t, exec .packageError s = .next t ∧ t.mem = s.mem ∧ last t 10 ∧ t.hw.pkg.stopped = true)

/-- The events of the package as a whole. -/
def Obligations.PackageEvents : Prop := Clauses.PreemptEvents ∧ Clauses.HostEvents ∧ Clauses.ContainedErrors

/-! ## The fabric and cuts (16 R406 to R421) -/

/-- A link takes the items of a whole flit that are for this package, with what the flit says of those sent the other way, counts a flit whose CRC is wrong, keeps what it has sent until
the far end has taken it, 512 flits at most, and counts a replay where the far end refuses one; it retrains after 16 replays of one or as it is told, goes down with ERR_LAST of class 8 and a report, and
comes up without a change of the ensign table; when it goes down, entries on it swap to the next port whose link is up, or drain (16 R406, R408, R409, 15 R398; that a flit carries one item is
the model's choice, log 64; that ALT1 and ALT2 alone are tried, log 85; items for other packages are not kept, log 52). -/
def Clauses.LinkEvents : Prop :=
  (∀ (s : State) (l : Nat) (ok : Bool) (f : FlitIn),
    let x := linkAt s.hw l
    (16 ≤ l ∨ x.state ≠ 2 → exec (.flitReceive l ok f) s = .fault .notEnabled) ∧
    (l < 16 → x.state = 2 →
      (ok = false → exec (.flitReceive l ok f) s = .next { s with hw := setLink s.hw l { x with crcerr := x.crcerr + 1 } }) ∧
      (ok = true →
        let hw := setLink s.hw l (farEnd x f.taken f.refused)
        let deaf := s.hw.pkg.cut.state = 3 ∨ (dieAt s.hw 0).ensSelf.getLsbD 63 = false
        (deaf → exec (.flitReceive l ok f) s = .next { s with hw := hw }) ∧
        (¬ deaf → exec (.flitReceive l ok f) s =
          .next { s with hw := modPkg hw fun p => { p with recvBuf := p.recvBuf ++ f.items.filter fun i => i.dst = ownLC s.hw } })))) ∧
  (∀ (x : Link) (taken : Nat) (refused : Bool), let y := farEnd x taken refused
    let streak := if y.kept.head? = x.kept.head? then x.streak else 0
    y.kept = (x.kept.filter fun f => decide (taken ≤ f.seq)) ∧ y.seqOut = x.seqOut ∧ y.state = x.state ∧
    (refused = true → y.kept ≠ [] → y.replays = x.replays + 1 ∧ y.streak = streak + 1) ∧
    (refused = false ∨ y.kept = [] → y.replays = x.replays ∧ y.streak = streak)) ∧
  (∀ (hw : Hw) (l lc : Nat) (items : List FabItem), let x := linkAt hw l
    (x.state ≠ 2 ∨ 512 ≤ x.kept.length → flitOut hw l lc items = none) ∧
    (x.state = 2 → x.kept.length < 512 → flitOut hw l lc items = some (setLink hw l
      { x with kept := x.kept ++ [{ seq := x.seqOut, items := items, acks := acksFor hw lc }], seqOut := x.seqOut + 1 }))) ∧
  (∀ (s : State) (l : Nat) (ok : Bool),
    let x := linkAt s.hw l
    let due := l < 16 ∧ (x.state = 1 ∨ (x.state = 2 ∧ 16 ≤ x.streak))
    let hw := setLink s.hw l { x with state := 2, retrains := x.retrains + 1, streak := 0 }
    (due → exec (.linkRetrain l ok) s = .next { s with hw := if ok then hw else linkGoesDown hw l 0 }) ∧
    (¬ due → exec (.linkRetrain l ok) s = .fault .notEnabled)) ∧
  (∀ (s : State) (l : Nat),
    let up := l < 16 ∧ ((linkAt s.hw l).state = 1 ∨ (linkAt s.hw l).state = 2)
    (up → exec (.linkDown l) s = .next { s with hw := linkGoesDown s.hw l 0 }) ∧ (¬ up → exec (.linkDown l) s = .fault .notEnabled)) ∧
  (∀ (hw : Hw) (l : Nat), l < 16 →
    let h := linkGoesDown hw l 0
    let off := setLink hw l { linkAt hw l with state := 0, lanes := 0, streak := 0, kept := [] }
    linkAt h l = { linkAt hw l with state := 0, lanes := 0, streak := 0, kept := [] } ∧ h.pkg.last.toNat = 8 + cLINK * 2 ^ 8 + l * 2 ^ 20 ∧
    (∃ m, h.svc = hw.svc ++ [m] ∧ m.tok = mkTok 0 0 .service (BitVec.ofNat 64 l) (BitVec.ofNat 7 cLINK)) ∧
    (∀ d, d < 4 → (dieAt h d).ens = (dieAt hw d).ens.map fun x => (x.1, BitVec.ofNat 32 (ensDown off l x.2.toNat))) ∧
    h.pkg.replay.length = hw.pkg.replay.length) ∧
  (∀ (s : State) (l : Nat) (lanes : BitVec 8),
    let can := l < 16 ∧ (linkAt s.hw l).en = true ∧ (linkAt s.hw l).state ≠ 2
    (can → exec (.linkUp l lanes) s = .next { s with hw := setLink s.hw l { linkAt s.hw l with state := 2, lanes := lanes, streak := 0 } }) ∧
    (¬ can → exec (.linkUp l lanes) s = .fault .notEnabled)) ∧
  (∀ (hw : Hw) (l e : Nat),
    (ensLink e ≠ l ∨ (bits e 30 2 ≠ 1 ∧ bits e 30 2 ≠ 3) → ensDown hw l e = e) ∧
    (ensLink e = l → bits e 30 2 = 1 ∨ bits e 30 2 = 3 →
      (∀ k, k = 1 ∨ k = 2 → (∀ j, 1 ≤ j → j < k → ensPort e j = l ∨ linkIsUp hw (ensPort e j) = false) → ensPort e k ≠ l → linkIsUp hw (ensPort e k) = true →
        bits (ensDown hw l e) 30 2 = 3 ∧ bits (ensDown hw l e) 16 2 = k ∧ bits (ensDown hw l e) 0 16 = bits e 0 16) ∧
      ((∀ j, j = 1 ∨ j = 2 → ensPort e j = l ∨ linkIsUp hw (ensPort e j) = false) →
        bits (ensDown hw l e) 30 2 = 2 ∧ bits (ensDown hw l e) 16 2 = bits e 16 2 ∧ bits (ensDown hw l e) 0 16 = bits e 0 16)))

/-- The next item of a stream is delivered, and acknowledged: a token goes to its element, a read, a store or an atomic of a domain that shares the granule performs at its home with a reply, and
one that does not is refused; an item delivered before is dropped and acknowledged again. An item sent takes its stream's next number and an entry of the replay buffer of its die, or waits. An
acknowledgement frees the replay entries up to its number, and completes stores, which a refusal that comes later still faults; an item unacknowledged too long is sent again, up to the limit, then its
destination drains with a report of its die; a marker of a cut not recorded holds its stream, the first being reported; a rollback writes the last images back (16 R410 to R413, R415, R417, R421;
that a marker counts as an item, and what its report holds, is the model's reading, log 28; the images of another package are free, log 10). -/
def Clauses.RemoteEvents : Prop :=
  (∀ (hw : Hw) (d lc cls : Nat) (body : FabBody),
    let n := tget hw.pkg.nums {} (streamKey lc cls)
    let h := fabSend hw d lc cls body
    (fabGoes hw d lc cls = false → h = modPkg hw fun p => { p with fabWait := p.fabWait ++ [{ die := d, lc := lc, cls := cls, body := body }] }) ∧
    (fabGoes hw d lc cls = true → ∃ r, h.pkg.replay = hw.pkg.replay ++ [r] ∧ r.die = d ∧ r.kept = none ∧ r.tries = 0 ∧ r.link = ensLink (ensEntry hw d lc) ∧
      r.item = { src := ownLC hw, dst := lc, cls := cls, num := n.nextOut, body := body } ∧
      h.pkg.nums = tput hw.pkg.nums {} (streamKey lc cls) { n with nextOut := (n.nextOut + 1) % 2 ^ 32 } ∧
      (r.due = false ↔ (flitOut hw r.link lc [r.item]).isSome = true))) ∧
  (∀ (s : State) (n : Nat) (it : FabItem), s.hw.pkg.recvBuf[n]? = some it →
    let hw := takeItem s.hw n it
    let acked := fun (m : Mem) (h : Hw) => exec (.remoteItemArrival n) s = .next { mem := m, hw := ackOut h it.src }
    (isOld s.hw it = true → acked s.mem (modPkg s.hw fun p => { p with recvBuf := p.recvBuf.take n ++ p.recvBuf.drop (n + 1) })) ∧
    (isOld s.hw it = false → mayDeliver s.hw it = false → exec (.remoteItemArrival n) s = .fault .notEnabled) ∧
    (isOld s.hw it = false → mayDeliver s.hw it = true →
      (∀ t, it.body = .token t →
        (contLC t.cont = ownLC s.hw →
          (linksFull hw t = true → exec (.remoteItemArrival n) s = .fault .notEnabled) ∧
          (linksFull hw t = false →
            exec (.remoteItemArrival n) s = .next { s with hw := send hw (.fabric it.src) none (genOfCl hw (clOf (contCore t.cont))) t it.num })) ∧
        (contLC t.cont ≠ ownLC s.hw → acked s.mem hw)) ∧
      (∀ u v st psn rf g, it.body = .reply u v st psn rf g → acked s.mem (deliverReply hw u v st psn rf g)) ∧
      (∀ r u, it.body = .request r u →
        let reply := fun (h : Hw) (v : Nat) (p rf : Bool) => fabSend h (homeCluster r.addr / 8) it.src 1 (.reply u (if p then 0 else BitVec.ofNat 64 v) 0 p rf r.gen)
        let busy := replayFree s.hw (homeCluster r.addr / 8) 1 = false ∨ ∃ x, s.hw.pkg.assigning = some x ∧ r.addr / 2 ^ 21 = x.1
        let old := memRead s.mem r.addr r.width
        let psn := rangePsn s.mem r.addr r.width
        let stored := fun (v : Nat) (p : Bool) => memStore s.mem r.addr r.width v p
        (busy → exec (.remoteItemArrival n) s = .fault .notEnabled) ∧
        (¬ busy →
          (remoteOk hw r = false → acked s.mem (reply hw 0 false true)) ∧
          (remoteOk hw r = true → r.op = 0x180 → acked s.mem (reply hw old psn false)) ∧
          (remoteOk hw r = true → r.op = 0x181 →
            let m := stored r.y.toNat r.psn
            acked m (afterWrite m hw r.addr r.width)) ∧
          (remoteOk hw r = true → r.op = 0x1CD →
            let m := stored (rportMerge (bits r.z.toNat 0 4) (bits r.z.toNat 4 4) r.width old r.y.toNat) (psn || r.psn)
            acked m (afterWrite m hw r.addr r.width)) ∧
          (remoteOk hw r = true → r.op = 0x051 →
            let site : Site := { elem := 0, frame := 0, slot := 0, tag := 0, occ := 0, seq := none, asid := 0, op := 0x051#9, t0 := 0, t1 := 0 }
            let e : MonEntry := { addr := r.addr, width := r.width, cond := r.z.extractLsb' 40 2, y := zx (8 * r.width) r.y, sx := false, due := none
                                  site := site, remote := some (it.src, u, r.gen) }
            acked s.mem (monitorAt s.mem hw e (bits r.z.toNat 0 40))) ∧
          (remoteOk hw r = true → r.op ≠ 0x180 → r.op ≠ 0x181 → r.op ≠ 0x051 → r.op ≠ 0x1CD →
            (∀ v, atomNew r.op r.width old r.y r.z = some v →
              let m := stored v (psn || r.psn)
              acked m (reply (afterWrite m hw r.addr r.width) old psn false)) ∧
            (atomNew r.op r.width old r.y r.z = none → acked s.mem (reply hw old psn false))))) ∧
      (∀ c, it.body = .marker c → exec (.remoteItemArrival n) s = .fault .notEnabled)) ∧
    (mayDeliver s.hw it = true → ∀ c, it.body = .marker c → ∃ t, exec (.markerArrival n) s = .next t ∧ t.mem = s.mem ∧
      t.hw.pkg.recvBuf = s.hw.pkg.recvBuf.take n ++ s.hw.pkg.recvBuf.drop (n + 1) ∧
      (numsOf t.hw it).held = (if s.hw.pkg.cut.num.toNat < c then some c else none) ∧
      t.hw.svc.length = s.hw.svc.length + (if s.hw.pkg.cut.num.toNat < c ∧ (∀ x ∈ hw.pkg.nums, x.2.held ≠ some c) then 1 else 0) ∧ (numsOf t.hw it).nextIn = ((numsOf s.hw it).nextIn + 1) % 2 ^ 32) ∧
    ((mayDeliver s.hw it = false ∨ ∀ c, it.body ≠ .marker c) → exec (.markerArrival n) s = .fault .notEnabled)) ∧
  (∀ (hw : Hw) (it : FabItem), mayDeliver hw it = true ↔
    it.num = (numsOf hw it).nextIn ∧ (numsOf hw it).held = none ∧ (hw.pkg.cut.state = 0 ∨ hw.pkg.cut.state = 1)) ∧
  (∀ (hw : Hw) (r : RemoteOp), remoteOk hw r = true ↔
    let g := tget hw.pkg.granules (0, 0) (r.addr / 2 ^ 21)
    inHbm r.addr = true ∧ g.1 = 2 ∧ r.dom ≠ 0 ∧ (tget hw.pkg.parts {} (g.2.toNat % 16)).fdom = r.dom) ∧
  (∀ (s : State) (lc cls num cut : Nat),
    let mine := fun (r : RplEntry) => r.item.dst = lc && r.item.cls = cls && atOrBelow r.item.num num && r.kept.isNone
    let hw := modPkg s.hw fun p =>
      { p with replay := if s.hw.pkg.cut.num.toNat < cut then p.replay.map (fun r => if mine r then { r with kept := some cut, due := false } else r)
                         else p.replay.filter fun r => !mine r }
    exec (.acknowledgement lc cls num cut) s = .next { s with hw := (s.hw.pkg.replay.filter mine).foldl (fun hw r => ackItem hw r.item) hw }) ∧
  (∀ (hw : Hw) (it : FabItem), ((∀ r u, it.body ≠ .request r u) → ackItem hw it = hw) ∧
    (∀ r u, it.body = .request r u →
      let mine := fun (a : Access) => a.sent && a.id = u && a.kind == .store
      (∀ n a, posOf mine hw.acc = some n → hw.acc[n]? = some a →
        ackItem hw it = endAccess (modPkg { hw with acc := hw.acc.take n ++ hw.acc.drop (n + 1) } fun p => { p with acked := p.acked ++ [a] }) a 0 false) ∧
      (∀ cl n h, posOf mine hw.acc = none → halUnit hw u = some (cl, n, h) → ackItem hw it = setHal hw cl n { h with pending := sdel h.pending u }))) ∧
  (∀ (s : State) (lc cls num cut : Nat), ∃ t, exec (.acknowledgement lc cls num cut) s = .next t ∧ t.mem = s.mem ∧
    let mine := fun (r : RplEntry) => r.item.dst = lc ∧ r.item.cls = cls ∧ atOrBelow r.item.num num = true ∧ r.kept = none
    (cut ≤ s.hw.pkg.cut.num.toNat → ∀ r ∈ s.hw.pkg.replay, (∀ q ∈ s.hw.pkg.replay, mine q → ∃ u v st p f g, q.item.body = .reply u v st p f g) →
      (r ∈ t.hw.pkg.replay ↔ ¬ mine r)) ∧
    (s.hw.pkg.cut.num.toNat < cut → (∀ q ∈ s.hw.pkg.replay, mine q → ∃ u v st p f g, q.item.body = .reply u v st p f g) →
      t.hw.pkg.replay.length = s.hw.pkg.replay.length ∧ ∀ r ∈ s.hw.pkg.replay, mine r → { r with kept := some cut, due := false } ∈ t.hw.pkg.replay)) ∧
  (∀ (s : State) (n : Nat) (r : RplEntry), s.hw.pkg.replay[n]? = some r →
    let late := r.sentAt + (dieAt s.hw r.die).e2eTmo.toNat * 1024 ≤ s.hw.now ∧ (dieAt s.hw 0).ensSelf.getLsbD 63 = true
    let path := fabPath s.hw r.die r.item.dst = true ∧ (flitOut s.hw (ensLink (ensEntry s.hw r.die r.item.dst)) r.item.dst []).isSome = true
    (r.kept.isSome = true ∨ s.hw.pkg.cut.state = 3 ∨ (r.due = true ∧ ¬ path) ∨ (r.due = false ∧ ¬ late)) → exec (.e2eTimeout n) s = .fault .notEnabled) ∧
  (∀ (s : State) (n : Nat) (r : RplEntry), s.hw.pkg.replay[n]? = some r → r.kept = none → s.hw.pkg.cut.state ≠ 3 →
    let lc := r.item.dst
    let d := dieAt s.hw r.die
    let link := ensLink (ensEntry s.hw r.die lc)
    let late := r.sentAt + d.e2eTmo.toNat * 1024 ≤ s.hw.now ∧ (dieAt s.hw 0).ensSelf.getLsbD 63 = true
    let sent := fun (tries : Nat) (due : Bool) => { r with tries := tries, link := link, sentAt := s.hw.now, due := due }
    let put := fun (h : Hw) (x : RplEntry) => modPkg h fun p => { p with replay := p.replay.take n ++ x :: p.replay.drop (n + 1) }
    (∀ h, r.due = true → fabPath s.hw r.die lc = true → flitOut s.hw link lc [r.item] = some h → exec (.e2eTimeout n) s =
      .next { s with hw := put h (sent 0 false) }) ∧
    (∀ h, r.due = false → late → r.tries < d.e2eLim.toNat → flitOut s.hw link lc [r.item] = some h → exec (.e2eTimeout n) s =
      .next { s with hw := put h (sent (r.tries + 1) false) }) ∧
    (r.due = false → late → r.tries < d.e2eLim.toNat → flitOut s.hw link lc [r.item] = none → exec (.e2eTimeout n) s =
      .next { s with hw := put s.hw (sent (r.tries + 1) true) }) ∧
    (r.due = false → late → d.e2eLim.toNat ≤ r.tries → ∃ t m, exec (.e2eTimeout n) s = .next t ∧
      t.mem = s.mem ∧ (∀ i, i < 4 → ensState t.hw i lc = 2) ∧ m.die = r.die ∧ t.hw.svc = s.hw.svc ++ [m] ∧ m.tok = mkTok 0 0 .service (BitVec.ofNat 64 lc) (BitVec.ofNat 7 cREPLAY))) ∧
  (∀ (s : State) (cut : Nat), exec (.rollback 0) s = .fault .notEnabled ∧
    ∀ rs, 0 < cut → (imagesFor s.hw.pkg.cut.recs cut = some rs ∨ (imagesFor s.hw.pkg.cut.recs cut = none ∧ rs = [{ Config.cutImage cut with num := cut }])) →
      let valid := (s.hw.pkg.parts.filter fun p => p.2.valid).map (·.1)
      let z := valid.foldl (fun (x : Mem × Hw) p => partReset x.1 x.2 p) (s.mem, modCut s.hw fun c => { c with state := 3 })
      exec (.rollback cut) s = .next { mem := rs.foldl imageBack z.1, hw := modCut z.2 fun c =>
        { c with num := BitVec.ofNat 32 cut, recs := z.2.pkg.cut.recs.filter fun r => decide (r.num ≤ cut), taking := none, stopping := false
                 works := [], written := false } }) ∧
  (∀ (recs rs : List CutRec) (cut : Nat), imagesFor recs cut = some rs → (∃ r, rs.head? = some r ∧ r.full = true) ∧
    (∀ r ∈ rs, r ∈ recs ∧ r.num ≤ cut) ∧ ∃ r ∈ recs, r.num = cut) ∧
  (∀ (m : Mem) (r : CutRec) (a : Nat), (∀ p ∈ r.pages, ¬ (p.1 ≤ a ∧ a < p.1 + p.2)) → (∀ b ∈ r.image, b.1 ≠ a) → memByte (imageBack m r) a = memByte m a)

/-- The events of the fabric, and the rollback to a cut. -/
def Obligations.FabricEvents : Prop := Clauses.LinkEvents ∧ Clauses.RemoteEvents
end

