-- ==== Sys2Proof/Laws/Fire.lean ====
section
/-! SUPPORT. What a firing can do, said once: the three ends of `finish`, what a firing at the focus is, and the order in
which `effect` deals with the common cases. -/
namespace Sys2Proof.Machine

/-! ## The three ends -/

@[simp] theorem finish_ok (f : Fire) (s : State) (hw : Hw) : finish f s (.ok hw) = .next (fired f s hw) := rfl
@[simp] theorem finish_wait (f : Fire) (s : State) (hw : Hw) : finish f s (.error (.wait hw)) = .next (held s hw) := rfl
@[simp] theorem finish_fault (f : Fire) (s : State) (c d : Nat) : finish f s (.error (.fault c d)) = .next (faulted f s c d) := rfl

@[simp] theorem fired_mem (f : Fire) (s : State) (hw : Hw) : (fired f s hw).mem = s.mem := rfl
@[simp] theorem held_mem (s : State) (hw : Hw) : (held s hw).mem = s.mem := rfl
@[simp] theorem faulted_mem (f : Fire) (s : State) (c d : Nat) : (faulted f s c d).mem = s.mem := rfl

/-- A finished firing answers a next state, and leaves memory as it was. -/
theorem finish_cases (f : Fire) (s : State) (r : Except Stop Hw) :
    (∃ hw, r = .ok hw ∧ finish f s r = .next (fired f s hw)) ∨
    (∃ hw, r = .error (.wait hw) ∧ finish f s r = .next (held s hw)) ∨
    (∃ c d, r = .error (.fault c d) ∧ finish f s r = .next (faulted f s c d)) := by
  cases r with
  | ok hw => exact .inl ⟨hw, rfl, rfl⟩
  | error e =>
    cases e with
    | fault c d => exact .inr (.inr ⟨c, d, rfl, rfl⟩)
    | wait hw => exact .inr (.inl ⟨hw, rfl, rfl⟩)

theorem finish_mem (f : Fire) (s t : State) (r : Except Stop Hw) (h : finish f s r = .next t) : t.mem = s.mem := by
  obtain ⟨_, _, e⟩ | ⟨_, _, e⟩ | ⟨_, _, _, e⟩ := finish_cases f s r <;> (rw [e] at h; cases h; rfl)

/-- No instruction word that answers through `fire` writes memory. -/
theorem fire_mem (sp : OpSpec) (mn : Meaning) (w : Fields) (s t : State) (h : fire sp mn w s = .next t) : t.mem = s.mem := by
  unfold fire at h
  split at h
  · cases h
  · exact finish_mem _ _ _ _ h

/-! ## The firing at the focus -/

@[simp] theorem fireOf_w (sp : OpSpec) (w : Fields) (x : Site) (l : List Operand) (q : Bool) : (fireOf sp w x l q).w = w := rfl
@[simp] theorem fireOf_site (sp : OpSpec) (w : Fields) (x : Site) (l : List Operand) (q : Bool) : (fireOf sp w x l q).site = x := rfl
@[simp] theorem fireOf_queued (sp : OpSpec) (w : Fields) (x : Site) (l : List Operand) (q : Bool) : (fireOf sp w x l q).queued = q := rfl

/-- What the firing at a focus is: its word, its element, slot and tag, and that its element is not frozen. -/
theorem focusFire_some (sp : OpSpec) (w : Fields) (hw : Hw) (f : Fire) (h : focusFire sp w hw = some f) :
    ∃ fo, hw.focus = some fo ∧ f.w = w ∧ f.site.elem = fo.elem ∧ f.site.slot = fo.slot ∧ f.site.frame = fo.slot / 4 ∧ f.site.tag = fo.tag ∧
      f.site.op = sp.op ∧ f.queued = fo.queued ∧ frozen hw fo.elem = false := by
  unfold focusFire at h
  split at h
  · cases h
  next fo hfo =>
    refine ⟨fo, hfo, ?_⟩
    split at h
    · cases h
    next hz =>
      have hz : frozen hw fo.elem = false := by simpa using hz
      split at h
      next hq =>
        simp only [Option.map_eq_some_iff] at h
        obtain ⟨x, _, rfl⟩ := h
        exact ⟨rfl, rfl, rfl, rfl, rfl, rfl, hq.symm, hz⟩
      next hq =>
        split at h
        · cases h
        · cases h
          exact ⟨rfl, rfl, rfl, rfl, rfl, rfl, by simpa using hq, hz⟩

theorem focusFire_w {sp : OpSpec} {w : Fields} {hw : Hw} {f : Fire} (h : focusFire sp w hw = some f) : f.w = w := by
  obtain ⟨_, _, e, _⟩ := focusFire_some sp w hw f h; exact e

/-- A frozen element fires nothing (03 R98). -/
theorem fire_frozen (sp : OpSpec) (mn : Meaning) (w : Fields) (s : State) (fo : Focus) (hf : s.hw.focus = some fo)
    (hz : frozen s.hw fo.elem = true) : fire sp mn w s = .fault .notEnabled := by
  unfold fire focusFire
  rw [hf]; simp [hz]

/-! ## Its ports -/

/-- The heads of several ports: for each, one at that port. -/
theorem headsAt_ports (x : Elem) (slot : Nat) (tag : BitVec 20) (ps : List Nat) (l : List Operand) (h : headsAt x slot tag ps = some l) :
    l.map (fun o => contPort o.tok.cont) = ps := by
  induction ps generalizing l with
  | nil => simp [headsAt] at h; simp [h]
  | cons p r ih =>
    unfold headsAt at h
    split at h
    next o m ho hm =>
      cases h
      simp only [List.map_cons, ih m hm, List.cons.injEq, and_true]
      unfold headAt at ho
      split at ho
      next o' hf =>
        split at ho
        · cases ho
        · cases ho
          have := List.find?_some hf
          simp at this; exact this.2
      · cases ho
    · cases h

/-- A firing that does not come from the LSID queue takes the heads of its set's ports. -/
theorem focusFire_heads (sp : OpSpec) (w : Fields) (hw : Hw) (f : Fire) (h : focusFire sp w hw = some f) (hq : f.queued = false) :
    ∃ l x, headsAt (elemAt hw f.site.elem) f.site.slot f.site.tag (setPorts sp w) = some l ∧ f = fireOf sp w x l false := by
  unfold focusFire at h
  split at h
  · cases h
  next fo hfo =>
    split at h
    · cases h
    · split at h
      · simp only [Option.map_eq_some_iff] at h
        obtain ⟨x, _, rfl⟩ := h
        simp at hq
      · split at h
        · cases h
        next l hl => cases h; exact ⟨l, _, hl, rfl⟩

/-- A port that K fills holds DATA. -/
theorem portTok_const (sp : OpSpec) (w : Fields) (l : List Operand) (p : Nat) (h : p ∉ l.map (fun o => contPort o.tok.cont)) :
    portTok sp w l p = kTok (if p < sp.arity && !omToken w.om.toNat p then kOf sp w p else 0) := by
  unfold portTok
  split
  next o ho =>
    refine absurd (List.mem_map.2 ⟨o, List.mem_of_find?_eq_some ho, ?_⟩) h
    simpa using List.find?_some ho
  · rfl

/-- No port of an operand set without END holds one. -/
theorem port_no_end (sp : OpSpec) (w : Fields) (hw : Hw) (f : Fire) (p : Nat) (h : focusFire sp w hw = some f) (hq : f.queued = false)
    (hn : anyEnd f.data = false) (hr : sp.op ≠ opREAD) (hp : p < 3) :
    (portTok sp w f.used p).kind ≠ .endm ∧ (p = 0 → f.a = portTok sp w f.used 0) ∧ (p = 1 → f.b = portTok sp w f.used 1) ∧
      (p = 2 → f.c = portTok sp w f.used 2) := by
  obtain ⟨l, x, hl, rfl⟩ := focusFire_heads sp w hw f h hq
  refine ⟨?_, fun _ => rfl, fun _ => rfl, fun _ => rfl⟩
  have hm := headsAt_ports _ _ _ _ _ hl
  have hs : setPorts sp w = tokenPorts sp w := by simp [setPorts, hr]
  rw [hs] at hm
  by_cases hd : p ∈ dataPorts sp w
  · show (portTok sp w l p).kind ≠ .endm
    intro he
    have : anyEnd ((dataPorts sp w).map (portTok sp w l)) = true := by
      unfold anyEnd
      rw [List.any_eq_true]
      exact ⟨_, List.mem_map.2 ⟨p, hd, rfl⟩, by simpa using he⟩
    have hn : anyEnd ((dataPorts sp w).map (portTok sp w l)) = false := hn
    rw [this] at hn; cases hn
  · show (portTok sp w l p).kind ≠ .endm
    rw [portTok_const]
    · simp [kTok, mkTok]
    · rw [hm]; unfold tokenPorts
      simp only [List.mem_append, hd, false_or]
      split
      · simp; omega
      · simp

/-- Port a of an operand set without END holds none. -/
theorem a_no_end {sp : OpSpec} {w : Fields} {hw : Hw} {f : Fire} (h : focusFire sp w hw = some f) (hq : f.queued = false)
    (hn : anyEnd f.data = false) (hr : sp.op ≠ opREAD) : f.a.kind ≠ .endm := by
  have := port_no_end sp w hw f 0 h hq hn hr (by omega)
  rw [this.2.1 rfl]; exact this.1

/-! ## The order of the common cases -/

/-- A firing at the focus ends as its effect says. -/
theorem fire_eq {sp : OpSpec} {mn : Meaning} {w : Fields} {s : State} {f : Fire} (h : focusFire sp w s.hw = some f) :
    fire sp mn w s = finish f s (effect sp mn f s.mem s.hw) := by
  unfold fire; rw [h]

/-- Past the fields and the checks of the entry. -/
theorem effect_ready {sp : OpSpec} {w : Fields} {s : State} {f : Fire} (mn : Meaning) (h : Ready sp w s f)
    (hp : mn.pre f s.hw = .ok ()) :
    effect sp mn f s.mem s.hw =
      if f.queued then mn.body f s.mem s.hw
      else if mn.endMode = .std && anyEnd f.data then
        if endsAgree f.data then do
          let hw ← nullLs mn.ls f s.hw
          passEnd f s.mem hw
        else .error (illegal 6)
      else if mn.endMode = .fwdA && f.a.kind = .endm then do
        let hw ← nullLs mn.ls f s.hw
        fwd f hw f.a f.tag
      else if mn.endMode = .own && anyEnd f.data then mn.body f s.mem s.hw
      else match (if sp.pPort then Pred.fires else predOf f.w.pr f.p) with
        | .notFire => mn.notFire f s.mem s.hw
        | .poisoned => mn.poison f s.mem s.hw
        | .fires =>
          if !mn.ownNull && (nullAux f.data).isSome then do
            let hw ← nullLs mn.ls f s.hw
            mn.onNull f s.mem hw
          else if mn.ls ≠ .none && !lsTurn s.hw f.site f.w.ls.toNat then enqueueLs f s.hw
          else mn.body f s.mem s.hw := by
  unfold effect
  simp only [h.kept, h.word, hp, bind, Except.bind, pure, Except.pure]
  rfl

/-- A word whose own fields are wrong freezes its element with ILLEGAL_FIELD (02 R47 to R50, R54). -/
theorem effect_badWord {sp : OpSpec} {w : Fields} {s : State} {f : Fire} {d : Nat} (mn : Meaning) (_hf : focusFire sp w s.hw = some f)
    (hk : dropped s.hw f = false) (hd : wordFault sp f.w (frameAt (coreAt s.hw f.core) f.frame).header = some d) :
    effect sp mn f s.mem s.hw = .error (.fault cILLFIELD d) := by
  unfold effect
  simp only [hk, hd, bind, Except.bind]
  rfl

/-- A plain firing has its entry's own effect. -/
theorem effect_plain {sp : OpSpec} {w : Fields} {s : State} {f : Fire} (mn : Meaning) (h : Plain sp w s f)
    (hp : mn.pre f s.hw = .ok ()) (hls : mn.ls = .none ∨ Turn s f) (he : mn.endMode ≠ .fwdA ∨ f.a.kind ≠ .endm) :
    effect sp mn f s.mem s.hw = mn.body f s.mem s.hw := by
  rw [effect_ready mn h.toReady hp]
  have hpr : (if sp.pPort then Pred.fires else predOf f.w.pr f.p) = .fires := by
    rcases h.pred with e | e <;> simp [e]
  have ha : (decide (mn.endMode = .fwdA) && decide (f.a.kind = .endm)) = false := by
    rcases he with e | e <;> simp [e]
  have hl : (decide (mn.ls ≠ .none) && !lsTurn s.hw f.site f.w.ls.toNat) = false := by
    rcases hls with e | e
    · simp [e]
    · simp [show lsTurn s.hw f.site f.w.ls.toNat = true from e]
  simp only [h.fresh, h.noEnd, hpr, h.value, ha, hl, Bool.and_false, Option.isSome_none, Bool.false_eq_true, if_false]

/-- A firing of an entry that meets END and NULL in its own words has its entry's own effect. -/
theorem effect_live {sp : OpSpec} {w : Fields} {s : State} {f : Fire} (mn : Meaning) (h : Live sp w s f)
    (hp : mn.pre f s.hw = .ok ()) (hls : mn.ls = .none) (hn : mn.ownNull = true)
    (he : mn.endMode = .own ∨ (mn.endMode = .std ∧ anyEnd f.data = false)) :
    effect sp mn f s.mem s.hw = mn.body f s.mem s.hw := by
  rw [effect_ready mn h.toReady hp]
  rcases he with he | ⟨he, hx⟩
  · cases hx : anyEnd f.data with
    | true => simp [h.fresh, he, hx]
    | false =>
      have hpr : (if sp.pPort then Pred.fires else predOf f.w.pr f.p) = .fires := by
        rcases h.goes with e | e | e
        · rw [hx] at e; cases e
        · simp [e]
        · simp [e]
      simp [h.fresh, he, hx, hpr, hn, hls]
  · have hpr : (if sp.pPort then Pred.fires else predOf f.w.pr f.p) = .fires := by
      rcases h.goes with e | e | e
      · rw [hx] at e; cases e
      · simp [e]
      · simp [e]
    simp [h.fresh, he, hx, hpr, hn, hls]

/-- A plain firing whose effect succeeds. -/
theorem fire_plain {sp : OpSpec} {mn : Meaning} {w : Fields} {s : State} {f : Fire} {hw : Hw} (h : Plain sp w s f)
    (hb : mn.body f s.mem s.hw = .ok hw) (hp : mn.pre f s.hw = .ok () := by rfl) (hls : mn.ls = .none ∨ Turn s f := by exact .inl rfl)
    (he : mn.endMode ≠ .fwdA ∨ f.a.kind ≠ .endm := by simp) : fire sp mn w s = .next (fired f s hw) := by
  rw [fire_eq h.focus, effect_plain mn h hp hls he, hb]; rfl

/-- A plain firing whose effect faults. -/
theorem fire_plain_fault {sp : OpSpec} {mn : Meaning} {w : Fields} {s : State} {f : Fire} {c d : Nat} (h : Plain sp w s f)
    (hb : mn.body f s.mem s.hw = .error (.fault c d)) (hp : mn.pre f s.hw = .ok () := by rfl)
    (hls : mn.ls = .none ∨ Turn s f := by exact .inl rfl)
    (he : mn.endMode ≠ .fwdA ∨ f.a.kind ≠ .endm := by simp) : fire sp mn w s = .next (faulted f s c d) := by
  rw [fire_eq h.focus, effect_plain mn h hp hls he, hb]; rfl

end Sys2Proof.Machine
end

