-- ==== Sys2Proof/Laws/Tab.lean ====
section
/-! SUPPORT. Laws of sparse tables and of rising lists: what a key reads after a write, and that every operation keeps
the canonical form. -/
namespace Sys2Proof.Machine

variable {α : Type}

@[simp] theorem tget_nil (d : α) (k : Nat) : tget [] d k = d := rfl

/-- A key that a filter drops reads the default. -/
theorem tget_tkeep_dropped (p : Nat → Bool) (t : Tab α) (d : α) (k : Nat) (h : p k = false) : tget (tkeep p t) d k = d := by
  induction t with
  | nil => rfl
  | cons x r ih =>
    obtain ⟨j, u⟩ := x
    unfold tkeep at ih ⊢
    rw [List.filter_cons]
    split
    next hp =>
      have hjk : j ≠ k := fun e => by subst e; simp_all
      simpa [tget, hjk] using ih
    next => exact ih

/-- A key that a filter keeps reads as before. -/
theorem tget_tkeep_kept (p : Nat → Bool) (t : Tab α) (d : α) (k : Nat) (h : p k = true) : tget (tkeep p t) d k = tget t d k := by
  induction t with
  | nil => rfl
  | cons x r ih =>
    obtain ⟨j, u⟩ := x
    unfold tkeep at ih ⊢
    rw [List.filter_cons]
    split
    next => simp only [tget, ih]
    next hp =>
      have hjk : j ≠ k := fun e => by subst e; simp_all
      simpa [tget, hjk] using ih

/-- A key reads what was written at it. -/
@[simp] theorem tget_tput_same [DecidableEq α] (t : Tab α) (d : α) (k : Nat) (v : α) : tget (tput t d k v) d k = v := by
  induction t with
  | nil => by_cases h : v = d <;> simp [tput, tget, h]
  | cons x r ih =>
    obtain ⟨j, u⟩ := x
    unfold tput
    split
    next h =>
      split
      next hv => rw [tget, if_neg (by omega), tget_tkeep_dropped _ _ _ _ (by simp), hv]
      next => simp [tget]
    next h =>
      split
      next hk =>
        split
        next hv => rw [tget_tkeep_dropped _ _ _ _ (by simp), hv]
        next => simp [tget]
      next hk => rw [tget, if_neg (fun e => hk e.symm)]; exact ih

/-- Every other key reads as before a write. -/
theorem tget_tput_other [DecidableEq α] (t : Tab α) (d : α) (k j : Nat) (v : α) (h : j ≠ k) :
    tget (tput t d k v) d j = tget t d j := by
  induction t with
  | nil => by_cases hv : v = d <;> simp [tput, tget, hv, Ne.symm h]
  | cons x r ih =>
    obtain ⟨i, u⟩ := x
    unfold tput
    split
    next hk =>
      split
      next => rw [tget, tget, tget_tkeep_kept (fun i => i != k) r d j (by simpa using h)]
      next => rw [tget, if_neg (Ne.symm h)]
    next hk =>
      split
      next hki =>
        subst hki
        split
        next => rw [tget_tkeep_kept (fun i => i != k) r d j (by simpa using h), tget, if_neg (Ne.symm h)]
        next => simp [tget, Ne.symm h]
      next => simp only [tget, ih]

/-- Both laws in one. -/
theorem tget_tput [DecidableEq α] (t : Tab α) (d : α) (k j : Nat) (v : α) :
    tget (tput t d k v) d j = if j = k then v else tget t d j := by
  split
  next h => subst h; simp
  next h => exact tget_tput_other t d k j v h

/-- The keys of a table, all above a bound. -/
theorem tcanon_cons [DecidableEq α] (d : α) (k : Nat) (v : α) (t : Tab α) :
    tcanon d ((k, v) :: t) = true ↔ v ≠ d ∧ (∀ x ∈ t, k < x.1) ∧ tcanon d t = true := by
  induction t generalizing k v with
  | nil => simp [tcanon]
  | cons x r ih =>
    obtain ⟨j, u⟩ := x
    simp only [tcanon, Bool.and_eq_true, bne_iff_ne, decide_eq_true_eq, ih]
    simp only [List.mem_cons, forall_eq_or_imp]
    constructor
    · rintro ⟨⟨h1, h2⟩, h3, h4, h5⟩; exact ⟨h1, ⟨h2, fun x hx => Nat.lt_trans h2 (h4 x hx)⟩, h3, h4, h5⟩
    · rintro ⟨h1, ⟨h2, _⟩, h3⟩; exact ⟨⟨h1, h2⟩, h3⟩

/-- Filtering by key keeps the canonical form. -/
theorem tcanon_tkeep [DecidableEq α] (d : α) (p : Nat → Bool) (t : Tab α) (h : tcanon d t = true) : tcanon d (tkeep p t) = true := by
  induction t with
  | nil => rfl
  | cons x r ih =>
    obtain ⟨k, v⟩ := x
    rw [tcanon_cons] at h
    unfold tkeep at ih ⊢
    rw [List.filter_cons]
    split
    · rw [tcanon_cons]
      exact ⟨h.1, fun x hx => h.2.1 x (List.mem_filter.1 hx).1, ih h.2.2⟩
    · exact ih h.2.2

/-- Keys of a table after a write are old keys or the one written. -/
theorem mem_tput [DecidableEq α] (t : Tab α) (d : α) (k : Nat) (v : α) (x : Nat × α) (h : x ∈ tput t d k v) :
    x ∈ t ∨ x = (k, v) := by
  induction t with
  | nil => unfold tput at h; split at h <;> simp_all
  | cons y r ih =>
    obtain ⟨j, u⟩ := y
    unfold tput tkeep at h
    split at h
    · split at h
      · simp only [List.mem_cons, List.mem_filter] at h ⊢; grind
      · simp only [List.mem_cons] at h ⊢; grind
    · split at h
      · split at h
        · simp only [List.mem_cons, List.mem_filter] at h ⊢; grind
        · simp only [List.mem_cons] at h ⊢; grind
      · simp only [List.mem_cons] at h ⊢; grind

/-- A write keeps the canonical form. -/
theorem tcanon_tput [DecidableEq α] (d : α) (t : Tab α) (k : Nat) (v : α) (h : tcanon d t = true) : tcanon d (tput t d k v) = true := by
  induction t with
  | nil => by_cases hv : v = d <;> simp [tput, tcanon, hv]
  | cons x r ih =>
    obtain ⟨j, u⟩ := x
    have hc := (tcanon_cons d j u r).1 h
    unfold tput
    split
    next hk =>
      split
      next =>
        rw [tcanon_cons]
        exact ⟨hc.1, fun x hx => hc.2.1 x (List.mem_filter.1 hx).1, tcanon_tkeep d _ r hc.2.2⟩
      next hv =>
        rw [tcanon_cons]
        refine ⟨hv, fun x hx => ?_, h⟩
        rcases List.mem_cons.1 hx with rfl | hx
        · exact hk
        · exact Nat.lt_trans hk (hc.2.1 x hx)
    next hk =>
      split
      next hkj =>
        split
        next => exact tcanon_tkeep d _ r hc.2.2
        next hv => subst hkj; rw [tcanon_cons]; exact ⟨hv, hc.2.1, hc.2.2⟩
      next hkj =>
        rw [tcanon_cons]
        refine ⟨hc.1, fun x hx => ?_, ih hc.2.2⟩
        rcases mem_tput r d k v x hx with hx | rfl
        · exact hc.2.1 x hx
        · show j < k; omega

/-- The members of a rising list after its first. -/
theorem sorted_cons (n : Nat) (l : List Nat) : sorted (n :: l) = true ↔ (∀ m ∈ l, n < m) ∧ sorted l = true := by
  induction l generalizing n with
  | nil => simp [sorted]
  | cons a r ih =>
    simp only [sorted, Bool.and_eq_true, decide_eq_true_eq, ih, List.mem_cons, forall_eq_or_imp]
    constructor
    · rintro ⟨h1, h2, h3⟩; exact ⟨⟨h1, fun m hm => Nat.lt_trans h1 (h2 m hm)⟩, h2, h3⟩
    · rintro ⟨⟨h1, _⟩, h2, h3⟩; exact ⟨h1, h2, h3⟩

/-- A filter keeps a rising list rising. -/
theorem sorted_filter (p : Nat → Bool) (l : List Nat) (h : sorted l = true) : sorted (l.filter p) = true := by
  induction l with
  | nil => rfl
  | cons a r ih =>
    rw [sorted_cons] at h
    rw [List.filter_cons]
    split
    · rw [sorted_cons]; exact ⟨fun m hm => h.1 m (List.mem_filter.1 hm).1, ih h.2⟩
    · exact ih h.2

/-- The members of a list after an insertion. -/
theorem mem_sins (l : List Nat) (n m : Nat) : m ∈ sins l n ↔ m = n ∨ m ∈ l := by
  induction l with
  | nil => simp [sins]
  | cons a r ih =>
    unfold sins
    split
    · simp
    · split
      · next h => subst h; simp
      · simp only [List.mem_cons, ih]; grind

/-- An insertion keeps a rising list rising. -/
theorem sorted_sins (l : List Nat) (n : Nat) (h : sorted l = true) : sorted (sins l n) = true := by
  induction l with
  | nil => rfl
  | cons a r ih =>
    have hc := (sorted_cons a r).1 h
    unfold sins
    split
    next hn =>
      rw [sorted_cons]
      refine ⟨fun m hm => ?_, h⟩
      rcases List.mem_cons.1 hm with rfl | hm
      · exact hn
      · exact Nat.lt_trans hn (hc.1 m hm)
    next hn =>
      split
      · exact h
      next hna =>
        rw [sorted_cons]
        refine ⟨fun m hm => ?_, ih hc.2⟩
        rcases (mem_sins r n m).1 hm with rfl | hm
        · omega
        · exact hc.1 m hm

end Sys2Proof.Machine
end

