-- ==== Sys2Proof/Laws/State.lean ====
section
/-! SUPPORT. What each update of the package leaves, field by field, and what reading after it gives, so that no proof opens a record update. -/
namespace Sys2Proof.Machine

/-! ## Reading what was written -/

@[simp] theorem elemAt_setElem (hw : Hw) (e : Nat) (x : Elem) : elemAt (setElem hw e x) e = x := by
  simp [elemAt, setElem]
theorem elemAt_setElem_ne (hw : Hw) (e j : Nat) (x : Elem) (h : j ≠ e) : elemAt (setElem hw e x) j = elemAt hw j := by
  simp [elemAt, setElem, tget_tput_other _ _ _ _ _ h]
@[simp] theorem coreAt_setCore (hw : Hw) (c : Nat) (x : Core) : coreAt (setCore hw c x) c = x := by
  simp [coreAt, setCore]
theorem coreAt_setCore_ne (hw : Hw) (c j : Nat) (x : Core) (h : j ≠ c) : coreAt (setCore hw c x) j = coreAt hw j := by
  simp [coreAt, setCore, tget_tput_other _ _ _ _ _ h]
@[simp] theorem coreAt_modCore (hw : Hw) (c : Nat) (g : Core → Core) : coreAt (modCore hw c g) c = g (coreAt hw c) :=
  coreAt_setCore hw c _
theorem coreAt_modCore_ne (hw : Hw) (c j : Nat) (g : Core → Core) (h : j ≠ c) : coreAt (modCore hw c g) j = coreAt hw j :=
  coreAt_setCore_ne hw c j _ h
@[simp] theorem clAt_setCl (hw : Hw) (k : Nat) (x : Cluster) : clAt (setCl hw k x) k = x := by
  simp [clAt, setCl]
theorem clAt_setCl_ne (hw : Hw) (k j : Nat) (x : Cluster) (h : j ≠ k) : clAt (setCl hw k x) j = clAt hw j := by
  simp [clAt, setCl, tget_tput_other _ _ _ _ _ h]
@[simp] theorem clAt_modCl (hw : Hw) (k : Nat) (g : Cluster → Cluster) : clAt (modCl hw k g) k = g (clAt hw k) :=
  clAt_setCl hw k _
theorem clAt_modCl_ne (hw : Hw) (k j : Nat) (g : Cluster → Cluster) (h : j ≠ k) : clAt (modCl hw k g) j = clAt hw j :=
  clAt_setCl_ne hw k j _ h
@[simp] theorem dieAt_setDie (hw : Hw) (d : Nat) (x : Die) : dieAt (setDie hw d x) d = x := by
  simp [dieAt, setDie]
theorem dieAt_setDie_ne (hw : Hw) (d j : Nat) (x : Die) (h : j ≠ d) : dieAt (setDie hw d x) j = dieAt hw j := by
  simp [dieAt, setDie, tget_tput_other _ _ _ _ _ h]
@[simp] theorem dieAt_modDie (hw : Hw) (d : Nat) (g : Die → Die) : dieAt (modDie hw d g) d = g (dieAt hw d) :=
  dieAt_setDie hw d _
theorem dieAt_modDie_ne (hw : Hw) (d j : Nat) (g : Die → Die) (h : j ≠ d) : dieAt (modDie hw d g) j = dieAt hw j :=
  dieAt_setDie_ne hw d j _ h
@[simp] theorem frameAt_setFrame (c : Core) (f : Nat) (x : Frame) : frameAt (setFrame c f x) f = x := by
  simp [frameAt, setFrame]
theorem frameAt_setFrame_ne (c : Core) (f j : Nat) (x : Frame) (h : j ≠ f) : frameAt (setFrame c f x) j = frameAt c j := by
  simp [frameAt, setFrame, tget_tput_other _ _ _ _ _ h]
@[simp] theorem ctxAt_setCtx (c : Core) (n : Nat) (x : Ctx) : ctxAt (setCtx c n x) n = x := by
  simp [ctxAt, setCtx]
theorem ctxAt_setCtx_ne (c : Core) (n j : Nat) (x : Ctx) (h : j ≠ n) : ctxAt (setCtx c n x) j = ctxAt c j := by
  simp [ctxAt, setCtx, tget_tput_other _ _ _ _ _ h]

/-! ## Units that an update does not touch -/

@[simp] theorem coreAt_setElem (hw : Hw) (e : Nat) (x : Elem) (j : Nat) : coreAt (setElem hw e x) j = coreAt hw j := rfl
@[simp] theorem clAt_setElem (hw : Hw) (e : Nat) (x : Elem) (j : Nat) : clAt (setElem hw e x) j = clAt hw j := rfl
@[simp] theorem dieAt_setElem (hw : Hw) (e : Nat) (x : Elem) (j : Nat) : dieAt (setElem hw e x) j = dieAt hw j := rfl
@[simp] theorem elemAt_setCore (hw : Hw) (c : Nat) (x : Core) (j : Nat) : elemAt (setCore hw c x) j = elemAt hw j := rfl
@[simp] theorem clAt_setCore (hw : Hw) (c : Nat) (x : Core) (j : Nat) : clAt (setCore hw c x) j = clAt hw j := rfl
@[simp] theorem dieAt_setCore (hw : Hw) (c : Nat) (x : Core) (j : Nat) : dieAt (setCore hw c x) j = dieAt hw j := rfl
@[simp] theorem elemAt_modCore (hw : Hw) (c : Nat) (g : Core → Core) (j : Nat) : elemAt (modCore hw c g) j = elemAt hw j := rfl
@[simp] theorem clAt_modCore (hw : Hw) (c : Nat) (g : Core → Core) (j : Nat) : clAt (modCore hw c g) j = clAt hw j := rfl
@[simp] theorem dieAt_modCore (hw : Hw) (c : Nat) (g : Core → Core) (j : Nat) : dieAt (modCore hw c g) j = dieAt hw j := rfl
@[simp] theorem elemAt_setCl (hw : Hw) (k : Nat) (x : Cluster) (j : Nat) : elemAt (setCl hw k x) j = elemAt hw j := rfl
@[simp] theorem coreAt_setCl (hw : Hw) (k : Nat) (x : Cluster) (j : Nat) : coreAt (setCl hw k x) j = coreAt hw j := rfl
@[simp] theorem dieAt_setCl (hw : Hw) (k : Nat) (x : Cluster) (j : Nat) : dieAt (setCl hw k x) j = dieAt hw j := rfl
@[simp] theorem elemAt_modCl (hw : Hw) (k : Nat) (g : Cluster → Cluster) (j : Nat) : elemAt (modCl hw k g) j = elemAt hw j := rfl
@[simp] theorem coreAt_modCl (hw : Hw) (k : Nat) (g : Cluster → Cluster) (j : Nat) : coreAt (modCl hw k g) j = coreAt hw j := rfl
@[simp] theorem dieAt_modCl (hw : Hw) (k : Nat) (g : Cluster → Cluster) (j : Nat) : dieAt (modCl hw k g) j = dieAt hw j := rfl
@[simp] theorem elemAt_setDie (hw : Hw) (d : Nat) (x : Die) (j : Nat) : elemAt (setDie hw d x) j = elemAt hw j := rfl
@[simp] theorem coreAt_setDie (hw : Hw) (d : Nat) (x : Die) (j : Nat) : coreAt (setDie hw d x) j = coreAt hw j := rfl
@[simp] theorem clAt_setDie (hw : Hw) (d : Nat) (x : Die) (j : Nat) : clAt (setDie hw d x) j = clAt hw j := rfl
@[simp] theorem elemAt_modDie (hw : Hw) (d : Nat) (g : Die → Die) (j : Nat) : elemAt (modDie hw d g) j = elemAt hw j := rfl
@[simp] theorem coreAt_modDie (hw : Hw) (d : Nat) (g : Die → Die) (j : Nat) : coreAt (modDie hw d g) j = coreAt hw j := rfl
@[simp] theorem clAt_modDie (hw : Hw) (d : Nat) (g : Die → Die) (j : Nat) : clAt (modDie hw d g) j = clAt hw j := rfl
@[simp] theorem elemAt_modPkg (hw : Hw) (g : Pkg → Pkg) (j : Nat) : elemAt (modPkg hw g) j = elemAt hw j := rfl
@[simp] theorem coreAt_modPkg (hw : Hw) (g : Pkg → Pkg) (j : Nat) : coreAt (modPkg hw g) j = coreAt hw j := rfl
@[simp] theorem clAt_modPkg (hw : Hw) (g : Pkg → Pkg) (j : Nat) : clAt (modPkg hw g) j = clAt hw j := rfl
@[simp] theorem dieAt_modPkg (hw : Hw) (g : Pkg → Pkg) (j : Nat) : dieAt (modPkg hw g) j = dieAt hw j := rfl

/-! ## Fields -/

@[simp] theorem setElem_cores (hw : Hw) (e : Nat) (x : Elem) : (setElem hw e x).cores = hw.cores := rfl
@[simp] theorem setElem_cls (hw : Hw) (e : Nat) (x : Elem) : (setElem hw e x).cls = hw.cls := rfl
@[simp] theorem setElem_dies (hw : Hw) (e : Nat) (x : Elem) : (setElem hw e x).dies = hw.dies := rfl
@[simp] theorem setElem_pkg (hw : Hw) (e : Nat) (x : Elem) : (setElem hw e x).pkg = hw.pkg := rfl
@[simp] theorem setElem_net (hw : Hw) (e : Nat) (x : Elem) : (setElem hw e x).net = hw.net := rfl
@[simp] theorem setElem_acc (hw : Hw) (e : Nat) (x : Elem) : (setElem hw e x).acc = hw.acc := rfl
@[simp] theorem setElem_cntOps (hw : Hw) (e : Nat) (x : Elem) : (setElem hw e x).cntOps = hw.cntOps := rfl
@[simp] theorem setElem_svc (hw : Hw) (e : Nat) (x : Elem) : (setElem hw e x).svc = hw.svc := rfl
@[simp] theorem setElem_replies (hw : Hw) (e : Nat) (x : Elem) : (setElem hw e x).replies = hw.replies := rfl
@[simp] theorem setElem_chan (hw : Hw) (e : Nat) (x : Elem) : (setElem hw e x).chan = hw.chan := rfl
@[simp] theorem setElem_keyMsgs (hw : Hw) (e : Nat) (x : Elem) : (setElem hw e x).keyMsgs = hw.keyMsgs := rfl
@[simp] theorem setElem_recs (hw : Hw) (e : Nat) (x : Elem) : (setElem hw e x).recs = hw.recs := rfl
@[simp] theorem setElem_tasks (hw : Hw) (e : Nat) (x : Elem) : (setElem hw e x).tasks = hw.tasks := rfl
@[simp] theorem setElem_notices (hw : Hw) (e : Nat) (x : Elem) : (setElem hw e x).notices = hw.notices := rfl
@[simp] theorem setElem_invs (hw : Hw) (e : Nat) (x : Elem) : (setElem hw e x).invs = hw.invs := rfl
@[simp] theorem setElem_scratch (hw : Hw) (e : Nat) (x : Elem) : (setElem hw e x).scratch = hw.scratch := rfl
@[simp] theorem setElem_focus (hw : Hw) (e : Nat) (x : Elem) : (setElem hw e x).focus = hw.focus := rfl
@[simp] theorem setElem_waited (hw : Hw) (e : Nat) (x : Elem) : (setElem hw e x).waited = hw.waited := rfl
@[simp] theorem setElem_inputs (hw : Hw) (e : Nat) (x : Elem) : (setElem hw e x).inputs = hw.inputs := rfl
@[simp] theorem setElem_free (hw : Hw) (e : Nat) (x : Elem) : (setElem hw e x).free = hw.free := rfl
@[simp] theorem setElem_now (hw : Hw) (e : Nat) (x : Elem) : (setElem hw e x).now = hw.now := rfl
@[simp] theorem setElem_ids (hw : Hw) (e : Nat) (x : Elem) : (setElem hw e x).ids = hw.ids := rfl
@[simp] theorem setCore_elems (hw : Hw) (c : Nat) (x : Core) : (setCore hw c x).elems = hw.elems := rfl
@[simp] theorem setCore_cls (hw : Hw) (c : Nat) (x : Core) : (setCore hw c x).cls = hw.cls := rfl
@[simp] theorem setCore_dies (hw : Hw) (c : Nat) (x : Core) : (setCore hw c x).dies = hw.dies := rfl
@[simp] theorem setCore_pkg (hw : Hw) (c : Nat) (x : Core) : (setCore hw c x).pkg = hw.pkg := rfl
@[simp] theorem setCore_net (hw : Hw) (c : Nat) (x : Core) : (setCore hw c x).net = hw.net := rfl
@[simp] theorem setCore_acc (hw : Hw) (c : Nat) (x : Core) : (setCore hw c x).acc = hw.acc := rfl
@[simp] theorem setCore_cntOps (hw : Hw) (c : Nat) (x : Core) : (setCore hw c x).cntOps = hw.cntOps := rfl
@[simp] theorem setCore_svc (hw : Hw) (c : Nat) (x : Core) : (setCore hw c x).svc = hw.svc := rfl
@[simp] theorem setCore_replies (hw : Hw) (c : Nat) (x : Core) : (setCore hw c x).replies = hw.replies := rfl
@[simp] theorem setCore_chan (hw : Hw) (c : Nat) (x : Core) : (setCore hw c x).chan = hw.chan := rfl
@[simp] theorem setCore_keyMsgs (hw : Hw) (c : Nat) (x : Core) : (setCore hw c x).keyMsgs = hw.keyMsgs := rfl
@[simp] theorem setCore_recs (hw : Hw) (c : Nat) (x : Core) : (setCore hw c x).recs = hw.recs := rfl
@[simp] theorem setCore_tasks (hw : Hw) (c : Nat) (x : Core) : (setCore hw c x).tasks = hw.tasks := rfl
@[simp] theorem setCore_notices (hw : Hw) (c : Nat) (x : Core) : (setCore hw c x).notices = hw.notices := rfl
@[simp] theorem setCore_invs (hw : Hw) (c : Nat) (x : Core) : (setCore hw c x).invs = hw.invs := rfl
@[simp] theorem setCore_scratch (hw : Hw) (c : Nat) (x : Core) : (setCore hw c x).scratch = hw.scratch := rfl
@[simp] theorem setCore_focus (hw : Hw) (c : Nat) (x : Core) : (setCore hw c x).focus = hw.focus := rfl
@[simp] theorem setCore_waited (hw : Hw) (c : Nat) (x : Core) : (setCore hw c x).waited = hw.waited := rfl
@[simp] theorem setCore_inputs (hw : Hw) (c : Nat) (x : Core) : (setCore hw c x).inputs = hw.inputs := rfl
@[simp] theorem setCore_free (hw : Hw) (c : Nat) (x : Core) : (setCore hw c x).free = hw.free := rfl
@[simp] theorem setCore_now (hw : Hw) (c : Nat) (x : Core) : (setCore hw c x).now = hw.now := rfl
@[simp] theorem setCore_ids (hw : Hw) (c : Nat) (x : Core) : (setCore hw c x).ids = hw.ids := rfl
@[simp] theorem modCore_elems (hw : Hw) (c : Nat) (g : Core → Core) : (modCore hw c g).elems = hw.elems := rfl
@[simp] theorem modCore_cls (hw : Hw) (c : Nat) (g : Core → Core) : (modCore hw c g).cls = hw.cls := rfl
@[simp] theorem modCore_dies (hw : Hw) (c : Nat) (g : Core → Core) : (modCore hw c g).dies = hw.dies := rfl
@[simp] theorem modCore_pkg (hw : Hw) (c : Nat) (g : Core → Core) : (modCore hw c g).pkg = hw.pkg := rfl
@[simp] theorem modCore_net (hw : Hw) (c : Nat) (g : Core → Core) : (modCore hw c g).net = hw.net := rfl
@[simp] theorem modCore_acc (hw : Hw) (c : Nat) (g : Core → Core) : (modCore hw c g).acc = hw.acc := rfl
@[simp] theorem modCore_cntOps (hw : Hw) (c : Nat) (g : Core → Core) : (modCore hw c g).cntOps = hw.cntOps := rfl
@[simp] theorem modCore_svc (hw : Hw) (c : Nat) (g : Core → Core) : (modCore hw c g).svc = hw.svc := rfl
@[simp] theorem modCore_replies (hw : Hw) (c : Nat) (g : Core → Core) : (modCore hw c g).replies = hw.replies := rfl
@[simp] theorem modCore_chan (hw : Hw) (c : Nat) (g : Core → Core) : (modCore hw c g).chan = hw.chan := rfl
@[simp] theorem modCore_keyMsgs (hw : Hw) (c : Nat) (g : Core → Core) : (modCore hw c g).keyMsgs = hw.keyMsgs := rfl
@[simp] theorem modCore_recs (hw : Hw) (c : Nat) (g : Core → Core) : (modCore hw c g).recs = hw.recs := rfl
@[simp] theorem modCore_tasks (hw : Hw) (c : Nat) (g : Core → Core) : (modCore hw c g).tasks = hw.tasks := rfl
@[simp] theorem modCore_notices (hw : Hw) (c : Nat) (g : Core → Core) : (modCore hw c g).notices = hw.notices := rfl
@[simp] theorem modCore_invs (hw : Hw) (c : Nat) (g : Core → Core) : (modCore hw c g).invs = hw.invs := rfl
@[simp] theorem modCore_scratch (hw : Hw) (c : Nat) (g : Core → Core) : (modCore hw c g).scratch = hw.scratch := rfl
@[simp] theorem modCore_focus (hw : Hw) (c : Nat) (g : Core → Core) : (modCore hw c g).focus = hw.focus := rfl
@[simp] theorem modCore_waited (hw : Hw) (c : Nat) (g : Core → Core) : (modCore hw c g).waited = hw.waited := rfl
@[simp] theorem modCore_inputs (hw : Hw) (c : Nat) (g : Core → Core) : (modCore hw c g).inputs = hw.inputs := rfl
@[simp] theorem modCore_free (hw : Hw) (c : Nat) (g : Core → Core) : (modCore hw c g).free = hw.free := rfl
@[simp] theorem modCore_now (hw : Hw) (c : Nat) (g : Core → Core) : (modCore hw c g).now = hw.now := rfl
@[simp] theorem modCore_ids (hw : Hw) (c : Nat) (g : Core → Core) : (modCore hw c g).ids = hw.ids := rfl
@[simp] theorem setCl_elems (hw : Hw) (k : Nat) (x : Cluster) : (setCl hw k x).elems = hw.elems := rfl
@[simp] theorem setCl_cores (hw : Hw) (k : Nat) (x : Cluster) : (setCl hw k x).cores = hw.cores := rfl
@[simp] theorem setCl_dies (hw : Hw) (k : Nat) (x : Cluster) : (setCl hw k x).dies = hw.dies := rfl
@[simp] theorem setCl_pkg (hw : Hw) (k : Nat) (x : Cluster) : (setCl hw k x).pkg = hw.pkg := rfl
@[simp] theorem setCl_net (hw : Hw) (k : Nat) (x : Cluster) : (setCl hw k x).net = hw.net := rfl
@[simp] theorem setCl_acc (hw : Hw) (k : Nat) (x : Cluster) : (setCl hw k x).acc = hw.acc := rfl
@[simp] theorem setCl_cntOps (hw : Hw) (k : Nat) (x : Cluster) : (setCl hw k x).cntOps = hw.cntOps := rfl
@[simp] theorem setCl_svc (hw : Hw) (k : Nat) (x : Cluster) : (setCl hw k x).svc = hw.svc := rfl
@[simp] theorem setCl_replies (hw : Hw) (k : Nat) (x : Cluster) : (setCl hw k x).replies = hw.replies := rfl
@[simp] theorem setCl_chan (hw : Hw) (k : Nat) (x : Cluster) : (setCl hw k x).chan = hw.chan := rfl
@[simp] theorem setCl_keyMsgs (hw : Hw) (k : Nat) (x : Cluster) : (setCl hw k x).keyMsgs = hw.keyMsgs := rfl
@[simp] theorem setCl_recs (hw : Hw) (k : Nat) (x : Cluster) : (setCl hw k x).recs = hw.recs := rfl
@[simp] theorem setCl_tasks (hw : Hw) (k : Nat) (x : Cluster) : (setCl hw k x).tasks = hw.tasks := rfl
@[simp] theorem setCl_notices (hw : Hw) (k : Nat) (x : Cluster) : (setCl hw k x).notices = hw.notices := rfl
@[simp] theorem setCl_invs (hw : Hw) (k : Nat) (x : Cluster) : (setCl hw k x).invs = hw.invs := rfl
@[simp] theorem setCl_scratch (hw : Hw) (k : Nat) (x : Cluster) : (setCl hw k x).scratch = hw.scratch := rfl
@[simp] theorem setCl_focus (hw : Hw) (k : Nat) (x : Cluster) : (setCl hw k x).focus = hw.focus := rfl
@[simp] theorem setCl_waited (hw : Hw) (k : Nat) (x : Cluster) : (setCl hw k x).waited = hw.waited := rfl
@[simp] theorem setCl_inputs (hw : Hw) (k : Nat) (x : Cluster) : (setCl hw k x).inputs = hw.inputs := rfl
@[simp] theorem setCl_free (hw : Hw) (k : Nat) (x : Cluster) : (setCl hw k x).free = hw.free := rfl
@[simp] theorem setCl_now (hw : Hw) (k : Nat) (x : Cluster) : (setCl hw k x).now = hw.now := rfl
@[simp] theorem setCl_ids (hw : Hw) (k : Nat) (x : Cluster) : (setCl hw k x).ids = hw.ids := rfl
@[simp] theorem modCl_elems (hw : Hw) (k : Nat) (g : Cluster → Cluster) : (modCl hw k g).elems = hw.elems := rfl
@[simp] theorem modCl_cores (hw : Hw) (k : Nat) (g : Cluster → Cluster) : (modCl hw k g).cores = hw.cores := rfl
@[simp] theorem modCl_dies (hw : Hw) (k : Nat) (g : Cluster → Cluster) : (modCl hw k g).dies = hw.dies := rfl
@[simp] theorem modCl_pkg (hw : Hw) (k : Nat) (g : Cluster → Cluster) : (modCl hw k g).pkg = hw.pkg := rfl
@[simp] theorem modCl_net (hw : Hw) (k : Nat) (g : Cluster → Cluster) : (modCl hw k g).net = hw.net := rfl
@[simp] theorem modCl_acc (hw : Hw) (k : Nat) (g : Cluster → Cluster) : (modCl hw k g).acc = hw.acc := rfl
@[simp] theorem modCl_cntOps (hw : Hw) (k : Nat) (g : Cluster → Cluster) : (modCl hw k g).cntOps = hw.cntOps := rfl
@[simp] theorem modCl_svc (hw : Hw) (k : Nat) (g : Cluster → Cluster) : (modCl hw k g).svc = hw.svc := rfl
@[simp] theorem modCl_replies (hw : Hw) (k : Nat) (g : Cluster → Cluster) : (modCl hw k g).replies = hw.replies := rfl
@[simp] theorem modCl_chan (hw : Hw) (k : Nat) (g : Cluster → Cluster) : (modCl hw k g).chan = hw.chan := rfl
@[simp] theorem modCl_keyMsgs (hw : Hw) (k : Nat) (g : Cluster → Cluster) : (modCl hw k g).keyMsgs = hw.keyMsgs := rfl
@[simp] theorem modCl_recs (hw : Hw) (k : Nat) (g : Cluster → Cluster) : (modCl hw k g).recs = hw.recs := rfl
@[simp] theorem modCl_tasks (hw : Hw) (k : Nat) (g : Cluster → Cluster) : (modCl hw k g).tasks = hw.tasks := rfl
@[simp] theorem modCl_notices (hw : Hw) (k : Nat) (g : Cluster → Cluster) : (modCl hw k g).notices = hw.notices := rfl
@[simp] theorem modCl_invs (hw : Hw) (k : Nat) (g : Cluster → Cluster) : (modCl hw k g).invs = hw.invs := rfl
@[simp] theorem modCl_scratch (hw : Hw) (k : Nat) (g : Cluster → Cluster) : (modCl hw k g).scratch = hw.scratch := rfl
@[simp] theorem modCl_focus (hw : Hw) (k : Nat) (g : Cluster → Cluster) : (modCl hw k g).focus = hw.focus := rfl
@[simp] theorem modCl_waited (hw : Hw) (k : Nat) (g : Cluster → Cluster) : (modCl hw k g).waited = hw.waited := rfl
@[simp] theorem modCl_inputs (hw : Hw) (k : Nat) (g : Cluster → Cluster) : (modCl hw k g).inputs = hw.inputs := rfl
@[simp] theorem modCl_free (hw : Hw) (k : Nat) (g : Cluster → Cluster) : (modCl hw k g).free = hw.free := rfl
@[simp] theorem modCl_now (hw : Hw) (k : Nat) (g : Cluster → Cluster) : (modCl hw k g).now = hw.now := rfl
@[simp] theorem modCl_ids (hw : Hw) (k : Nat) (g : Cluster → Cluster) : (modCl hw k g).ids = hw.ids := rfl
@[simp] theorem setDie_elems (hw : Hw) (d : Nat) (x : Die) : (setDie hw d x).elems = hw.elems := rfl
@[simp] theorem setDie_cores (hw : Hw) (d : Nat) (x : Die) : (setDie hw d x).cores = hw.cores := rfl
@[simp] theorem setDie_cls (hw : Hw) (d : Nat) (x : Die) : (setDie hw d x).cls = hw.cls := rfl
@[simp] theorem setDie_pkg (hw : Hw) (d : Nat) (x : Die) : (setDie hw d x).pkg = hw.pkg := rfl
@[simp] theorem setDie_net (hw : Hw) (d : Nat) (x : Die) : (setDie hw d x).net = hw.net := rfl
@[simp] theorem setDie_acc (hw : Hw) (d : Nat) (x : Die) : (setDie hw d x).acc = hw.acc := rfl
@[simp] theorem setDie_cntOps (hw : Hw) (d : Nat) (x : Die) : (setDie hw d x).cntOps = hw.cntOps := rfl
@[simp] theorem setDie_svc (hw : Hw) (d : Nat) (x : Die) : (setDie hw d x).svc = hw.svc := rfl
@[simp] theorem setDie_replies (hw : Hw) (d : Nat) (x : Die) : (setDie hw d x).replies = hw.replies := rfl
@[simp] theorem setDie_chan (hw : Hw) (d : Nat) (x : Die) : (setDie hw d x).chan = hw.chan := rfl
@[simp] theorem setDie_keyMsgs (hw : Hw) (d : Nat) (x : Die) : (setDie hw d x).keyMsgs = hw.keyMsgs := rfl
@[simp] theorem setDie_recs (hw : Hw) (d : Nat) (x : Die) : (setDie hw d x).recs = hw.recs := rfl
@[simp] theorem setDie_tasks (hw : Hw) (d : Nat) (x : Die) : (setDie hw d x).tasks = hw.tasks := rfl
@[simp] theorem setDie_notices (hw : Hw) (d : Nat) (x : Die) : (setDie hw d x).notices = hw.notices := rfl
@[simp] theorem setDie_invs (hw : Hw) (d : Nat) (x : Die) : (setDie hw d x).invs = hw.invs := rfl
@[simp] theorem setDie_scratch (hw : Hw) (d : Nat) (x : Die) : (setDie hw d x).scratch = hw.scratch := rfl
@[simp] theorem setDie_focus (hw : Hw) (d : Nat) (x : Die) : (setDie hw d x).focus = hw.focus := rfl
@[simp] theorem setDie_waited (hw : Hw) (d : Nat) (x : Die) : (setDie hw d x).waited = hw.waited := rfl
@[simp] theorem setDie_inputs (hw : Hw) (d : Nat) (x : Die) : (setDie hw d x).inputs = hw.inputs := rfl
@[simp] theorem setDie_free (hw : Hw) (d : Nat) (x : Die) : (setDie hw d x).free = hw.free := rfl
@[simp] theorem setDie_now (hw : Hw) (d : Nat) (x : Die) : (setDie hw d x).now = hw.now := rfl
@[simp] theorem setDie_ids (hw : Hw) (d : Nat) (x : Die) : (setDie hw d x).ids = hw.ids := rfl
@[simp] theorem modDie_elems (hw : Hw) (d : Nat) (g : Die → Die) : (modDie hw d g).elems = hw.elems := rfl
@[simp] theorem modDie_cores (hw : Hw) (d : Nat) (g : Die → Die) : (modDie hw d g).cores = hw.cores := rfl
@[simp] theorem modDie_cls (hw : Hw) (d : Nat) (g : Die → Die) : (modDie hw d g).cls = hw.cls := rfl
@[simp] theorem modDie_pkg (hw : Hw) (d : Nat) (g : Die → Die) : (modDie hw d g).pkg = hw.pkg := rfl
@[simp] theorem modDie_net (hw : Hw) (d : Nat) (g : Die → Die) : (modDie hw d g).net = hw.net := rfl
@[simp] theorem modDie_acc (hw : Hw) (d : Nat) (g : Die → Die) : (modDie hw d g).acc = hw.acc := rfl
@[simp] theorem modDie_cntOps (hw : Hw) (d : Nat) (g : Die → Die) : (modDie hw d g).cntOps = hw.cntOps := rfl
@[simp] theorem modDie_svc (hw : Hw) (d : Nat) (g : Die → Die) : (modDie hw d g).svc = hw.svc := rfl
@[simp] theorem modDie_replies (hw : Hw) (d : Nat) (g : Die → Die) : (modDie hw d g).replies = hw.replies := rfl
@[simp] theorem modDie_chan (hw : Hw) (d : Nat) (g : Die → Die) : (modDie hw d g).chan = hw.chan := rfl
@[simp] theorem modDie_keyMsgs (hw : Hw) (d : Nat) (g : Die → Die) : (modDie hw d g).keyMsgs = hw.keyMsgs := rfl
@[simp] theorem modDie_recs (hw : Hw) (d : Nat) (g : Die → Die) : (modDie hw d g).recs = hw.recs := rfl
@[simp] theorem modDie_tasks (hw : Hw) (d : Nat) (g : Die → Die) : (modDie hw d g).tasks = hw.tasks := rfl
@[simp] theorem modDie_notices (hw : Hw) (d : Nat) (g : Die → Die) : (modDie hw d g).notices = hw.notices := rfl
@[simp] theorem modDie_invs (hw : Hw) (d : Nat) (g : Die → Die) : (modDie hw d g).invs = hw.invs := rfl
@[simp] theorem modDie_scratch (hw : Hw) (d : Nat) (g : Die → Die) : (modDie hw d g).scratch = hw.scratch := rfl
@[simp] theorem modDie_focus (hw : Hw) (d : Nat) (g : Die → Die) : (modDie hw d g).focus = hw.focus := rfl
@[simp] theorem modDie_waited (hw : Hw) (d : Nat) (g : Die → Die) : (modDie hw d g).waited = hw.waited := rfl
@[simp] theorem modDie_inputs (hw : Hw) (d : Nat) (g : Die → Die) : (modDie hw d g).inputs = hw.inputs := rfl
@[simp] theorem modDie_free (hw : Hw) (d : Nat) (g : Die → Die) : (modDie hw d g).free = hw.free := rfl
@[simp] theorem modDie_now (hw : Hw) (d : Nat) (g : Die → Die) : (modDie hw d g).now = hw.now := rfl
@[simp] theorem modDie_ids (hw : Hw) (d : Nat) (g : Die → Die) : (modDie hw d g).ids = hw.ids := rfl
@[simp] theorem modPkg_elems (hw : Hw) (g : Pkg → Pkg) : (modPkg hw g).elems = hw.elems := rfl
@[simp] theorem modPkg_cores (hw : Hw) (g : Pkg → Pkg) : (modPkg hw g).cores = hw.cores := rfl
@[simp] theorem modPkg_cls (hw : Hw) (g : Pkg → Pkg) : (modPkg hw g).cls = hw.cls := rfl
@[simp] theorem modPkg_dies (hw : Hw) (g : Pkg → Pkg) : (modPkg hw g).dies = hw.dies := rfl
@[simp] theorem modPkg_net (hw : Hw) (g : Pkg → Pkg) : (modPkg hw g).net = hw.net := rfl
@[simp] theorem modPkg_acc (hw : Hw) (g : Pkg → Pkg) : (modPkg hw g).acc = hw.acc := rfl
@[simp] theorem modPkg_cntOps (hw : Hw) (g : Pkg → Pkg) : (modPkg hw g).cntOps = hw.cntOps := rfl
@[simp] theorem modPkg_svc (hw : Hw) (g : Pkg → Pkg) : (modPkg hw g).svc = hw.svc := rfl
@[simp] theorem modPkg_replies (hw : Hw) (g : Pkg → Pkg) : (modPkg hw g).replies = hw.replies := rfl
@[simp] theorem modPkg_chan (hw : Hw) (g : Pkg → Pkg) : (modPkg hw g).chan = hw.chan := rfl
@[simp] theorem modPkg_keyMsgs (hw : Hw) (g : Pkg → Pkg) : (modPkg hw g).keyMsgs = hw.keyMsgs := rfl
@[simp] theorem modPkg_recs (hw : Hw) (g : Pkg → Pkg) : (modPkg hw g).recs = hw.recs := rfl
@[simp] theorem modPkg_tasks (hw : Hw) (g : Pkg → Pkg) : (modPkg hw g).tasks = hw.tasks := rfl
@[simp] theorem modPkg_notices (hw : Hw) (g : Pkg → Pkg) : (modPkg hw g).notices = hw.notices := rfl
@[simp] theorem modPkg_invs (hw : Hw) (g : Pkg → Pkg) : (modPkg hw g).invs = hw.invs := rfl
@[simp] theorem modPkg_scratch (hw : Hw) (g : Pkg → Pkg) : (modPkg hw g).scratch = hw.scratch := rfl
@[simp] theorem modPkg_focus (hw : Hw) (g : Pkg → Pkg) : (modPkg hw g).focus = hw.focus := rfl
@[simp] theorem modPkg_waited (hw : Hw) (g : Pkg → Pkg) : (modPkg hw g).waited = hw.waited := rfl
@[simp] theorem modPkg_inputs (hw : Hw) (g : Pkg → Pkg) : (modPkg hw g).inputs = hw.inputs := rfl
@[simp] theorem modPkg_free (hw : Hw) (g : Pkg → Pkg) : (modPkg hw g).free = hw.free := rfl
@[simp] theorem modPkg_now (hw : Hw) (g : Pkg → Pkg) : (modPkg hw g).now = hw.now := rfl
@[simp] theorem modPkg_ids (hw : Hw) (g : Pkg → Pkg) : (modPkg hw g).ids = hw.ids := rfl
@[simp] theorem modPkg_pkg (hw : Hw) (g : Pkg → Pkg) : (modPkg hw g).pkg = g hw.pkg := rfl
@[simp] theorem setCtx_frames (c : Core) (n : Nat) (x : Ctx) : (setCtx c n x).frames = c.frames := rfl
@[simp] theorem setFrame_acts (c : Core) (f : Nat) (x : Frame) : (setFrame c f x).acts = c.acts := rfl
@[simp] theorem setCtx_acts (c : Core) (n : Nat) (x : Ctx) : (setCtx c n x).acts = c.acts := rfl
@[simp] theorem setFrame_arrived (c : Core) (f : Nat) (x : Frame) : (setFrame c f x).arrived = c.arrived := rfl
@[simp] theorem setCtx_arrived (c : Core) (n : Nat) (x : Ctx) : (setCtx c n x).arrived = c.arrived := rfl
@[simp] theorem setFrame_firedN (c : Core) (f : Nat) (x : Frame) : (setFrame c f x).firedN = c.firedN := rfl
@[simp] theorem setCtx_firedN (c : Core) (n : Nat) (x : Ctx) : (setCtx c n x).firedN = c.firedN := rfl
@[simp] theorem setFrame_opened (c : Core) (f : Nat) (x : Frame) : (setFrame c f x).opened = c.opened := rfl
@[simp] theorem setCtx_opened (c : Core) (n : Nat) (x : Ctx) : (setCtx c n x).opened = c.opened := rfl
@[simp] theorem setFrame_committed (c : Core) (f : Nat) (x : Frame) : (setFrame c f x).committed = c.committed := rfl
@[simp] theorem setCtx_committed (c : Core) (n : Nat) (x : Ctx) : (setCtx c n x).committed = c.committed := rfl
@[simp] theorem setFrame_nextSeq (c : Core) (f : Nat) (x : Frame) : (setFrame c f x).nextSeq = c.nextSeq := rfl
@[simp] theorem setCtx_nextSeq (c : Core) (n : Nat) (x : Ctx) : (setCtx c n x).nextSeq = c.nextSeq := rfl
@[simp] theorem setFrame_ctxs (c : Core) (f : Nat) (x : Frame) : (setFrame c f x).ctxs = c.ctxs := rfl
@[simp] theorem setFrame_stores (c : Core) (f : Nat) (x : Frame) : (setFrame c f x).stores = c.stores := rfl
@[simp] theorem setCtx_stores (c : Core) (n : Nat) (x : Ctx) : (setCtx c n x).stores = c.stores := rfl
@[simp] theorem setFrame_releaseQ (c : Core) (f : Nat) (x : Frame) : (setFrame c f x).releaseQ = c.releaseQ := rfl
@[simp] theorem setCtx_releaseQ (c : Core) (n : Nat) (x : Ctx) : (setCtx c n x).releaseQ = c.releaseQ := rfl
@[simp] theorem setFrame_relHeld (c : Core) (f : Nat) (x : Frame) : (setFrame c f x).relHeld = c.relHeld := rfl
@[simp] theorem setCtx_relHeld (c : Core) (n : Nat) (x : Ctx) : (setCtx c n x).relHeld = c.relHeld := rfl
@[simp] theorem setFrame_relRec (c : Core) (f : Nat) (x : Frame) : (setFrame c f x).relRec = c.relRec := rfl
@[simp] theorem setCtx_relRec (c : Core) (n : Nat) (x : Ctx) : (setCtx c n x).relRec = c.relRec := rfl
@[simp] theorem setFrame_lsq (c : Core) (f : Nat) (x : Frame) : (setFrame c f x).lsq = c.lsq := rfl
@[simp] theorem setCtx_lsq (c : Core) (n : Nat) (x : Ctx) : (setCtx c n x).lsq = c.lsq := rfl
@[simp] theorem setFrame_lsDone (c : Core) (f : Nat) (x : Frame) : (setFrame c f x).lsDone = c.lsDone := rfl
@[simp] theorem setCtx_lsDone (c : Core) (n : Nat) (x : Ctx) : (setCtx c n x).lsDone = c.lsDone := rfl
@[simp] theorem setFrame_cycleAt0 (c : Core) (f : Nat) (x : Frame) : (setFrame c f x).cycleAt0 = c.cycleAt0 := rfl
@[simp] theorem setCtx_cycleAt0 (c : Core) (n : Nat) (x : Ctx) : (setCtx c n x).cycleAt0 = c.cycleAt0 := rfl
@[simp] theorem setFrame_gens (c : Core) (f : Nat) (x : Frame) : (setFrame c f x).gens = c.gens := rfl
@[simp] theorem setCtx_gens (c : Core) (n : Nat) (x : Ctx) : (setCtx c n x).gens = c.gens := rfl
@[simp] theorem setFrame_spread (c : Core) (f : Nat) (x : Frame) : (setFrame c f x).spread = c.spread := rfl
@[simp] theorem setCtx_spread (c : Core) (n : Nat) (x : Ctx) : (setCtx c n x).spread = c.spread := rfl
@[simp] theorem setFrame_rport (c : Core) (f : Nat) (x : Frame) : (setFrame c f x).rport = c.rport := rfl
@[simp] theorem setCtx_rport (c : Core) (n : Nat) (x : Ctx) : (setCtx c n x).rport = c.rport := rfl
@[simp] theorem setFrame_rowbuf (c : Core) (f : Nat) (x : Frame) : (setFrame c f x).rowbuf = c.rowbuf := rfl
@[simp] theorem setCtx_rowbuf (c : Core) (n : Nat) (x : Ctx) : (setCtx c n x).rowbuf = c.rowbuf := rfl
@[simp] theorem setFrame_rowPsn (c : Core) (f : Nat) (x : Frame) : (setFrame c f x).rowPsn = c.rowPsn := rfl
@[simp] theorem setCtx_rowPsn (c : Core) (n : Nat) (x : Ctx) : (setCtx c n x).rowPsn = c.rowPsn := rfl
@[simp] theorem setFrame_eps (c : Core) (f : Nat) (x : Frame) : (setFrame c f x).eps = c.eps := rfl
@[simp] theorem setCtx_eps (c : Core) (n : Nat) (x : Ctx) : (setCtx c n x).eps = c.eps := rfl
@[simp] theorem setFrame_macros (c : Core) (f : Nat) (x : Frame) : (setFrame c f x).macros = c.macros := rfl
@[simp] theorem setCtx_macros (c : Core) (n : Nat) (x : Ctx) : (setCtx c n x).macros = c.macros := rfl
@[simp] theorem setFrame_nodes (c : Core) (f : Nat) (x : Frame) : (setFrame c f x).nodes = c.nodes := rfl
@[simp] theorem setCtx_nodes (c : Core) (n : Nat) (x : Ctx) : (setCtx c n x).nodes = c.nodes := rfl
@[simp] theorem setFrame_groups (c : Core) (f : Nat) (x : Frame) : (setFrame c f x).groups = c.groups := rfl
@[simp] theorem setCtx_groups (c : Core) (n : Nat) (x : Ctx) : (setCtx c n x).groups = c.groups := rfl
@[simp] theorem setFrame_ncmds (c : Core) (f : Nat) (x : Frame) : (setFrame c f x).ncmds = c.ncmds := rfl
@[simp] theorem setCtx_ncmds (c : Core) (n : Nat) (x : Ctx) : (setCtx c n x).ncmds = c.ncmds := rfl
@[simp] theorem setFrame_mstamp (c : Core) (f : Nat) (x : Frame) : (setFrame c f x).mstamp = c.mstamp := rfl
@[simp] theorem setCtx_mstamp (c : Core) (n : Nat) (x : Ctx) : (setCtx c n x).mstamp = c.mstamp := rfl
@[simp] theorem setFrame_matRec (c : Core) (f : Nat) (x : Frame) : (setFrame c f x).matRec = c.matRec := rfl
@[simp] theorem setCtx_matRec (c : Core) (n : Nat) (x : Ctx) : (setCtx c n x).matRec = c.matRec := rfl
@[simp] theorem setFrame_tlb (c : Core) (f : Nat) (x : Frame) : (setFrame c f x).tlb = c.tlb := rfl
@[simp] theorem setCtx_tlb (c : Core) (n : Nat) (x : Ctx) : (setCtx c n x).tlb = c.tlb := rfl
@[simp] theorem setFrame_log (c : Core) (f : Nat) (x : Frame) : (setFrame c f x).log = c.log := rfl
@[simp] theorem setCtx_log (c : Core) (n : Nat) (x : Ctx) : (setCtx c n x).log = c.log := rfl
@[simp] theorem setFrame_logLost (c : Core) (f : Nat) (x : Frame) : (setFrame c f x).logLost = c.logLost := rfl
@[simp] theorem setCtx_logLost (c : Core) (n : Nat) (x : Ctx) : (setCtx c n x).logLost = c.logLost := rfl
@[simp] theorem setFrame_gated (c : Core) (f : Nat) (x : Frame) : (setFrame c f x).gated = c.gated := rfl
@[simp] theorem setCtx_gated (c : Core) (n : Nat) (x : Ctx) : (setCtx c n x).gated = c.gated := rfl
@[simp] theorem setFrame_moved (c : Core) (f : Nat) (x : Frame) : (setFrame c f x).moved = c.moved := rfl
@[simp] theorem setCtx_moved (c : Core) (n : Nat) (x : Ctx) : (setCtx c n x).moved = c.moved := rfl

/-! ## Links, and the fabric's sending side (16 R408, R410, R411) -/

@[simp] theorem linkAt_setLink (hw : Hw) (l : Nat) (x : Link) : linkAt (setLink hw l x) l = x := by
  simp [linkAt, setLink]
theorem linkAt_setLink_ne (hw : Hw) (l j : Nat) (x : Link) (h : j ≠ l) : linkAt (setLink hw l x) j = linkAt hw j := by
  by_cases hd : j / 4 = l / 4
  · have hm : j % 4 ≠ l % 4 := by omega
    simp [linkAt, setLink, hd, tget_tput_other _ _ _ _ _ hm]
  · simp [linkAt, setLink, dieAt_modDie_ne _ _ _ _ hd]
@[simp] theorem setLink_ens (hw : Hw) (l : Nat) (x : Link) (d : Nat) : (dieAt (setLink hw l x) d).ens = (dieAt hw d).ens := by
  by_cases h : d = l / 4
  · subst h; simp [setLink]
  · simp [setLink, dieAt_modDie_ne _ _ _ _ h]
@[simp] theorem setLink_elems (hw : Hw) (l : Nat) (x : Link) : (setLink hw l x).elems = hw.elems := rfl
@[simp] theorem setLink_cores (hw : Hw) (l : Nat) (x : Link) : (setLink hw l x).cores = hw.cores := rfl
@[simp] theorem setLink_cls (hw : Hw) (l : Nat) (x : Link) : (setLink hw l x).cls = hw.cls := rfl
@[simp] theorem setLink_pkg (hw : Hw) (l : Nat) (x : Link) : (setLink hw l x).pkg = hw.pkg := rfl
@[simp] theorem setLink_net (hw : Hw) (l : Nat) (x : Link) : (setLink hw l x).net = hw.net := rfl
@[simp] theorem setLink_acc (hw : Hw) (l : Nat) (x : Link) : (setLink hw l x).acc = hw.acc := rfl
@[simp] theorem setLink_cntOps (hw : Hw) (l : Nat) (x : Link) : (setLink hw l x).cntOps = hw.cntOps := rfl
@[simp] theorem setLink_svc (hw : Hw) (l : Nat) (x : Link) : (setLink hw l x).svc = hw.svc := rfl
@[simp] theorem setLink_replies (hw : Hw) (l : Nat) (x : Link) : (setLink hw l x).replies = hw.replies := rfl
@[simp] theorem setLink_chan (hw : Hw) (l : Nat) (x : Link) : (setLink hw l x).chan = hw.chan := rfl
@[simp] theorem setLink_keyMsgs (hw : Hw) (l : Nat) (x : Link) : (setLink hw l x).keyMsgs = hw.keyMsgs := rfl
@[simp] theorem setLink_recs (hw : Hw) (l : Nat) (x : Link) : (setLink hw l x).recs = hw.recs := rfl
@[simp] theorem setLink_tasks (hw : Hw) (l : Nat) (x : Link) : (setLink hw l x).tasks = hw.tasks := rfl
@[simp] theorem setLink_notices (hw : Hw) (l : Nat) (x : Link) : (setLink hw l x).notices = hw.notices := rfl
@[simp] theorem setLink_invs (hw : Hw) (l : Nat) (x : Link) : (setLink hw l x).invs = hw.invs := rfl
@[simp] theorem setLink_scratch (hw : Hw) (l : Nat) (x : Link) : (setLink hw l x).scratch = hw.scratch := rfl
@[simp] theorem setLink_focus (hw : Hw) (l : Nat) (x : Link) : (setLink hw l x).focus = hw.focus := rfl
@[simp] theorem setLink_waited (hw : Hw) (l : Nat) (x : Link) : (setLink hw l x).waited = hw.waited := rfl
@[simp] theorem setLink_inputs (hw : Hw) (l : Nat) (x : Link) : (setLink hw l x).inputs = hw.inputs := rfl
@[simp] theorem setLink_free (hw : Hw) (l : Nat) (x : Link) : (setLink hw l x).free = hw.free := rfl
@[simp] theorem setLink_now (hw : Hw) (l : Nat) (x : Link) : (setLink hw l x).now = hw.now := rfl
@[simp] theorem setLink_ids (hw : Hw) (l : Nat) (x : Link) : (setLink hw l x).ids = hw.ids := rfl

/-- A flit that leaves stands last among those its link keeps; nothing but that link changes. -/
theorem flitOut_next (hw h : Hw) (l lc : Nat) (items : List FabItem) (e : flitOut hw l lc items = some h) :
    (linkAt hw l).state = 2 ∧ (linkAt hw l).kept.length < 512 ∧ ∃ x, h = setLink hw l x ∧
      x.kept = (linkAt hw l).kept ++ [{ seq := (linkAt hw l).seqOut, items := items, acks := acksFor hw lc }] ∧
      x.seqOut = (linkAt hw l).seqOut + 1 := by
  simp only [flitOut] at e
  split at e
  · cases e
  · next c =>
    simp only [Bool.or_eq_true, decide_eq_true_eq, not_or, Decidable.not_not, Nat.not_le] at c
    exact ⟨c.1, c.2, _, (Option.some.inj e).symm, rfl, rfl⟩

/-- What an item that is sent changes: links and the package's own part, no element, core or cluster, and nothing on its way. -/
theorem fabSend_frame (hw : Hw) (d lc cls : Nat) (body : FabBody) :
    let h := fabSend hw d lc cls body
    h.elems = hw.elems ∧ h.cores = hw.cores ∧ h.cls = hw.cls ∧ h.net = hw.net ∧ h.acc = hw.acc ∧ h.svc = hw.svc ∧ h.tasks = hw.tasks := by
  simp only [fabSend]
  split
  · simp
  · simp only [entryOut]
    split
    · next e =>
      obtain ⟨_, _, x, rfl, _⟩ := flitOut_next _ _ _ _ _ e
      simp
    · simp

end Sys2Proof.Machine
end

