-- ==== Sys2Proof/Laws/Emit.lean ====
section
/-! SUPPORT. What an emission can do, said once: it adds tokens to those on their way and changes no more of its core than
what an activation has staged and whether it is exposed. -/
namespace Sys2Proof.Machine

/-! ## What an emission changes -/

/-- An activation without what it has staged. -/
def Act.bare (a : Act) : Act := { a with writes := [], exposed := false }

/-- `hw'` differs from `hw` in tokens added behind and in what activations of core `c` have staged, and in nothing else. -/
structure Emits (c : Nat) (hw hw' : Hw) : Prop where
  net    : ∃ l, hw'.net = hw.net ++ l
  others : ∀ d, d ≠ c → coreAt hw' d = coreAt hw d
  own    : ∃ acts, coreAt hw' c = { coreAt hw c with acts := acts } ∧ acts.map Act.bare = (coreAt hw c).acts.map Act.bare
  rest   : { hw' with cores := [], net := [] } = { hw with cores := [], net := [] }

theorem Emits.refl (c : Nat) (hw : Hw) : Emits c hw hw :=
  ⟨⟨[], by simp⟩, fun _ _ => rfl, ⟨_, rfl, rfl⟩, rfl⟩

theorem Emits.trans {c : Nat} {x y z : Hw} (h : Emits c x y) (g : Emits c y z) : Emits c x z := by
  obtain ⟨l, hl⟩ := h.net
  obtain ⟨m, hm⟩ := g.net
  obtain ⟨a, ha, ea⟩ := h.own
  obtain ⟨b, hb, eb⟩ := g.own
  refine ⟨⟨l ++ m, by rw [hm, hl, List.append_assoc]⟩, fun d hd => (g.others d hd).trans (h.others d hd), ⟨b, ?_, ?_⟩, g.rest.trans h.rest⟩
  · rw [hb, ha]
  · rw [eb, ha]; exact ea

theorem mapFirst_map_bare (p : Act → Bool) (g : Act → Act) (l : List Act) (h : ∀ a, (g a).bare = a.bare) :
    (mapFirst p g l).map Act.bare = l.map Act.bare := by
  induction l with
  | nil => rfl
  | cons a r ih => unfold mapFirst; split <;> simp [h, ih]

/-- Changing what an activation of the core has staged. -/
theorem emits_modAct (hw : Hw) (c q : Nat) (g : Act → Act) (h : ∀ a, (g a).bare = a.bare) :
    Emits c hw (setCore hw c (modAct (coreAt hw c) q g)) := by
  refine ⟨⟨[], by simp [setCore]⟩, fun d hd => coreAt_setCore_ne _ _ _ _ hd, ⟨_, by rw [coreAt_setCore]; rfl, ?_⟩, rfl⟩
  exact mapFirst_map_bare _ _ _ h

theorem emits_expose (hw : Hw) (c : Nat) (q : Option Nat) : Emits c hw (expose hw c q) := by
  cases q with
  | none => exact Emits.refl c hw
  | some q => exact emits_modAct hw c q _ fun _ => rfl

theorem emits_send (c : Nat) (hw : Hw) (src : Src) (side : Option ActRef) (gen : BitVec 6) (t : Token) (iss : Nat) :
    Emits c hw (send hw src side gen t iss) :=
  ⟨⟨_, rfl⟩, fun _ _ => rfl, ⟨_, rfl, rfl⟩, rfl⟩

theorem emits_sendCont {hw hw' : Hw} {x : Site} {src : Src} {cont : BitVec 30} {t : Token} (h : sendCont hw x src cont t = .ok hw') :
    Emits (coreOf x.elem) hw hw' := by
  unfold sendCont at h
  dsimp only at h
  split at h
  · split at h
    · cases h
    · split at h
      · cases h
      · cases h; exact emits_send _ _ _ _ _ _ _
  · cases h
    refine Emits.trans ?_ (emits_send _ _ _ _ _ _ _)
    split
    · exact emits_expose _ _ _
    · exact Emits.refl _ _

theorem emits_stageWrite {hw hw' : Hw} {x : Site} {j : Nat} {v : Option (Word × Bool)} (h : stageWrite hw x j v = .ok hw') :
    Emits (coreOf x.elem) hw hw' := by
  unfold stageWrite at h
  dsimp only at h
  split at h
  · cases h
  · split at h
    · cases h
    · split at h
      · cases h
      · split at h
        · cases h
        · cases h
          exact emits_modAct _ _ _ _ fun _ => rfl

theorem emits_holdTarget {hw hw' : Hw} {x : Site} {j : Nat} {t : Token} (h : holdTarget hw x j t = .ok hw') :
    Emits (coreOf x.elem) hw hw' := by
  unfold holdTarget at h
  split at h
  · exact emits_stageWrite h
  · exact emits_stageWrite h
  · exact emits_stageWrite h
  · cases h

theorem emits_emitRoute {hw hw' : Hw} {x : Site} {src : Src} {i : Nat} {t : Token} {b : Bool} (h : emitRoute hw x src i t b = .ok hw') :
    Emits (coreOf x.elem) hw hw' := by
  unfold emitRoute at h
  dsimp only at h
  split at h
  · cases h
  · split at h
    · cases h
    · exact emits_sendCont h

theorem emits_emitTo {hw hw' : Hw} {x : Site} {src : Src} {g : BitVec 22} {t : Token} {b : Bool} (h : emitTo hw x src g t b = .ok hw') :
    Emits (coreOf x.elem) hw hw' := by
  unfold emitTo at h
  split at h
  · cases h; exact Emits.refl _ _
  · dsimp only at h
    split at h
    · cases h
    · exact emits_sendCont h
  · exact emits_holdTarget h
  · exact emits_emitRoute h

theorem emits_emitList {x : Site} {src : Src} {g : BitVec 22} {ts : List Token} {hw hw' : Hw} (h : emitList hw x src g ts = .ok hw') :
    Emits (coreOf x.elem) hw hw' := by
  induction ts generalizing hw with
  | nil => cases h; exact Emits.refl _ _
  | cons t r ih =>
    unfold emitList at h
    split at h
    next hw1 h1 => exact (emits_emitTo h1).trans (ih h)
    · cases h

/-- An emission adds tokens behind and stages writes of hold registers: nothing else changes. -/
theorem emits_emitAll {f : Fire} {hw hw' : Hw} {ts : List Token} (h : emitAll f hw ts = .ok hw') :
    Emits f.core hw hw' := by
  unfold emitAll emitBoth at h
  simp only [bind, Except.bind] at h
  split at h
  · cases h
  next hw1 h1 => exact (emits_emitList h1).trans (emits_emitList h)

/-- No emission waits. -/
theorem emitAll_no_wait (f : Fire) (hw : Hw) (ts : List Token) (hw' : Hw) : emitAll f hw ts ≠ .error (.wait hw') := by
  have hold : ∀ hw x j v, stageWrite hw x j v ≠ .error (.wait hw') := by
    intro hw x j v; unfold stageWrite; dsimp only; repeat' split
    all_goals simp [accounting]
  have send : ∀ hw x src cont t, sendCont hw x src cont t ≠ .error (.wait hw') := by
    intro hw x src cont t; unfold sendCont; dsimp only; repeat' split
    all_goals simp
  have one : ∀ hw x src g t b, emitTo hw x src g t b ≠ .error (.wait hw') := by
    intro hw x src g t b; unfold emitTo
    split
    · simp
    · dsimp only; split
      · simp [regionCause]
      · exact send _ _ _ _ _
    · unfold holdTarget; split <;> first | exact hold _ _ _ _ | simp [accounting]
    · unfold emitRoute; dsimp only; split
      · simp [illegal]
      · split
        · simp [regionCause]
        · exact send _ _ _ _ _
  have list : ∀ ts hw x src g, emitList hw x src g ts ≠ .error (.wait hw') := by
    intro ts
    induction ts with
    | nil => intro hw x src g; simp [emitList]
    | cons t r ih =>
      intro hw x src g; unfold emitList; split
      · exact ih _ _ _ _
      next e h1 => intro e'; cases e'; exact one _ _ _ _ _ _ h1
  intro h
  unfold emitAll emitBoth at h
  simp only [bind, Except.bind] at h
  split at h
  next e h1 => cases h; exact list _ _ _ _ _ h1
  · exact list _ _ _ _ _ h

end Sys2Proof.Machine
end

