-- ==== Sys2Proof/Laws/Common.lean ====
section
/-! SUPPORT. What the words of classes 2 to 4 and the lane words have in common (04 R104, 05 R140): one lemma from which a
statement about all of them follows without a case for each. -/
namespace Sys2Proof.Machine

/-- A body that sends tokens or faults. -/
def SendsOrFaults (body : Fire → Mem → Hw → Except Stop Hw) : Prop :=
  ∀ f m hw, (∃ ts, body f m hw = emitAll f hw ts) ∨ ∃ c d, body f m hw = .error (.fault c d)

/-- A meaning that departs from the common rules in its effect alone, and for BOUND in its NULL. -/
structure CommonMeaning (op : BitVec 9) (mn : Meaning) : Prop where
  ls      : mn.ls = .none
  endMode : mn.endMode = .std
  pre     : mn.pre = fun _ _ => .ok ()
  ownNull : mn.ownNull = false
  notFire : mn.notFire = passNotFire
  poison  : mn.poison = passPoison
  onNull  : if op = 0x0C9#9 then mn.onNull = nullOrPoison else mn.onNull = passNull
  body    : SendsOrFaults mn.body

theorem sends_alu (g : Fire → Word) : SendsOrFaults (alu g).body := fun f _ hw => .inl ⟨[tokOf f .data (g f) f.psn], rfl⟩

theorem sends_aluChk (g : Fire → Except Stop Word) (h : ∀ f hw, g f ≠ .error (.wait hw)) : SendsOrFaults (aluChk g).body := by
  intro f m hw
  simp only [aluChk, bind, Except.bind]
  cases e : g f with
  | ok v => exact .inl ⟨[tokOf f .data v f.psn], rfl⟩
  | error x =>
    cases x with
    | fault c d => exact .inr ⟨c, d, rfl⟩
    | wait hw' => exact absurd e (h f hw')

/-- A meaning with the common rules and a body of its own. -/
theorem common_of (op : BitVec 9) (body : Fire → Mem → Hw → Except Stop Hw) (h : op ≠ 0x0C9#9) (hb : SendsOrFaults body) :
    CommonMeaning op { body := body } :=
  ⟨rfl, rfl, rfl, rfl, rfl, rfl, by simp [h], hb⟩

/-- What `exec_common` says of a word. -/
def CommonExec (i : Instr) (op : BitVec 9) (w : Fields) : Prop :=
  ∃ sp mn, specOf i = some sp ∧ sp.op = op ∧ sp.pPort = false ∧ CommonMeaning op mn ∧ ∀ s, exec i s = fire sp mn w s

theorem common_alu {i : Instr} {sp : OpSpec} {w : Fields} {g : Fire → Word} (hs : specOf i = some sp) (ho : sp.op ≠ 0x0C9#9)
    (hp : sp.pPort = false) (he : ∀ s, exec i s = fire sp (alu g) w s) : CommonExec i sp.op w :=
  ⟨_, _, hs, rfl, hp, common_of _ _ ho (sends_alu g), he⟩

theorem common_chk {i : Instr} {sp : OpSpec} {w : Fields} {g : Fire → Except Stop Word} (hs : specOf i = some sp)
    (he : ∀ s, exec i s = fire sp (aluChk g) w s) (hg : ∀ f hw, g f ≠ .error (.wait hw)) (ho : sp.op ≠ 0x0C9#9)
    (hp : sp.pPort = false) : CommonExec i sp.op w :=
  ⟨_, _, hs, rfl, hp, common_of _ _ ho (sends_aluChk g hg), he⟩

theorem common_add (w : Fields) : CommonExec (.add w) 0x080#9 w := common_alu (sp := specAdd) rfl (by decide) rfl fun _ => rfl
theorem common_sub (w : Fields) : CommonExec (.sub w) 0x081#9 w := common_alu (sp := specSub) rfl (by decide) rfl fun _ => rfl
theorem common_rsub (w : Fields) : CommonExec (.rsub w) 0x082#9 w := common_alu (sp := specRsub) rfl (by decide) rfl fun _ => rfl
theorem common_neg (w : Fields) : CommonExec (.neg w) 0x083#9 w := common_alu (sp := specNeg) rfl (by decide) rfl fun _ => rfl
theorem common_abs (w : Fields) : CommonExec (.abs w) 0x084#9 w := common_alu (sp := specAbs) rfl (by decide) rfl fun _ => rfl
theorem common_adds (w : Fields) : CommonExec (.adds w) 0x085#9 w := common_alu (sp := specAdds) rfl (by decide) rfl fun _ => rfl
theorem common_subs (w : Fields) : CommonExec (.subs w) 0x086#9 w := common_alu (sp := specSubs) rfl (by decide) rfl fun _ => rfl
theorem common_mul (w : Fields) : CommonExec (.mul w) 0x087#9 w := common_alu (sp := specMul) rfl (by decide) rfl fun _ => rfl
theorem common_mulh (w : Fields) : CommonExec (.mulh w) 0x088#9 w := common_alu (sp := specMulh) rfl (by decide) rfl fun _ => rfl
theorem common_mulhz (w : Fields) : CommonExec (.mulhz w) 0x089#9 w := common_alu (sp := specMulhz) rfl (by decide) rfl fun _ => rfl
theorem common_div (w : Fields) : CommonExec (.div w) 0x08A#9 w := common_alu (sp := specDiv) rfl (by decide) rfl fun _ => rfl
theorem common_divz (w : Fields) : CommonExec (.divz w) 0x08B#9 w := common_alu (sp := specDivz) rfl (by decide) rfl fun _ => rfl
theorem common_rem (w : Fields) : CommonExec (.rem w) 0x08C#9 w := common_alu (sp := specRem) rfl (by decide) rfl fun _ => rfl
theorem common_remz (w : Fields) : CommonExec (.remz w) 0x08D#9 w := common_alu (sp := specRemz) rfl (by decide) rfl fun _ => rfl
theorem common_min (w : Fields) : CommonExec (.min w) 0x08E#9 w := common_alu (sp := specMin) rfl (by decide) rfl fun _ => rfl
theorem common_max (w : Fields) : CommonExec (.max w) 0x08F#9 w := common_alu (sp := specMax) rfl (by decide) rfl fun _ => rfl
theorem common_minz (w : Fields) : CommonExec (.minz w) 0x090#9 w := common_alu (sp := specMinz) rfl (by decide) rfl fun _ => rfl
theorem common_maxz (w : Fields) : CommonExec (.maxz w) 0x091#9 w := common_alu (sp := specMaxz) rfl (by decide) rfl fun _ => rfl
theorem common_and (w : Fields) : CommonExec (.and w) 0x092#9 w := common_alu (sp := specAnd) rfl (by decide) rfl fun _ => rfl
theorem common_or (w : Fields) : CommonExec (.or w) 0x093#9 w := common_alu (sp := specOr) rfl (by decide) rfl fun _ => rfl
theorem common_xor (w : Fields) : CommonExec (.xor w) 0x094#9 w := common_alu (sp := specXor) rfl (by decide) rfl fun _ => rfl
theorem common_andn (w : Fields) : CommonExec (.andn w) 0x095#9 w := common_alu (sp := specAndn) rfl (by decide) rfl fun _ => rfl
theorem common_orn (w : Fields) : CommonExec (.orn w) 0x096#9 w := common_alu (sp := specOrn) rfl (by decide) rfl fun _ => rfl
theorem common_not (w : Fields) : CommonExec (.not w) 0x097#9 w := common_alu (sp := specNot) rfl (by decide) rfl fun _ => rfl
theorem common_shl (w : Fields) : CommonExec (.shl w) 0x098#9 w := common_alu (sp := specShl) rfl (by decide) rfl fun _ => rfl
theorem common_shr (w : Fields) : CommonExec (.shr w) 0x099#9 w := common_alu (sp := specShr) rfl (by decide) rfl fun _ => rfl
theorem common_sar (w : Fields) : CommonExec (.sar w) 0x09A#9 w := common_alu (sp := specSar) rfl (by decide) rfl fun _ => rfl
theorem common_rol (w : Fields) : CommonExec (.rol w) 0x09B#9 w := common_alu (sp := specRol) rfl (by decide) rfl fun _ => rfl
theorem common_ror (w : Fields) : CommonExec (.ror w) 0x09C#9 w := common_alu (sp := specRor) rfl (by decide) rfl fun _ => rfl
theorem common_clz (w : Fields) : CommonExec (.clz w) 0x09D#9 w := common_alu (sp := specClz) rfl (by decide) rfl fun _ => rfl
theorem common_ctz (w : Fields) : CommonExec (.ctz w) 0x09E#9 w := common_alu (sp := specCtz) rfl (by decide) rfl fun _ => rfl
theorem common_popc (w : Fields) : CommonExec (.popc w) 0x09F#9 w := common_alu (sp := specPopc) rfl (by decide) rfl fun _ => rfl
theorem common_brev (w : Fields) : CommonExec (.brev w) 0x0A0#9 w := common_alu (sp := specBrev) rfl (by decide) rfl fun _ => rfl
theorem common_bswap (w : Fields) : CommonExec (.bswap w) 0x0A1#9 w := common_alu (sp := specBswap) rfl (by decide) rfl fun _ => rfl
theorem common_ext (w : Fields) : CommonExec (.ext w) 0x0A2#9 w := by
  refine common_chk (sp := specExt) rfl (fun _ => rfl) ?_ (by decide) rfl
  intro f hw; try dsimp only
  split <;> simp [outOfRange]
theorem common_extz (w : Fields) : CommonExec (.extz w) 0x0A3#9 w := by
  refine common_chk (sp := specExtz) rfl (fun _ => rfl) ?_ (by decide) rfl
  intro f hw; try dsimp only
  split <;> simp [outOfRange]
theorem common_ins (w : Fields) : CommonExec (.ins w) 0x0A4#9 w := by
  refine common_chk (sp := specIns) rfl (fun _ => rfl) ?_ (by decide) rfl
  intro f hw; try dsimp only
  split <;> simp [outOfRange]
theorem common_sext (w : Fields) : CommonExec (.sext w) 0x0A5#9 w := by
  refine common_chk (sp := specSext) rfl (fun _ => rfl) ?_ (by decide) rfl
  intro f hw; try dsimp only
  split <;> simp [outOfRange]
theorem common_zext (w : Fields) : CommonExec (.zext w) 0x0A6#9 w := by
  refine common_chk (sp := specZext) rfl (fun _ => rfl) ?_ (by decide) rfl
  intro f hw; try dsimp only
  split <;> simp [outOfRange]
theorem common_lea (w : Fields) : CommonExec (.lea w) 0x0A7#9 w := by
  refine common_chk (sp := specLea) rfl (fun _ => rfl) ?_ (by decide) rfl
  intro f hw; try dsimp only
  split <;> simp [outOfRange]
theorem common_packw (w : Fields) : CommonExec (.packw w) 0x0A8#9 w := common_alu (sp := specPackw) rfl (by decide) rfl fun _ => rfl
theorem common_cmpeq (w : Fields) : CommonExec (.cmpeq w) 0x0C0#9 w := common_alu (sp := specCmpeq) rfl (by decide) rfl fun _ => rfl
theorem common_cmpne (w : Fields) : CommonExec (.cmpne w) 0x0C1#9 w := common_alu (sp := specCmpne) rfl (by decide) rfl fun _ => rfl
theorem common_cmplt (w : Fields) : CommonExec (.cmplt w) 0x0C2#9 w := common_alu (sp := specCmplt) rfl (by decide) rfl fun _ => rfl
theorem common_cmple (w : Fields) : CommonExec (.cmple w) 0x0C3#9 w := common_alu (sp := specCmple) rfl (by decide) rfl fun _ => rfl
theorem common_cmpltz (w : Fields) : CommonExec (.cmpltz w) 0x0C4#9 w := common_alu (sp := specCmpltz) rfl (by decide) rfl fun _ => rfl
theorem common_cmplez (w : Fields) : CommonExec (.cmplez w) 0x0C5#9 w := common_alu (sp := specCmplez) rfl (by decide) rfl fun _ => rfl
theorem common_testz (w : Fields) : CommonExec (.testz w) 0x0C6#9 w := common_alu (sp := specTestz) rfl (by decide) rfl fun _ => rfl
theorem common_testnz (w : Fields) : CommonExec (.testnz w) 0x0C7#9 w := common_alu (sp := specTestnz) rfl (by decide) rfl fun _ => rfl
theorem common_sel (w : Fields) : CommonExec (.sel w) 0x0C8#9 w := common_alu (sp := specSel) rfl (by decide) rfl fun _ => rfl
theorem common_bound (w : Fields) : CommonExec (.bound w) 0x0C9#9 w := by
  refine ⟨specBound, _, rfl, rfl, rfl, ⟨rfl, rfl, rfl, rfl, rfl, rfl, (if_pos rfl).symm ▸ rfl, ?_⟩, fun _ => rfl⟩
  intro f m hw; dsimp only; split
  · exact .inl ⟨_, rfl⟩
  · exact .inl ⟨_, rfl⟩
theorem common_clamp (w : Fields) : CommonExec (.clamp w) 0x0CA#9 w := common_alu (sp := specClamp) rfl (by decide) rfl fun _ => rfl
theorem common_pand (w : Fields) : CommonExec (.pand w) 0x0CB#9 w := common_alu (sp := specPand) rfl (by decide) rfl fun _ => rfl
theorem common_por (w : Fields) : CommonExec (.por w) 0x0CC#9 w := common_alu (sp := specPor) rfl (by decide) rfl fun _ => rfl
theorem common_pnot (w : Fields) : CommonExec (.pnot w) 0x0CD#9 w := common_alu (sp := specPnot) rfl (by decide) rfl fun _ => rfl
theorem common_fadd (w : Fields) : CommonExec (.fadd w) 0x100#9 w := common_alu (sp := specFadd) rfl (by decide) rfl fun _ => rfl
theorem common_fsub (w : Fields) : CommonExec (.fsub w) 0x101#9 w := common_alu (sp := specFsub) rfl (by decide) rfl fun _ => rfl
theorem common_fmul (w : Fields) : CommonExec (.fmul w) 0x102#9 w := common_alu (sp := specFmul) rfl (by decide) rfl fun _ => rfl
theorem common_ffma (w : Fields) : CommonExec (.ffma w) 0x103#9 w := common_alu (sp := specFfma) rfl (by decide) rfl fun _ => rfl
theorem common_ffms (w : Fields) : CommonExec (.ffms w) 0x104#9 w := common_alu (sp := specFfms) rfl (by decide) rfl fun _ => rfl
theorem common_fmin (w : Fields) : CommonExec (.fmin w) 0x105#9 w := common_alu (sp := specFmin) rfl (by decide) rfl fun _ => rfl
theorem common_fmax (w : Fields) : CommonExec (.fmax w) 0x106#9 w := common_alu (sp := specFmax) rfl (by decide) rfl fun _ => rfl
theorem common_fabs (w : Fields) : CommonExec (.fabs w) 0x107#9 w := common_alu (sp := specFabs) rfl (by decide) rfl fun _ => rfl
theorem common_fneg (w : Fields) : CommonExec (.fneg w) 0x108#9 w := common_alu (sp := specFneg) rfl (by decide) rfl fun _ => rfl
theorem common_fcpys (w : Fields) : CommonExec (.fcpys w) 0x109#9 w := common_alu (sp := specFcpys) rfl (by decide) rfl fun _ => rfl
theorem common_fcmpeq (w : Fields) : CommonExec (.fcmpeq w) 0x10A#9 w := common_alu (sp := specFcmpeq) rfl (by decide) rfl fun _ => rfl
theorem common_fcmplt (w : Fields) : CommonExec (.fcmplt w) 0x10B#9 w := common_alu (sp := specFcmplt) rfl (by decide) rfl fun _ => rfl
theorem common_fcmple (w : Fields) : CommonExec (.fcmple w) 0x10C#9 w := common_alu (sp := specFcmple) rfl (by decide) rfl fun _ => rfl
theorem common_fcmpun (w : Fields) : CommonExec (.fcmpun w) 0x10D#9 w := common_alu (sp := specFcmpun) rfl (by decide) rfl fun _ => rfl
theorem common_frcp (w : Fields) : CommonExec (.frcp w) 0x10E#9 w := common_alu (sp := specFrcp) rfl (by decide) rfl fun _ => rfl
theorem common_frsq (w : Fields) : CommonExec (.frsq w) 0x10F#9 w := common_alu (sp := specFrsq) rfl (by decide) rfl fun _ => rfl
theorem common_fsqrt (w : Fields) : CommonExec (.fsqrt w) 0x110#9 w := common_alu (sp := specFsqrt) rfl (by decide) rfl fun _ => rfl
theorem common_fdiv (w : Fields) : CommonExec (.fdiv w) 0x111#9 w := common_alu (sp := specFdiv) rfl (by decide) rfl fun _ => rfl
theorem common_fexp2 (w : Fields) : CommonExec (.fexp2 w) 0x112#9 w := common_alu (sp := specFexp2) rfl (by decide) rfl fun _ => rfl
theorem common_flog2 (w : Fields) : CommonExec (.flog2 w) 0x113#9 w := common_alu (sp := specFlog2) rfl (by decide) rfl fun _ => rfl
theorem common_ftanh (w : Fields) : CommonExec (.ftanh w) 0x114#9 w := common_alu (sp := specFtanh) rfl (by decide) rfl fun _ => rfl
theorem common_fsin (w : Fields) : CommonExec (.fsin w) 0x115#9 w := common_alu (sp := specFsin) rfl (by decide) rfl fun _ => rfl
theorem common_fcos (w : Fields) : CommonExec (.fcos w) 0x116#9 w := common_alu (sp := specFcos) rfl (by decide) rfl fun _ => rfl
theorem common_frnd (w : Fields) : CommonExec (.frnd w) 0x117#9 w := common_alu (sp := specFrnd) rfl (by decide) rfl fun _ => rfl
theorem common_fscale (w : Fields) : CommonExec (.fscale w) 0x118#9 w := common_alu (sp := specFscale) rfl (by decide) rfl fun _ => rfl
theorem common_fgete (w : Fields) : CommonExec (.fgete w) 0x119#9 w := common_alu (sp := specFgete) rfl (by decide) rfl fun _ => rfl
theorem common_cvtf (w : Fields) : CommonExec (.cvtf w) 0x11A#9 w := common_alu (sp := specCvtf) rfl (by decide) rfl fun _ => rfl
theorem common_cvtfi (w : Fields) : CommonExec (.cvtfi w) 0x11B#9 w := common_alu (sp := specCvtfi) rfl (by decide) rfl fun _ => rfl
theorem common_cvtif (w : Fields) : CommonExec (.cvtif w) 0x11C#9 w := common_alu (sp := specCvtif) rfl (by decide) rfl fun _ => rfl
theorem common_fclass (w : Fields) : CommonExec (.fclass w) 0x11D#9 w := common_alu (sp := specFclass) rfl (by decide) rfl fun _ => rfl
theorem common_vadd (w : Fields) : CommonExec (.vadd w) 0x140#9 w := common_alu (sp := specVadd) rfl (by decide) rfl fun _ => rfl
theorem common_vsub (w : Fields) : CommonExec (.vsub w) 0x141#9 w := common_alu (sp := specVsub) rfl (by decide) rfl fun _ => rfl
theorem common_vmul (w : Fields) : CommonExec (.vmul w) 0x142#9 w := common_alu (sp := specVmul) rfl (by decide) rfl fun _ => rfl
theorem common_vmulh (w : Fields) : CommonExec (.vmulh w) 0x143#9 w := common_alu (sp := specVmulh) rfl (by decide) rfl fun _ => rfl
theorem common_vadds (w : Fields) : CommonExec (.vadds w) 0x144#9 w := common_alu (sp := specVadds) rfl (by decide) rfl fun _ => rfl
theorem common_vsubs (w : Fields) : CommonExec (.vsubs w) 0x145#9 w := common_alu (sp := specVsubs) rfl (by decide) rfl fun _ => rfl
theorem common_vmin (w : Fields) : CommonExec (.vmin w) 0x146#9 w := common_alu (sp := specVmin) rfl (by decide) rfl fun _ => rfl
theorem common_vmax (w : Fields) : CommonExec (.vmax w) 0x147#9 w := common_alu (sp := specVmax) rfl (by decide) rfl fun _ => rfl
theorem common_vavg (w : Fields) : CommonExec (.vavg w) 0x148#9 w := common_alu (sp := specVavg) rfl (by decide) rfl fun _ => rfl
theorem common_vshl (w : Fields) : CommonExec (.vshl w) 0x149#9 w := common_alu (sp := specVshl) rfl (by decide) rfl fun _ => rfl
theorem common_vshr (w : Fields) : CommonExec (.vshr w) 0x14A#9 w := common_alu (sp := specVshr) rfl (by decide) rfl fun _ => rfl
theorem common_vsar (w : Fields) : CommonExec (.vsar w) 0x14B#9 w := common_alu (sp := specVsar) rfl (by decide) rfl fun _ => rfl
theorem common_vcmpeq (w : Fields) : CommonExec (.vcmpeq w) 0x14C#9 w := common_alu (sp := specVcmpeq) rfl (by decide) rfl fun _ => rfl
theorem common_vcmplt (w : Fields) : CommonExec (.vcmplt w) 0x14D#9 w := common_alu (sp := specVcmplt) rfl (by decide) rfl fun _ => rfl
theorem common_vsel (w : Fields) : CommonExec (.vsel w) 0x14E#9 w := common_alu (sp := specVsel) rfl (by decide) rfl fun _ => rfl
theorem common_vsplat (w : Fields) : CommonExec (.vsplat w) 0x14F#9 w := common_alu (sp := specVsplat) rfl (by decide) rfl fun _ => rfl
theorem common_vshuf (w : Fields) : CommonExec (.vshuf w) 0x150#9 w := common_alu (sp := specVshuf) rfl (by decide) rfl fun _ => rfl
theorem common_vpack (w : Fields) : CommonExec (.vpack w) 0x151#9 w := common_alu (sp := specVpack) rfl (by decide) rfl fun _ => rfl
theorem common_vunpkl (w : Fields) : CommonExec (.vunpkl w) 0x152#9 w := common_alu (sp := specVunpkl) rfl (by decide) rfl fun _ => rfl
theorem common_vunpkh (w : Fields) : CommonExec (.vunpkh w) 0x153#9 w := common_alu (sp := specVunpkh) rfl (by decide) rfl fun _ => rfl
theorem common_vredadd (w : Fields) : CommonExec (.vredadd w) 0x154#9 w := common_alu (sp := specVredadd) rfl (by decide) rfl fun _ => rfl
theorem common_vredmax (w : Fields) : CommonExec (.vredmax w) 0x155#9 w := common_alu (sp := specVredmax) rfl (by decide) rfl fun _ => rfl
theorem common_vredmin (w : Fields) : CommonExec (.vredmin w) 0x156#9 w := common_alu (sp := specVredmin) rfl (by decide) rfl fun _ => rfl
theorem common_vdot (w : Fields) : CommonExec (.vdot w) 0x157#9 w := common_alu (sp := specVdot) rfl (by decide) rfl fun _ => rfl
theorem common_vfma (w : Fields) : CommonExec (.vfma w) 0x158#9 w := common_alu (sp := specVfma) rfl (by decide) rfl fun _ => rfl
theorem common_vfadd (w : Fields) : CommonExec (.vfadd w) 0x159#9 w := common_alu (sp := specVfadd) rfl (by decide) rfl fun _ => rfl
theorem common_vfmul (w : Fields) : CommonExec (.vfmul w) 0x15A#9 w := common_alu (sp := specVfmul) rfl (by decide) rfl fun _ => rfl
theorem common_vfmax (w : Fields) : CommonExec (.vfmax w) 0x15B#9 w := common_alu (sp := specVfmax) rfl (by decide) rfl fun _ => rfl
theorem common_vcvt (w : Fields) : CommonExec (.vcvt w) 0x15C#9 w := common_alu (sp := specVcvt) rfl (by decide) rfl fun _ => rfl

theorem exec_common (i : Instr) (op : BitVec 9) (w : Fields) (h : opFields i = some (op, w))
    (hc : 0x080#9 ≤ op ∧ op ≤ 0x15C#9) : CommonExec i op w := by
  cases i with
  | mov => cases h; exact absurd hc (by decide)
  | const => cases h; exact absurd hc (by decide)
  | fan => cases h; exact absurd hc (by decide)
  | steer => cases h; exact absurd hc (by decide)
  | merge => cases h; exact absurd hc (by decide)
  | gate => cases h; exact absurd hc (by decide)
  | sink => cases h; exact absurd hc (by decide)
  | nullgen => cases h; exact absurd hc (by decide)
  | isnull => cases h; exact absurd hc (by decide)
  | coalesce => cases h; exact absurd hc (by decide)
  | endm => cases h; exact absurd hc (by decide)
  | endrank => cases h; exact absurd hc (by decide)
  | skip => cases h; exact absurd hc (by decide)
  | chsend => cases h; exact absurd hc (by decide)
  | chrecv => cases h; exact absurd hc (by decide)
  | credit => cases h; exact absurd hc (by decide)
  | chopen => cases h; exact absurd hc (by decide)
  | chclose => cases h; exact absurd hc (by decide)
  | packt => cases h; exact absurd hc (by decide)
  | talloc => cases h; exact absurd hc (by decide)
  | tfree => cases h; exact absurd hc (by decide)
  | tnext => cases h; exact absurd hc (by decide)
  | tidx => cases h; exact absurd hc (by decide)
  | tset => cases h; exact absurd hc (by decide)
  | tget => cases h; exact absurd hc (by decide)
  | tcall => cases h; exact absurd hc (by decide)
  | tret => cases h; exact absurd hc (by decide)
  | read => cases h; exact absurd hc (by decide)
  | readHoldAtOpen => cases h; exact absurd hc (by decide)
  | write => cases h; exact absurd hc (by decide)
  | exit => cases h; exact absurd hc (by decide)
  | exitx => cases h; exact absurd hc (by decide)
  | spawn => cases h; exact absurd hc (by decide)
  | spawni => cases h; exact absurd hc (by decide)
  | cntinit => cases h; exact absurd hc (by decide)
  | cntdec => cases h; exact absurd hc (by decide)
  | cntwait => cases h; exact absurd hc (by decide)
  | waita => cases h; exact absurd hc (by decide)
  | switch => cases h; exact absurd hc (by decide)
  | quiet => cases h; exact absurd hc (by decide)
  | getid => cases h; exact absurd hc (by decide)
  | cycle => cases h; exact absurd hc (by decide)
  | trap => cases h; exact absurd hc (by decide)
  | svc => cases h; exact absurd hc (by decide)
  | brk => cases h; exact absurd hc (by decide)
  | pin => cases h; exact absurd hc (by decide)
  | unpin => cases h; exact absurd hc (by decide)
  | resq => cases h; exact absurd hc (by decide)
  | keyq => cases h; exact absurd hc (by decide)
  | add => cases h; exact common_add _
  | sub => cases h; exact common_sub _
  | rsub => cases h; exact common_rsub _
  | neg => cases h; exact common_neg _
  | abs => cases h; exact common_abs _
  | adds => cases h; exact common_adds _
  | subs => cases h; exact common_subs _
  | mul => cases h; exact common_mul _
  | mulh => cases h; exact common_mulh _
  | mulhz => cases h; exact common_mulhz _
  | div => cases h; exact common_div _
  | divz => cases h; exact common_divz _
  | rem => cases h; exact common_rem _
  | remz => cases h; exact common_remz _
  | min => cases h; exact common_min _
  | max => cases h; exact common_max _
  | minz => cases h; exact common_minz _
  | maxz => cases h; exact common_maxz _
  | and => cases h; exact common_and _
  | or => cases h; exact common_or _
  | xor => cases h; exact common_xor _
  | andn => cases h; exact common_andn _
  | orn => cases h; exact common_orn _
  | not => cases h; exact common_not _
  | shl => cases h; exact common_shl _
  | shr => cases h; exact common_shr _
  | sar => cases h; exact common_sar _
  | rol => cases h; exact common_rol _
  | ror => cases h; exact common_ror _
  | clz => cases h; exact common_clz _
  | ctz => cases h; exact common_ctz _
  | popc => cases h; exact common_popc _
  | brev => cases h; exact common_brev _
  | bswap => cases h; exact common_bswap _
  | ext => cases h; exact common_ext _
  | extz => cases h; exact common_extz _
  | ins => cases h; exact common_ins _
  | sext => cases h; exact common_sext _
  | zext => cases h; exact common_zext _
  | lea => cases h; exact common_lea _
  | packw => cases h; exact common_packw _
  | cmpeq => cases h; exact common_cmpeq _
  | cmpne => cases h; exact common_cmpne _
  | cmplt => cases h; exact common_cmplt _
  | cmple => cases h; exact common_cmple _
  | cmpltz => cases h; exact common_cmpltz _
  | cmplez => cases h; exact common_cmplez _
  | testz => cases h; exact common_testz _
  | testnz => cases h; exact common_testnz _
  | sel => cases h; exact common_sel _
  | bound => cases h; exact common_bound _
  | clamp => cases h; exact common_clamp _
  | pand => cases h; exact common_pand _
  | por => cases h; exact common_por _
  | pnot => cases h; exact common_pnot _
  | fadd => cases h; exact common_fadd _
  | fsub => cases h; exact common_fsub _
  | fmul => cases h; exact common_fmul _
  | ffma => cases h; exact common_ffma _
  | ffms => cases h; exact common_ffms _
  | fmin => cases h; exact common_fmin _
  | fmax => cases h; exact common_fmax _
  | fabs => cases h; exact common_fabs _
  | fneg => cases h; exact common_fneg _
  | fcpys => cases h; exact common_fcpys _
  | fcmpeq => cases h; exact common_fcmpeq _
  | fcmplt => cases h; exact common_fcmplt _
  | fcmple => cases h; exact common_fcmple _
  | fcmpun => cases h; exact common_fcmpun _
  | frcp => cases h; exact common_frcp _
  | frsq => cases h; exact common_frsq _
  | fsqrt => cases h; exact common_fsqrt _
  | fdiv => cases h; exact common_fdiv _
  | fexp2 => cases h; exact common_fexp2 _
  | flog2 => cases h; exact common_flog2 _
  | ftanh => cases h; exact common_ftanh _
  | fsin => cases h; exact common_fsin _
  | fcos => cases h; exact common_fcos _
  | frnd => cases h; exact common_frnd _
  | fscale => cases h; exact common_fscale _
  | fgete => cases h; exact common_fgete _
  | cvtf => cases h; exact common_cvtf _
  | cvtfi => cases h; exact common_cvtfi _
  | cvtif => cases h; exact common_cvtif _
  | fclass => cases h; exact common_fclass _
  | vadd => cases h; exact common_vadd _
  | vsub => cases h; exact common_vsub _
  | vmul => cases h; exact common_vmul _
  | vmulh => cases h; exact common_vmulh _
  | vadds => cases h; exact common_vadds _
  | vsubs => cases h; exact common_vsubs _
  | vmin => cases h; exact common_vmin _
  | vmax => cases h; exact common_vmax _
  | vavg => cases h; exact common_vavg _
  | vshl => cases h; exact common_vshl _
  | vshr => cases h; exact common_vshr _
  | vsar => cases h; exact common_vsar _
  | vcmpeq => cases h; exact common_vcmpeq _
  | vcmplt => cases h; exact common_vcmplt _
  | vsel => cases h; exact common_vsel _
  | vsplat => cases h; exact common_vsplat _
  | vshuf => cases h; exact common_vshuf _
  | vpack => cases h; exact common_vpack _
  | vunpkl => cases h; exact common_vunpkl _
  | vunpkh => cases h; exact common_vunpkh _
  | vredadd => cases h; exact common_vredadd _
  | vredmax => cases h; exact common_vredmax _
  | vredmin => cases h; exact common_vredmin _
  | vdot => cases h; exact common_vdot _
  | vfma => cases h; exact common_vfma _
  | vfadd => cases h; exact common_vfadd _
  | vfmul => cases h; exact common_vfmul _
  | vfmax => cases h; exact common_vfmax _
  | vcvt => cases h; exact common_vcvt _
  | pfxc => cases h; exact absurd hc (by decide)
  | isect => cases h; exact absurd hc (by decide)
  | obt => cases h; exact absurd hc (by decide)
  | obti => cases h; exact absurd hc (by decide)
  | digit => cases h; exact absurd hc (by decide)
  | ld => cases h; exact absurd hc (by decide)
  | st => cases h; exact absurd hc (by decide)
  | ldacq => cases h; exact absurd hc (by decide)
  | strel => cases h; exact absurd hc (by decide)
  | fence => cases h; exact absurd hc (by decide)
  | pref => cases h; exact absurd hc (by decide)
  | xlate => cases h; exact absurd hc (by decide)
  | leap => cases h; exact absurd hc (by decide)
  | aadd => cases h; exact absurd hc (by decide)
  | asub => cases h; exact absurd hc (by decide)
  | amin => cases h; exact absurd hc (by decide)
  | amax => cases h; exact absurd hc (by decide)
  | aminz => cases h; exact absurd hc (by decide)
  | amaxz => cases h; exact absurd hc (by decide)
  | aand => cases h; exact absurd hc (by decide)
  | aor => cases h; exact absurd hc (by decide)
  | axor => cases h; exact absurd hc (by decide)
  | axchg => cases h; exact absurd hc (by decide)
  | acas => cases h; exact absurd hc (by decide)
  | afadd => cases h; exact absurd hc (by decide)
  | aincw => cases h; exact absurd hc (by decide)
  | stream => cases h; exact absurd hc (by decide)
  | strmkQuery => cases h; exact absurd hc (by decide)
  | strmkCancel => cases h; exact absurd hc (by decide)
  | strmkDrain => cases h; exact absurd hc (by decide)
  | wring => cases h; exact absurd hc (by decide)
  | spread => cases h; exact absurd hc (by decide)
  | rport => cases h; exact absurd hc (by decide)
  | ldrb => cases h; exact absurd hc (by decide)
  | mcfg => cases h; exact absurd hc (by decide)
  | mldb => cases h; exact absurd hc (by decide)
  | mswap => cases h; exact absurd hc (by decide)
  | mbc => cases h; exact absurd hc (by decide)
  | mbcw => cases h; exact absurd hc (by decide)
  | accset => cases h; exact absurd hc (by decide)
  | acccnt => cases h; exact absurd hc (by decide)
  | accrd => cases h; exact absurd hc (by decide)
  | accclr => cases h; exact absurd hc (by decide)
  | mchk => cases h; exact absurd hc (by decide)
  | hcopy => cases h; exact absurd hc (by decide)
  | hgath => cases h; exact absurd hc (by decide)
  | hscat => cases h; exact absurd hc (by decide)
  | hred => cases h; exact absurd hc (by decide)
  | hfill => cases h; exact absurd hc (by decide)
  | chkptBegin => cases h; exact absurd hc (by decide)
  | chkptRestore => cases h; exact absurd hc (by decide)
  | chkptAbandon => cases h; exact absurd hc (by decide)
  | chkptQuery => cases h; exact absurd hc (by decide)
  | sysrd => cases h; exact absurd hc (by decide)
  | syswr => cases h; exact absurd hc (by decide)
  | tokenArrival => cases h
  | overflowRefill => cases h
  | iwordLo => cases h
  | iwordHi => cases h
  | bhdrLo => cases h
  | bhdrHi => cases h
  | route => cases h
  | kset => cases h
  | hoist => cases h
  | install => cases h
  | installComplete => cases h
  | hoistPlacement => cases h
  | objectLoad => cases h
  | faultReport => cases h
  | serviceInboxEntry => cases h
  | errEfaultAck => cases h
  | reissue => cases h
  | nullify => cases h
  | step => cases h
  | genresume => cases h
  | genabort => cases h
  | nodeclear => cases h
  | taskresume => cases h
  | taskdiscard => cases h
  | stallclear => cases h
  | regionabort => cases h
  | frameUnload => cases h
  | commit => cases h
  | successorOpen => cases h
  | fetch => cases h
  | retirement => cases h
  | quiescenceProbe => cases h
  | regionSwitch => cases h
  | quietRequestTaken => cases h
  | quiescenceStall => cases h
  | bankStarvationGrant => cases h
  | accessAtHome => cases h
  | atomicAtHome => cases h
  | strelRelease => cases h
  | generatorStep => cases h
  | wringEmit => cases h
  | spreadSessionToken => cases h
  | reductionSessionToken => cases h
  | channelTokenArrival => cases h
  | creditArrival => cases h
  | channelStall => cases h
  | broadcast => cases h
  | nullBroadcast => cases h
  | mcfgEffect => cases h
  | mldbEffect => cases h
  | mswapEffect => cases h
  | mchkEffect => cases h
  | contribution => cases h
  | taskRecordAccept => cases h
  | taskRouting => cases h
  | keyTry => cases h
  | keyRequest => cases h
  | keyReply => cases h
  | keyRelease => cases h
  | keyAging => cases h
  | keyEntryRetry => cases h
  | taskStart => cases h
  | taskReroute => cases h
  | residencyStaleNotice => cases h
  | counterApply => cases h
  | cntwaitRetry => cases h
  | cntValWrite => cases h
  | monitorPost => cases h
  | monitorDeadline => cases h
  | directoryLookup => cases h
  | pageWalk => cases h
  | shootDown => cases h
  | shootDownAll => cases h
  | invalidation => cases h
  | halyardUnit => cases h
  | echo => cases h
  | mapreq => cases h
  | log => cases h
  | abortself => cases h
  | hostService => cases h
  | serviceRefused => cases h
  | svcReply => cases h
  | softPreemption => cases h
  | hardPreemption => cases h
  | drainLimit => cases h
  | save => cases h
  | preemptResume => cases h
  | ingressWrite => cases h
  | ingCfgWrite => cases h
  | ingErrClear => cases h
  | granuleAssign => cases h
  | granuleZeroed => cases h
  | partCfgWrite => cases h
  | partReset => cases h
  | ownClaim => cases h
  | ownSucc => cases h
  | registerWrite => cases h
  | registerReadClear => cases h
  | packageReset => cases h
  | bringUp => cases h
  | attestationRequest => cases h
  | corePowerGate => cases h
  | thermalLimit => cases h
  | correctableError => cases h
  | uncorrectableError => cases h
  | elementStateError => cases h
  | coreStateError => cases h
  | clusterControlError => cases h
  | hbmStackFailure => cases h
  | ucieLinkError => cases h
  | serviceCoreFailure => cases h
  | packageError => cases h
  | flitReceive => cases h
  | linkRetrain => cases h
  | linkDown => cases h
  | linkUp => cases h
  | lnkCtlWrite => cases h
  | ensSelfWrite => cases h
  | remoteItemArrival => cases h
  | acknowledgement => cases h
  | e2eTimeout => cases h
  | markerArrival => cases h
  | rollback => cases h
  | powerGatingReturn => cases h
  | objectUnload => cases h
  | coreAssignment => cases h
  | routedRecordArrival => cases h
  | firmwareUpdate => cases h

/-- The whole effect of such a firing, whichever of the common cases it meets: it sends tokens or it faults; it never waits. -/
theorem effect_common {op : BitVec 9} {sp : OpSpec} {mn : Meaning} (hm : CommonMeaning op mn) (hpp : sp.pPort = false) (f : Fire) (m : Mem)
    (hw : Hw) : (∃ ts, effect sp mn f m hw = emitAll f hw ts) ∨ ∃ c d, effect sp mn f m hw = .error (.fault c d) := by
  unfold effect
  simp only [hm.endMode, hm.ls, hm.ownNull, hm.notFire, hm.poison, hm.pre, hpp, bind, Except.bind, nullLs]
  have hb := hm.body f m hw
  have hn : ∃ ts, mn.onNull f m hw = emitAll f hw ts := by
    have := hm.onNull
    split at this <;> rw [this]
    · unfold nullOrPoison; split
      · split
        · exact ⟨_, rfl⟩
        · exact ⟨_, rfl⟩
      · exact ⟨_, rfl⟩
    · exact ⟨_, rfl⟩
  have he : ∃ ts, passEnd f m hw = emitAll f hw ts := by
    unfold passEnd; split
    · exact ⟨_, rfl⟩
    · exact ⟨[], rfl⟩
  by_cases hd : dropped hw f = true
  · simp only [hd, if_true]
    exact .inl ⟨[tokOf f .null], by unfold passNotFire; cases emitAll f hw [tokOf f .null] <;> rfl⟩
  · simp only [hd]
    cases hwf : wordFault sp f.w (frameAt (coreAt hw f.core) f.frame).header with
    | some d => exact .inr ⟨cILLFIELD, d, rfl⟩
    | none =>
      simp only [Bool.false_eq_true, if_false]
      split
      · exact hb
      · split
        · split
          · exact .inl he
          · exact .inr ⟨_, _, rfl⟩
        · simp only [reduceCtorEq, decide_false, Bool.false_and, Bool.false_eq_true, if_false]
          split
          · exact .inl ⟨_, rfl⟩
          · exact .inl ⟨_, rfl⟩
          · split
            · exact .inl hn
            · simp only [ne_eq, not_true, decide_false, Bool.false_and, Bool.false_eq_true, if_false]; exact hb

end Sys2Proof.Machine
end

