-- ==== Sys2Proof/Laws/Memory.lean ====
section
/-! SUPPORT. Every operation on memory keeps the form `Memory.wf`; what a byte reads after a write. -/
namespace Sys2Proof.Machine

/-! ## The form, opened once -/

theorem wf_iff (m : Mem) : Memory.wf m = true ↔ tcanon 0 m.bytes = true ∧ sorted m.poison = true ∧ sorted m.dead = true := by
  simp [Memory.wf, and_assoc]

theorem wf_reset : Memory.wf State.reset.mem = true := rfl

/-- A memory with other poison, taken from the old by a filter. -/
theorem wf_poison_filter (m : Mem) (p : Nat → Bool) (h : Memory.wf m = true) :
    Memory.wf { m with poison := m.poison.filter p } = true := by
  rw [wf_iff] at h ⊢; exact ⟨h.1, sorted_filter p _ h.2.1, h.2.2⟩

/-- The memory of an answer that is a pair. -/
theorem fst_of_some {m : Mem} {hw : Hw} {x : Mem × Hw} (h : some x = some (m, hw)) : m = x.1 :=
  (congrArg Prod.fst (Option.some.inj h)).symm

/-- The memory of an answer that may be none. -/
theorem getD_wf {o : Option (Mem × Hw)} {x : Mem × Hw} (hx : Memory.wf x.1 = true)
    (ho : ∀ m hw, o = some (m, hw) → Memory.wf m = true) : Memory.wf (o.getD x).1 = true := by
  cases o with
  | none => exact hx
  | some y => exact ho y.1 y.2 rfl

/-- A fold of steps that keep a property keeps it. -/
theorem foldl_keeps {σ β : Type} (P : σ → Prop) (g : σ → β → σ) (hg : ∀ s b, P s → P (g s b)) (l : List β) (s : σ)
    (h : P s) : P (l.foldl g s) := by
  induction l generalizing s with
  | nil => exact h
  | cons b r ih => exact ih _ (hg s b h)

/-- The memory of every answer of an operation that may have none is in the form. -/
def WfAll {α : Type} (o : Option (Mem × α)) : Prop := ∀ y, o = some y → Memory.wf y.1 = true

theorem wfAll_none {α : Type} : WfAll (none : Option (Mem × α)) := fun _ h => nomatch h

theorem wfAll_some {α : Type} {y : Mem × α} (h : Memory.wf y.1 = true) : WfAll (some y) := by
  intro z e; cases e; exact h

theorem wfAll_bind {α β : Type} {o : Option (Mem × α)} {g : Mem × α → Option (Mem × β)} (h : WfAll o)
    (hg : ∀ y, Memory.wf y.1 = true → WfAll (g y)) : WfAll (o.bind g) := by
  cases o with
  | none => exact wfAll_none
  | some y => exact hg y (h y rfl)

theorem wfAll_map {α β : Type} {o : Option (Mem × α)} {g : Mem × α → Mem × β} (h : WfAll o)
    (hg : ∀ y, Memory.wf y.1 = true → Memory.wf (g y).1 = true) : WfAll (o.map g) := by
  cases o with
  | none => exact wfAll_none
  | some y => exact wfAll_some (hg y (h y rfl))

/-- An operation on something else that keeps the memory beside it. -/
theorem wfAll_beside {α : Type} (o : Option α) (m : Mem) (h : Memory.wf m = true) : WfAll (o.map fun x => (m, x)) := by
  cases o with
  | none => exact wfAll_none
  | some x => exact wfAll_some h

/-! ## Bytes -/

/-- A byte reads what was written at its address, and every other byte as before. -/
theorem memByte_putByte (m : Mem) (a j : Nat) (b : Byte) : memByte (putByte m a b) j = if j = a then b else memByte m j :=
  tget_tput m.bytes 0 a j b

/-- A run of bytes written at `a` changes no byte below `a` or beyond the run. -/
theorem memByte_putBytes_out (m : Mem) (a j : Nat) (l : List Byte) (h : j < a ∨ a + l.length ≤ j) :
    memByte (putBytes m a l) j = memByte m j := by
  induction l generalizing m a with
  | nil => rfl
  | cons b r ih =>
    simp only [List.length_cons] at h
    rw [putBytes, ih _ _ (by omega), memByte_putByte, if_neg (by omega)]

/-- A run of bytes written at `a` reads back. -/
theorem memByte_putBytes_in (m : Mem) (a i : Nat) (l : List Byte) (h : i < l.length) :
    memByte (putBytes m a l) (a + i) = l[i] := by
  induction l generalizing m a i with
  | nil => simp at h
  | cons b r ih =>
    cases i with
    | zero => rw [putBytes, memByte_putBytes_out _ _ _ _ (by omega), memByte_putByte]; simp
    | succ k =>
      simp only [List.length_cons] at h
      rw [putBytes, show a + (k + 1) = (a + 1) + k by omega, ih _ _ _ (by omega)]; simp

/-- Poison changes no byte. -/
theorem memByte_poisonRange (m : Mem) (a w j : Nat) : memByte (poisonRange m a w) j = memByte m j :=
  foldl_keeps (fun x => memByte x j = memByte m j) poisonLine (fun _ _ h => h) _ _ rfl

/-- A store of `w` bytes changes no byte outside them. -/
theorem memByte_memStore_out (m : Mem) (a w v j : Nat) (p : Bool) (h : j < a ∨ a + w ≤ j) :
    memByte (memStore m a w v p) j = memByte m j := by
  unfold memStore
  have hl : (bytesOf w v).length = w := by simp [bytesOf]
  split
  · rw [memByte_poisonRange, memByte_putBytes_out _ _ _ _ (by omega)]
  · rw [memByte_putBytes_out _ _ _ _ (by omega)]

/-- A store of `w` bytes reads back byte by byte, little-endian. -/
theorem memByte_memStore_in (m : Mem) (a w v i : Nat) (p : Bool) (h : i < w) :
    memByte (memStore m a w v p) (a + i) = byteOf v i := by
  unfold memStore
  have hl : i < (bytesOf w v).length := by simpa [bytesOf] using h
  split
  · rw [memByte_poisonRange, memByte_putBytes_in _ _ _ _ hl]; simp [bytesOf]
  · rw [memByte_putBytes_in _ _ _ _ hl]; simp [bytesOf]

/-! ## The memory operations keep the form -/

theorem putByte_wf (m : Mem) (a : Nat) (b : Byte) (h : Memory.wf m = true) : Memory.wf (putByte m a b) = true := by
  rw [wf_iff] at h ⊢; exact ⟨tcanon_tput 0 _ _ _ h.1, h.2⟩

theorem putBytes_wf (m : Mem) (a : Nat) (l : List Byte) (h : Memory.wf m = true) : Memory.wf (putBytes m a l) = true := by
  induction l generalizing m a with
  | nil => exact h
  | cons b r ih => exact ih _ _ (putByte_wf m a b h)

theorem poisonLine_wf (m : Mem) (l : Nat) (h : Memory.wf m = true) : Memory.wf (poisonLine m l) = true := by
  rw [wf_iff] at h ⊢; exact ⟨h.1, sorted_sins _ _ h.2.1, h.2.2⟩

theorem poisonRange_wf (m : Mem) (a w : Nat) (h : Memory.wf m = true) : Memory.wf (poisonRange m a w) = true :=
  foldl_keeps (fun x => Memory.wf x = true) _ poisonLine_wf _ _ h

theorem cleanRange_wf (m : Mem) (a w : Nat) (h : Memory.wf m = true) : Memory.wf (cleanRange m a w) = true :=
  wf_poison_filter m _ h

theorem memStore_wf (m : Mem) (a w v : Nat) (p : Bool) (h : Memory.wf m = true) : Memory.wf (memStore m a w v p) = true := by
  unfold memStore
  split
  · exact poisonRange_wf _ _ _ (putBytes_wf _ _ _ h)
  · exact putBytes_wf _ _ _ h

theorem memZero_wf (m : Mem) (a w : Nat) (h : Memory.wf m = true) : Memory.wf (memZero m a w) = true := by
  rw [wf_iff] at h ⊢
  refine ⟨?_, sorted_filter _ _ h.2.1, h.2.2⟩
  exact tcanon_tkeep 0 (fun x => !(decide (a ≤ x ∧ x < a + w))) m.bytes h.1

theorem homeZero_wf (m : Mem) (hw : Hw) (l w : Nat) (h : Memory.wf m = true) : Memory.wf (homeZero m hw l w).1 = true := memZero_wf m l w h

theorem homeWrite_wf (m : Mem) (hw : Hw) (l w v : Nat) (p : Bool) (h : Memory.wf m = true) :
    Memory.wf (homeWrite m hw l w v p).1 = true := memStore_wf m l w v p h

theorem homeWriteBytes_wf (m : Mem) (hw : Hw) (l : Nat) (bs : List Byte) (p : Bool) (h : Memory.wf m = true) :
    Memory.wf (homeWriteBytes m hw l bs p).1 = true := by
  unfold homeWriteBytes
  cases p
  · exact cleanRange_wf _ _ _ (putBytes_wf _ _ _ h)
  · exact poisonRange_wf _ _ _ (putBytes_wf _ _ _ h)

/-! ## Translation, fetch, release -/

theorem translateNow_wf (m : Mem) (hw : Hw) (d k : Nat) (a : BitVec 10) (va : Nat) (wr : Bool) (h : Memory.wf m = true) :
    WfAll (translateNow m hw d k a va wr) := by
  unfold translateNow
  dsimp only
  repeat' split
  all_goals first
    | exact wfAll_some h
    | exact wfAll_none
    | (intro y e; simp only [Option.map_eq_some_iff] at e; obtain ⟨_, _, rfl⟩ := e; first | exact h | exact putBytes_wf _ _ _ h)

theorem retranslate_wf (m : Mem) (hw : Hw) (c : Nat) (b : Buffered) (h : Memory.wf m = true) : WfAll (retranslate m hw c b) := by
  unfold retranslate
  split
  · exact wfAll_some h
  · exact wfAll_map (translateNow_wf m hw _ _ _ _ _ h) fun _ k => k

theorem releaseStores_wf (c n : Nat) (m : Mem) (hw : Hw) (h : Memory.wf m = true) : WfAll (releaseStores c n m hw) := by
  induction n generalizing m hw with
  | zero => exact wfAll_some h
  | succ n ih =>
    unfold releaseStores
    dsimp only
    split
    · exact wfAll_some h
    · split
      · exact wfAll_some h
      next b rest _ =>
        have hr := retranslate_wf m hw c b h
        split
        · exact wfAll_none
        next e => exact wfAll_some (hr _ e)
        next e =>
          split
          · exact wfAll_some (hr _ e)
          · exact ih _ _ (hr _ e)

theorem drainReleases_wf (m : Mem) (hw : Hw) (c : Nat) (h : Memory.wf m = true) : WfAll (drainReleases m hw c) :=
  releaseStores_wf c _ m hw h

theorem fetchPages_wf (m : Mem) (hw : Hw) (c : Nat) (a : BitVec 10) (lo : Nat) (l : List Nat) (h : Memory.wf m = true) :
    WfAll (fetchPages m hw c a lo l) := by
  induction l generalizing m hw with
  | nil => exact wfAll_some h
  | cons p r ih =>
    refine wfAll_bind (translateNow_wf m hw _ _ _ _ _ h) fun y k => ?_
    dsimp only
    split
    · exact wfAll_some k
    · split
      · exact wfAll_none
      · split
        · exact wfAll_some k
        · exact wfAll_map (ih _ _ k) fun _ k => k

theorem fetchBlock_wf (m : Mem) (hw : Hw) (c : Nat) (a : BitVec 10) (r : BitVec 32) (n : Nat) (h : Memory.wf m = true) :
    WfAll (fetchBlock m hw c a r n) := by
  unfold fetchBlock
  dsimp only
  repeat' split
  all_goals first | exact wfAll_some h | exact wfAll_map (fetchPages_wf _ _ _ _ _ _ h) fun _ k => k

theorem blockFrame_wf (m : Mem) (hw : Hw) (c : Nat) (a : BitVec 10) (r : BitVec 32) (n : Nat) (h : Memory.wf m = true) :
    WfAll (blockFrame m hw c a r n) := by
  unfold blockFrame
  split
  · exact wfAll_some h
  · split
    · exact wfAll_none
    · refine wfAll_map (fetchBlock_wf m hw c a r n h) fun y k => ?_
      dsimp only
      split <;> exact k

/-! ## Tasks, saves, restores -/

theorem putArea_wf (m : Mem) (hw : Hw) (c n : Nat) (t : Task) (h : Memory.wf m = true) : Memory.wf (putArea m hw c n t).1 = true :=
  foldl_keeps (fun x => Memory.wf x = true) _ (fun _ _ k => poisonLine_wf _ _ k) _ _
    (foldl_keeps (fun x => Memory.wf x = true) _ (fun _ _ k => putByte_wf _ _ _ k) _ _ h)

theorem startOn_wf (m : Mem) (hw : Hw) (c : Nat) (t : Task) (h : Memory.wf m = true) : WfAll (startOn m hw c t) := by
  intro y he
  unfold startOn at he
  dsimp only at he
  split at he
  next hw1 n _ _ =>
    have hb := blockFrame_wf m hw1 c t.asid (startBlock hw t).1 (startBlock hw t).2 h
    revert he
    generalize blockFrame m hw1 c t.asid (startBlock hw t).1 (startBlock hw t).2 = o at hb
    intro he
    cases o with
    | none => cases he; exact putArea_wf _ _ _ _ _ h
    | some r =>
      dsimp only [Option.map_some, Option.getD_some] at he
      split at he <;> (cases he; exact putArea_wf _ _ _ _ _ (hb r rfl))
  next => cases he

theorem saveTask_wf (m : Mem) (hw : Hw) (t : Task) (h : Memory.wf m = true) : Memory.wf (saveTask m hw t).1 = true :=
  memZero_wf _ _ _ h

theorem saveRegion_wf (d : Bool) (x : Mem × Hw × SavedWork) (k i : Nat) (r : Region) (h : Memory.wf x.1 = true) :
    Memory.wf (saveRegion d x k i r).1 = true :=
  foldl_keeps (fun x : Mem × Hw => Memory.wf x.1 = true) _ (fun _ _ k => homeZero_wf _ _ _ _ k) _ _ h

theorem saveVictim_wf (m : Mem) (hw : Hw) (a : BitVec 10) (d : Bool) (h : Memory.wf m = true) :
    Memory.wf (saveVictim m hw a d).1 = true := by
  unfold saveVictim
  refine foldl_keeps (fun x : Mem × Hw × SavedWork => Memory.wf x.1 = true) _ (fun _ _ k => saveRegion_wf _ _ _ _ _ k) _ _ ?_
  refine foldl_keeps (fun x : Mem × Hw => Memory.wf x.1 = true) _ (fun x t k => ?_) _ _ h
  split
  · exact saveTask_wf _ _ _ k
  · exact k

theorem restoreVictim_wf (m : Mem) (hw : Hw) (w : SavedWork) (h : Memory.wf m = true) : Memory.wf (restoreVictim m hw w).1 = true :=
  foldl_keeps (fun x => Memory.wf x = true) _ poisonLine_wf _ _
    (foldl_keeps (fun x => Memory.wf x = true) _ (fun _ _ k => putByte_wf _ _ _ k) _ _ h)

theorem preResume_wf (m : Mem) (hw : Hw) (b : Writer) (v : Word) (h : Memory.wf m = true) (m' : Mem) (hw' : Hw)
    (he : preResume m hw b v = some (m', hw')) : Memory.wf m' = true := by
  unfold preResume at he
  dsimp only at he
  repeat' split at he
  all_goals first
    | (cases he; done)
    | (simp only [Option.some.injEq, Prod.mk.injEq] at he; rw [← he.1]; exact h)
    | (rw [fst_of_some he]; exact restoreVictim_wf _ _ _ h)

/-! ## Partitions -/

theorem passCore_wf (m : Mem) (hw : Hw) (c : Nat) (h : Memory.wf m = true) : Memory.wf (passCore m hw c).1 = true := memZero_wf _ _ _ h

theorem passCluster_wf (m : Mem) (hw : Hw) (k : Nat) (h : Memory.wf m = true) : Memory.wf (passCluster m hw k).1 = true := by
  have hk := fun l => foldl_keeps (fun x : Mem × Hw => Memory.wf x.1 = true) (fun x i => passCore x.1 x.2 (k * 8 + i))
    (fun x _ j => passCore_wf x.1 x.2 _ j) l (m, hw) h
  unfold passCluster
  exact hk _

theorem partReset_wf (m : Mem) (hw : Hw) (p : Nat) (h : Memory.wf m = true) : Memory.wf (partReset m hw p).1 = true :=
  foldl_keeps (fun x : Mem × Hw => Memory.wf x.1 = true) _ (fun _ _ k => passCluster_wf _ _ _ k) _ _ h

theorem partCfgWrite_wf (m : Mem) (hw : Hw) (n : Nat) (v : Word) (h : Memory.wf m = true) : Memory.wf (partCfgWrite m hw n v).1 = true := by
  unfold partCfgWrite
  dsimp only
  split
  · exact h
  · exact foldl_keeps (fun x : Mem × Hw => Memory.wf x.1 = true) _ (fun _ _ k => passCluster_wf _ _ _ k) _ _ h

/-! ## Registers, homes -/

theorem regSet_wf (b : Writer) (m : Mem) (hw : Hw) (r : Reg) (v : Word) (h : Memory.wf m = true) (m' : Mem) (hw' : Hw)
    (he : regSet b m hw r v = some (m', hw')) : Memory.wf m' = true := by
  unfold regSet at he
  dsimp only at he
  repeat' split at he
  all_goals first
    | (cases he; done)
    | (simp only [Option.some.injEq, Prod.mk.injEq] at he; rw [← he.1]; exact h)
    | (rw [fst_of_some he]; first | exact partCfgWrite_wf _ _ _ _ h | exact partReset_wf _ _ _ h)
    | exact preResume_wf _ _ _ _ h _ _ he

theorem regWrite_wf (b : Writer) (m : Mem) (hw : Hw) (l : Nat) (v : Word) (h : Memory.wf m = true) (m' : Mem) (hw' : Hw)
    (he : regWrite b m hw l v = some (m', hw')) : Memory.wf m' = true := by
  unfold regWrite at he
  split at he
  · simp only [Option.some.injEq, Prod.mk.injEq] at he; rw [← he.1]; exact h
  · split at he
    · exact regSet_wf _ _ _ _ _ h _ _ he
    · simp only [Option.some.injEq, Prod.mk.injEq] at he; rw [← he.1]; exact h

theorem regStore_wf (a : BitVec 10) (m : Mem) (hw : Hw) (l : Nat) (v : Word) (h : Memory.wf m = true) (m' : Mem) (hw' : Hw)
    (he : regStore a m hw l v = some (m', hw')) : Memory.wf m' = true := by
  unfold regStore at he
  split at he
  · simp only [Option.some.injEq, Prod.mk.injEq] at he; rw [← he.1]; exact h
  · split at he
    · exact regSet_wf _ _ _ _ _ h _ _ he
    · simp only [Option.some.injEq, Prod.mk.injEq] at he; rw [← he.1]; exact h

theorem homePut_wf (a : BitVec 10) (m : Mem) (hw : Hw) (l w v : Nat) (p : Bool) (h : Memory.wf m = true) (m' : Mem) (hw' : Hw)
    (he : homePut a m hw l w v p = some (m', hw')) : Memory.wf m' = true := by
  unfold homePut at he
  split at he
  · split at he
    · exact regStore_wf _ _ _ _ _ h _ _ he
    · simp only [Option.some.injEq, Prod.mk.injEq] at he; rw [← he.1]; exact h
  · rw [fst_of_some he]; exact homeWrite_wf _ _ _ _ _ _ h

theorem atomAt_wf (a : BitVec 10) (m : Mem) (hw : Hw) (op l w : Nat) (y z : Word) (p : Bool) (h : Memory.wf m = true)
    (r : Nat × Bool × Mem × Hw) (he : atomAt a m hw op l w y z p = some r) : Memory.wf r.2.2.1 = true := by
  unfold atomAt at he
  dsimp only at he
  split at he
  · cases he; exact h
  · simp only [Option.map_eq_some_iff] at he
    obtain ⟨b, hb, rfl⟩ := he
    exact homePut_wf _ _ _ _ _ _ _ h _ _ hb

theorem performAt_wf (m : Mem) (hw : Hw) (a : Access) (h : Memory.wf m = true) (m' : Mem) (hw' : Hw)
    (he : performAt m hw a = some (m', hw')) : Memory.wf m' = true := by
  unfold performAt at he
  dsimp only at he
  split at he
  · simp only [Option.map_eq_some_iff] at he
    obtain ⟨x, hx, hr⟩ := he
    cases hr
    exact homePut_wf _ _ _ _ _ _ _ h _ _ hx
  · simp only [Option.map_eq_some_iff] at he
    obtain ⟨x, hx, hr⟩ := he
    cases hr
    exact atomAt_wf _ _ _ _ _ _ _ _ _ h _ hx
  all_goals (simp only [Option.some.injEq, Prod.mk.injEq] at he; rw [← he.1]; exact h)

/-! ## Objects -/

theorem writeVa_wf (m : Mem) (hw : Hw) (a : BitVec 10) (va : Nat) (bs : List Byte) (h : Memory.wf m = true) :
    Memory.wf (writeVa m hw a va bs).1 = true := by
  refine foldl_keeps (fun x : Mem × Hw => Memory.wf x.1 = true) _ (fun x l k => ?_) _ _ h
  dsimp only
  split
  · exact k
  · split
    · exact homeWriteBytes_wf _ _ _ _ _ k
    · exact k

theorem mapFrom_wf (va : Nat) (w : Bool) (ls : List PtLevel) (t : Nat) (x : Mem × Hw × List Nat) (h : Memory.wf x.1 = true) :
    WfAll (mapFrom va w ls t x) := by
  induction ls generalizing t x with
  | nil => exact wfAll_some h
  | cons lv rest ih =>
    obtain ⟨m, hw, pages⟩ := x
    unfold mapFrom
    dsimp only
    repeat' split
    all_goals first
      | exact wfAll_none
      | (refine wfAll_some ?_; dsimp only
         first | exact h | exact homeWrite_wf _ _ _ _ _ _ h | exact homeWrite_wf _ _ _ _ _ _ (homeZero_wf _ _ _ _ h))
      | (refine ih _ _ ?_; dsimp only; first | exact h | exact homeWrite_wf _ _ _ _ _ _ (homeZero_wf _ _ _ _ h))

theorem foldlM_keeps {σ β : Type} (P : σ → Prop) (g : σ → β → Option σ) (hg : ∀ s b, P s → ∀ t, g s b = some t → P t) (l : List β)
    (s t : σ) (h : P s) (e : l.foldlM g s = some t) : P t := by
  induction l generalizing s with
  | nil => cases e; exact h
  | cons b r ih =>
    simp only [List.foldlM_cons, bind, Option.bind_eq_some_iff] at e
    obtain ⟨u, hu, e⟩ := e
    exact ih u (hg s b h u hu) e

theorem mapRange_wf (m : Mem) (hw : Hw) (a : BitVec 10) (va len : Nat) (w : Bool) (pages : List Nat) (h : Memory.wf m = true) :
    WfAll (mapRange m hw a va len w pages) := by
  unfold mapRange
  dsimp only
  split
  · exact wfAll_some h
  · intro y e
    exact foldlM_keeps (fun x : Mem × Hw × List Nat => Memory.wf x.1 = true) _ (fun s b k => mapFrom_wf _ _ _ _ s k) _ _ _ h e

theorem storeParts_wf (a : BitVec 10) (l : List (Nat × List Byte × Bool)) (x : Mem × Hw × List Nat) (h : Memory.wf x.1 = true) :
    WfAll (storeParts a l x) := by
  induction l generalizing x with
  | nil => exact wfAll_some h
  | cons b r ih =>
    obtain ⟨m, hw, pages⟩ := x
    obtain ⟨va, bs, w⟩ := b
    exact wfAll_bind (mapRange_wf m hw a va _ w pages h) fun y k => ih _ (writeVa_wf y.1 y.2.1 a va bs k)

theorem keepObject_wf (m : Mem) (hw : Hw) (a : BitVec 10) (pages : List Nat) (img : List Byte) (o : Obj) (h : Memory.wf m = true) :
    WfAll (keepObject m hw a pages img o) := by
  unfold keepObject
  generalize takeHandle hw a (.object o) = p
  exact storeParts_wf a _ _ h

/-! ## Halyard, streams, fabric -/

theorem writeLine_wf (a : BitVec 10) (m : Mem) (hw : Hw) (l : Nat) (bs : PsnBytes) (h : Memory.wf m = true) :
    Memory.wf (writeLine a m hw l bs).1 = true := by
  unfold writeLine
  split
  · refine foldl_keeps (fun x : Mem × Hw => Memory.wf x.1 = true) _ ?_ _ (m, hw) h
    intro x p k
    exact getD_wf k fun m' hw' e => homePut_wf _ _ _ _ _ _ _ k m' hw' e
  · exact homeWriteBytes_wf _ _ _ _ _ h

theorem writeUnit_wf (a : BitVec 10) (m : Mem) (hw : Hw) (l : Nat) (bs : PsnBytes) (h : Memory.wf m = true) :
    Memory.wf (writeUnit a m hw l bs).1 = true :=
  foldl_keeps (fun x : Mem × Hw => Memory.wf x.1 = true) _ (fun _ _ k => writeLine_wf _ _ _ _ _ k) _ _ h

theorem cleanUnit_wf (m : Mem) (r : HalReq) (u : Nat) (t : Int) (l : Nat) (h : Memory.wf m = true) :
    Memory.wf (cleanUnit m r u t l) = true := by
  refine foldl_keeps (fun x => Memory.wf x = true) _ (fun x a k => ?_) _ _ h
  split
  · exact cleanRange_wf _ _ _ k
  · exact k

theorem reduceUnit_wf (a : BitVec 10) (m : Mem) (hw : Hw) (d : List Word) (l : Nat) (bs : PsnBytes) (h : Memory.wf m = true) :
    Memory.wf (reduceUnit a m hw d l bs).1 = true := by
  refine foldl_keeps (fun x : Mem × Hw => Memory.wf x.1 = true) _ ?_ _ (m, hw) h
  intro x p k
  exact getD_wf k fun m' hw' e => homePut_wf _ _ _ _ _ _ _ k m' hw' e

theorem unitRun_wf (m : Mem) (hw : Hw) (cl n : Nat) (r : HalReq) (h : Memory.wf m = true) (m' : Mem) (hw' : Hw)
    (he : unitRun m hw cl n r = .ok (m', hw')) : Memory.wf m' = true := by
  unfold unitRun at he
  simp only [bind, Except.bind] at he
  repeat' split at he
  all_goals first
    | (cases he; done)
    | (simp only [Except.ok.injEq, Prod.mk.injEq] at he; rw [← he.1]
       first | exact h | exact cleanUnit_wf _ _ _ _ _ (reduceUnit_wf _ _ _ _ _ _ h) | exact cleanUnit_wf _ _ _ _ _ (writeUnit_wf _ _ _ _ _ h))

theorem halComplete_wf (m : Mem) (hw : Hw) (cl n : Nat) (r : HalReq) (h : Memory.wf m = true) (m' : Mem) (hw' : Hw)
    (he : halComplete m hw cl n r = .ok (m', hw')) : Memory.wf m' = true := by
  unfold halComplete at he
  dsimp only at he
  repeat' split at he
  all_goals first
    | (cases he; done)
    | (simp only [Except.ok.injEq, Prod.mk.injEq] at he; rw [← he.1]; first | exact h | exact writeUnit_wf _ _ _ _ _ h)

theorem spreadZeros_wf (m : Mem) (hw : Hw) (a w n : Nat) (h : Memory.wf m = true) : Memory.wf (spreadZeros m hw a w n).1 = true :=
  foldl_keeps (fun x : Mem × Hw => Memory.wf x.1 = true) _ (fun _ _ k => homeWrite_wf _ _ _ _ _ _ k) _ _ h

theorem closeSpread_wf (m : Mem) (hw : Hw) (c u : Nat) (s : Site) (r : TileRange) (d : Bool) (mk : List Nat)
    (h : Memory.wf m = true) : Memory.wf (closeSpread m hw c u s r d mk).mem = true := by
  unfold closeSpread
  dsimp only
  split
  · exact h
  · exact wf_poison_filter m _ h

theorem performRemote_wf (m : Mem) (hw : Hw) (lc u : Nat) (r : RemoteOp) (h : Memory.wf m = true) :
    Memory.wf (performRemote m hw lc u r).1 = true := by
  unfold performRemote
  dsimp only
  repeat' split
  all_goals first | exact h | exact memStore_wf _ _ _ _ _ h

/-! ## Cuts -/

theorem cutSave_wf (m : Mem) (hw : Hw) (h : Memory.wf m = true) : Memory.wf (cutSave m hw).1 = true := by
  unfold cutSave
  refine foldl_keeps (fun x : Mem × Hw => Memory.wf x.1 = true) _ ?_ _ _ h
  intro x a k
  exact saveVictim_wf x.1 x.2 a true k

theorem worksBack_wf (l : List (BitVec 10 × SavedWork)) (m : Mem) (hw : Hw) (h : Memory.wf m = true) : WfAll (worksBack l m hw) := by
  induction l generalizing m hw with
  | nil => exact wfAll_some h
  | cons w r ih =>
    unfold worksBack
    split
    · exact wfAll_none
    · exact ih _ _ (restoreVictim_wf m hw w.2 h)

theorem cutResume_wf (m : Mem) (hw : Hw) (h : Memory.wf m = true) : WfAll (cutResume m hw) := worksBack_wf _ _ _ h

theorem cleanLeaves_wf (m : Mem) (hw : Hw) (d : Nat) (ls : List (Nat × Nat × Nat × Nat)) (h : Memory.wf m = true) :
    Memory.wf (cleanLeaves m hw d ls).1 = true :=
  foldl_keeps (fun x : Mem × Hw => Memory.wf x.1 = true) _ (fun _ _ k => homeWriteBytes_wf _ _ _ _ _ k) _ (m, hw) h

theorem cutWrite_wf (m : Mem) (hw : Hw) (d : Nat) (h : Memory.wf m = true) : Memory.wf (cutWrite m hw d).1 = true := by
  unfold cutWrite
  split
  · exact h
  · dsimp only
    split
    · exact h
    · exact cleanLeaves_wf _ _ _ _ h

theorem cutAbandon_wf (n : Nat) (m : Mem) (hw : Hw) (h : Memory.wf m = true) : WfAll (cutAbandon n m hw) :=
  wfAll_map (cutResume_wf _ _ h) fun _ k => k

theorem cutRestore_wf (m : Mem) (hw : Hw) (r : CutRec) (h : Memory.wf m = true) : WfAll (cutRestore m hw r) := by
  unfold cutRestore
  dsimp only
  split
  · exact wfAll_some h
  · exact cutResume_wf _ _ h

theorem imageBack_wf (m : Mem) (r : CutRec) (h : Memory.wf m = true) : Memory.wf (imageBack m r) = true :=
  foldl_keeps (fun x => Memory.wf x = true) _ poisonLine_wf _ _
    (foldl_keeps (fun x => Memory.wf x = true) _ (fun _ _ k => putByte_wf _ _ _ k) _ _
      (foldl_keeps (fun x => Memory.wf x = true) _ (fun _ _ k => memZero_wf _ _ _ k) _ _ h))

end Sys2Proof.Machine
end

