-- ==== Sys2Proof/Laws/PerInstr.lean ====
section
/-! SUPPORT. Statements made per instruction: the OP and fields that the encoder writes for a well-formed instruction word are those from which the decoder makes it again. -/
namespace Sys2Proof.Laws.Encodes

/-- A well-formed instruction word is what the decoder's table makes of its OP and fields. -/
def Statement (i : Instr) : Prop :=
  ∀ op f, wellFormed i = true → opFields i = some (op, f) → ∃ g, opInstr op = some g ∧ g f = i

/-- An instruction whose OP the table gives to its own constructor. -/
theorem of_table {i : Instr} {op : BitVec 9} {f : Fields} {g : Fields → Instr} (ho : opFields i = some (op, f)) (hg : opInstr op = some g)
    (hi : g f = i) : Statement i := by
  intro op' f' _ h
  rw [ho] at h
  cases h
  exact ⟨g, hg, hi⟩

/-- An instruction whose OP it shares with others, told apart by a field. -/
theorem of_form {i : Instr} {op : BitVec 9} {f : Fields} {g : Fields → Instr} (ho : opFields i = some (op, f)) (hg : opInstr op = some g)
    (hi : wellFormed i = true → g f = i) : Statement i := by
  intro op' f' hw h
  rw [ho] at h
  cases h
  exact ⟨g, hg, hi hw⟩

/-- An event has no OP. -/
theorem of_event {i : Instr} (h : opFields i = none) : Statement i := by
  intro op f _ h'
  rw [h] at h'
  cases h'

theorem mov (w : Fields) : Statement (.mov w) := of_table rfl rfl rfl
theorem const (w : Fields) : Statement (.const w) := of_table rfl rfl rfl
theorem fan (w : Fields) : Statement (.fan w) := of_table rfl rfl rfl
theorem steer (w : Fields) : Statement (.steer w) := of_table rfl rfl rfl
theorem merge (w : Fields) : Statement (.merge w) := of_table rfl rfl rfl
theorem gate (w : Fields) : Statement (.gate w) := of_table rfl rfl rfl
theorem sink (w : Fields) : Statement (.sink w) := of_table rfl rfl rfl
theorem nullgen (w : Fields) : Statement (.nullgen w) := of_table rfl rfl rfl
theorem isnull (w : Fields) : Statement (.isnull w) := of_table rfl rfl rfl
theorem coalesce (w : Fields) : Statement (.coalesce w) := of_table rfl rfl rfl
theorem endm (w : Fields) : Statement (.endm w) := of_table rfl rfl rfl
theorem endrank (w : Fields) : Statement (.endrank w) := of_table rfl rfl rfl
theorem skip (w : Fields) : Statement (.skip w) := of_table rfl rfl rfl
theorem chsend (w : Fields) : Statement (.chsend w) := of_table rfl rfl rfl
theorem chrecv (w : Fields) : Statement (.chrecv w) := of_table rfl rfl rfl
theorem credit (w : Fields) : Statement (.credit w) := of_table rfl rfl rfl
theorem chopen (w : Fields) : Statement (.chopen w) := of_table rfl rfl rfl
theorem chclose (w : Fields) : Statement (.chclose w) := of_table rfl rfl rfl
theorem packt (w : Fields) : Statement (.packt w) := of_table rfl rfl rfl
theorem talloc (w : Fields) : Statement (.talloc w) := of_table rfl rfl rfl
theorem tfree (w : Fields) : Statement (.tfree w) := of_table rfl rfl rfl
theorem tnext (w : Fields) : Statement (.tnext w) := of_table rfl rfl rfl
theorem tidx (w : Fields) : Statement (.tidx w) := of_table rfl rfl rfl
theorem tset (w : Fields) : Statement (.tset w) := of_table rfl rfl rfl
theorem tget (w : Fields) : Statement (.tget w) := of_table rfl rfl rfl
theorem tcall (w : Fields) : Statement (.tcall w) := of_table rfl rfl rfl
theorem tret (w : Fields) : Statement (.tret w) := of_table rfl rfl rfl
theorem read (w : Fields) : Statement (.read w) :=
  of_form (g := readForm) rfl rfl fun h => by simp [wellFormed] at h; simp [readForm, h]
theorem readHoldAtOpen (w : Fields) : Statement (.readHoldAtOpen w) :=
  of_form (g := readForm) rfl rfl fun h => by simp [wellFormed] at h; simp [readForm, h]
theorem write (w : Fields) : Statement (.write w) := of_table rfl rfl rfl
theorem exit (w : Fields) : Statement (.exit w) := of_table rfl rfl rfl
theorem exitx (w : Fields) : Statement (.exitx w) := of_table rfl rfl rfl
theorem spawn (w : Fields) : Statement (.spawn w) := of_table rfl rfl rfl
theorem spawni (w : Fields) : Statement (.spawni w) := of_table rfl rfl rfl
theorem cntinit (w : Fields) : Statement (.cntinit w) := of_table rfl rfl rfl
theorem cntdec (w : Fields) : Statement (.cntdec w) := of_table rfl rfl rfl
theorem cntwait (w : Fields) : Statement (.cntwait w) := of_table rfl rfl rfl
theorem waita (w : Fields) : Statement (.waita w) := of_table rfl rfl rfl
theorem switch (w : Fields) : Statement (.switch w) := of_table rfl rfl rfl
theorem quiet (w : Fields) : Statement (.quiet w) := of_table rfl rfl rfl
theorem getid (w : Fields) : Statement (.getid w) := of_table rfl rfl rfl
theorem cycle (w : Fields) : Statement (.cycle w) := of_table rfl rfl rfl
theorem trap (w : Fields) : Statement (.trap w) := of_table rfl rfl rfl
theorem svc (w : Fields) : Statement (.svc w) := of_table rfl rfl rfl
theorem brk (w : Fields) : Statement (.brk w) := of_table rfl rfl rfl
theorem pin (w : Fields) : Statement (.pin w) := of_table rfl rfl rfl
theorem unpin (w : Fields) : Statement (.unpin w) := of_table rfl rfl rfl
theorem resq (w : Fields) : Statement (.resq w) := of_table rfl rfl rfl
theorem keyq (w : Fields) : Statement (.keyq w) := of_table rfl rfl rfl
theorem add (w : Fields) : Statement (.add w) := of_table rfl rfl rfl
theorem sub (w : Fields) : Statement (.sub w) := of_table rfl rfl rfl
theorem rsub (w : Fields) : Statement (.rsub w) := of_table rfl rfl rfl
theorem neg (w : Fields) : Statement (.neg w) := of_table rfl rfl rfl
theorem abs (w : Fields) : Statement (.abs w) := of_table rfl rfl rfl
theorem adds (w : Fields) : Statement (.adds w) := of_table rfl rfl rfl
theorem subs (w : Fields) : Statement (.subs w) := of_table rfl rfl rfl
theorem mul (w : Fields) : Statement (.mul w) := of_table rfl rfl rfl
theorem mulh (w : Fields) : Statement (.mulh w) := of_table rfl rfl rfl
theorem mulhz (w : Fields) : Statement (.mulhz w) := of_table rfl rfl rfl
theorem div (w : Fields) : Statement (.div w) := of_table rfl rfl rfl
theorem divz (w : Fields) : Statement (.divz w) := of_table rfl rfl rfl
theorem rem (w : Fields) : Statement (.rem w) := of_table rfl rfl rfl
theorem remz (w : Fields) : Statement (.remz w) := of_table rfl rfl rfl
theorem min (w : Fields) : Statement (.min w) := of_table rfl rfl rfl
theorem max (w : Fields) : Statement (.max w) := of_table rfl rfl rfl
theorem minz (w : Fields) : Statement (.minz w) := of_table rfl rfl rfl
theorem maxz (w : Fields) : Statement (.maxz w) := of_table rfl rfl rfl
theorem and (w : Fields) : Statement (.and w) := of_table rfl rfl rfl
theorem or (w : Fields) : Statement (.or w) := of_table rfl rfl rfl
theorem xor (w : Fields) : Statement (.xor w) := of_table rfl rfl rfl
theorem andn (w : Fields) : Statement (.andn w) := of_table rfl rfl rfl
theorem orn (w : Fields) : Statement (.orn w) := of_table rfl rfl rfl
theorem not (w : Fields) : Statement (.not w) := of_table rfl rfl rfl
theorem shl (w : Fields) : Statement (.shl w) := of_table rfl rfl rfl
theorem shr (w : Fields) : Statement (.shr w) := of_table rfl rfl rfl
theorem sar (w : Fields) : Statement (.sar w) := of_table rfl rfl rfl
theorem rol (w : Fields) : Statement (.rol w) := of_table rfl rfl rfl
theorem ror (w : Fields) : Statement (.ror w) := of_table rfl rfl rfl
theorem clz (w : Fields) : Statement (.clz w) := of_table rfl rfl rfl
theorem ctz (w : Fields) : Statement (.ctz w) := of_table rfl rfl rfl
theorem popc (w : Fields) : Statement (.popc w) := of_table rfl rfl rfl
theorem brev (w : Fields) : Statement (.brev w) := of_table rfl rfl rfl
theorem bswap (w : Fields) : Statement (.bswap w) := of_table rfl rfl rfl
theorem ext (w : Fields) : Statement (.ext w) := of_table rfl rfl rfl
theorem extz (w : Fields) : Statement (.extz w) := of_table rfl rfl rfl
theorem ins (w : Fields) : Statement (.ins w) := of_table rfl rfl rfl
theorem sext (w : Fields) : Statement (.sext w) := of_table rfl rfl rfl
theorem zext (w : Fields) : Statement (.zext w) := of_table rfl rfl rfl
theorem lea (w : Fields) : Statement (.lea w) := of_table rfl rfl rfl
theorem packw (w : Fields) : Statement (.packw w) := of_table rfl rfl rfl
theorem cmpeq (w : Fields) : Statement (.cmpeq w) := of_table rfl rfl rfl
theorem cmpne (w : Fields) : Statement (.cmpne w) := of_table rfl rfl rfl
theorem cmplt (w : Fields) : Statement (.cmplt w) := of_table rfl rfl rfl
theorem cmple (w : Fields) : Statement (.cmple w) := of_table rfl rfl rfl
theorem cmpltz (w : Fields) : Statement (.cmpltz w) := of_table rfl rfl rfl
theorem cmplez (w : Fields) : Statement (.cmplez w) := of_table rfl rfl rfl
theorem testz (w : Fields) : Statement (.testz w) := of_table rfl rfl rfl
theorem testnz (w : Fields) : Statement (.testnz w) := of_table rfl rfl rfl
theorem sel (w : Fields) : Statement (.sel w) := of_table rfl rfl rfl
theorem bound (w : Fields) : Statement (.bound w) := of_table rfl rfl rfl
theorem clamp (w : Fields) : Statement (.clamp w) := of_table rfl rfl rfl
theorem pand (w : Fields) : Statement (.pand w) := of_table rfl rfl rfl
theorem por (w : Fields) : Statement (.por w) := of_table rfl rfl rfl
theorem pnot (w : Fields) : Statement (.pnot w) := of_table rfl rfl rfl
theorem fadd (w : Fields) : Statement (.fadd w) := of_table rfl rfl rfl
theorem fsub (w : Fields) : Statement (.fsub w) := of_table rfl rfl rfl
theorem fmul (w : Fields) : Statement (.fmul w) := of_table rfl rfl rfl
theorem ffma (w : Fields) : Statement (.ffma w) := of_table rfl rfl rfl
theorem ffms (w : Fields) : Statement (.ffms w) := of_table rfl rfl rfl
theorem fmin (w : Fields) : Statement (.fmin w) := of_table rfl rfl rfl
theorem fmax (w : Fields) : Statement (.fmax w) := of_table rfl rfl rfl
theorem fabs (w : Fields) : Statement (.fabs w) := of_table rfl rfl rfl
theorem fneg (w : Fields) : Statement (.fneg w) := of_table rfl rfl rfl
theorem fcpys (w : Fields) : Statement (.fcpys w) := of_table rfl rfl rfl
theorem fcmpeq (w : Fields) : Statement (.fcmpeq w) := of_table rfl rfl rfl
theorem fcmplt (w : Fields) : Statement (.fcmplt w) := of_table rfl rfl rfl
theorem fcmple (w : Fields) : Statement (.fcmple w) := of_table rfl rfl rfl
theorem fcmpun (w : Fields) : Statement (.fcmpun w) := of_table rfl rfl rfl
theorem frcp (w : Fields) : Statement (.frcp w) := of_table rfl rfl rfl
theorem frsq (w : Fields) : Statement (.frsq w) := of_table rfl rfl rfl
theorem fsqrt (w : Fields) : Statement (.fsqrt w) := of_table rfl rfl rfl
theorem fdiv (w : Fields) : Statement (.fdiv w) := of_table rfl rfl rfl
theorem fexp2 (w : Fields) : Statement (.fexp2 w) := of_table rfl rfl rfl
theorem flog2 (w : Fields) : Statement (.flog2 w) := of_table rfl rfl rfl
theorem ftanh (w : Fields) : Statement (.ftanh w) := of_table rfl rfl rfl
theorem fsin (w : Fields) : Statement (.fsin w) := of_table rfl rfl rfl
theorem fcos (w : Fields) : Statement (.fcos w) := of_table rfl rfl rfl
theorem frnd (w : Fields) : Statement (.frnd w) := of_table rfl rfl rfl
theorem fscale (w : Fields) : Statement (.fscale w) := of_table rfl rfl rfl
theorem fgete (w : Fields) : Statement (.fgete w) := of_table rfl rfl rfl
theorem cvtf (w : Fields) : Statement (.cvtf w) := of_table rfl rfl rfl
theorem cvtfi (w : Fields) : Statement (.cvtfi w) := of_table rfl rfl rfl
theorem cvtif (w : Fields) : Statement (.cvtif w) := of_table rfl rfl rfl
theorem fclass (w : Fields) : Statement (.fclass w) := of_table rfl rfl rfl
theorem vadd (w : Fields) : Statement (.vadd w) := of_table rfl rfl rfl
theorem vsub (w : Fields) : Statement (.vsub w) := of_table rfl rfl rfl
theorem vmul (w : Fields) : Statement (.vmul w) := of_table rfl rfl rfl
theorem vmulh (w : Fields) : Statement (.vmulh w) := of_table rfl rfl rfl
theorem vadds (w : Fields) : Statement (.vadds w) := of_table rfl rfl rfl
theorem vsubs (w : Fields) : Statement (.vsubs w) := of_table rfl rfl rfl
theorem vmin (w : Fields) : Statement (.vmin w) := of_table rfl rfl rfl
theorem vmax (w : Fields) : Statement (.vmax w) := of_table rfl rfl rfl
theorem vavg (w : Fields) : Statement (.vavg w) := of_table rfl rfl rfl
theorem vshl (w : Fields) : Statement (.vshl w) := of_table rfl rfl rfl
theorem vshr (w : Fields) : Statement (.vshr w) := of_table rfl rfl rfl
theorem vsar (w : Fields) : Statement (.vsar w) := of_table rfl rfl rfl
theorem vcmpeq (w : Fields) : Statement (.vcmpeq w) := of_table rfl rfl rfl
theorem vcmplt (w : Fields) : Statement (.vcmplt w) := of_table rfl rfl rfl
theorem vsel (w : Fields) : Statement (.vsel w) := of_table rfl rfl rfl
theorem vsplat (w : Fields) : Statement (.vsplat w) := of_table rfl rfl rfl
theorem vshuf (w : Fields) : Statement (.vshuf w) := of_table rfl rfl rfl
theorem vpack (w : Fields) : Statement (.vpack w) := of_table rfl rfl rfl
theorem vunpkl (w : Fields) : Statement (.vunpkl w) := of_table rfl rfl rfl
theorem vunpkh (w : Fields) : Statement (.vunpkh w) := of_table rfl rfl rfl
theorem vredadd (w : Fields) : Statement (.vredadd w) := of_table rfl rfl rfl
theorem vredmax (w : Fields) : Statement (.vredmax w) := of_table rfl rfl rfl
theorem vredmin (w : Fields) : Statement (.vredmin w) := of_table rfl rfl rfl
theorem vdot (w : Fields) : Statement (.vdot w) := of_table rfl rfl rfl
theorem vfma (w : Fields) : Statement (.vfma w) := of_table rfl rfl rfl
theorem vfadd (w : Fields) : Statement (.vfadd w) := of_table rfl rfl rfl
theorem vfmul (w : Fields) : Statement (.vfmul w) := of_table rfl rfl rfl
theorem vfmax (w : Fields) : Statement (.vfmax w) := of_table rfl rfl rfl
theorem vcvt (w : Fields) : Statement (.vcvt w) := of_table rfl rfl rfl
theorem pfxc (w : Fields) : Statement (.pfxc w) := of_table rfl rfl rfl
theorem isect (w : Fields) : Statement (.isect w) := of_table rfl rfl rfl
theorem obt (w : Fields) : Statement (.obt w) := of_table rfl rfl rfl
theorem obti (w : Fields) : Statement (.obti w) := of_table rfl rfl rfl
theorem digit (w : Fields) : Statement (.digit w) := of_table rfl rfl rfl
theorem ld (w : Fields) : Statement (.ld w) := of_table rfl rfl rfl
theorem st (w : Fields) : Statement (.st w) := of_table rfl rfl rfl
theorem ldacq (w : Fields) : Statement (.ldacq w) := of_table rfl rfl rfl
theorem strel (w : Fields) : Statement (.strel w) := of_table rfl rfl rfl
theorem fence (w : Fields) : Statement (.fence w) := of_table rfl rfl rfl
theorem pref (w : Fields) : Statement (.pref w) := of_table rfl rfl rfl
theorem xlate (w : Fields) : Statement (.xlate w) := of_table rfl rfl rfl
theorem leap (w : Fields) : Statement (.leap w) := of_table rfl rfl rfl
theorem aadd (w : Fields) : Statement (.aadd w) := of_table rfl rfl rfl
theorem asub (w : Fields) : Statement (.asub w) := of_table rfl rfl rfl
theorem amin (w : Fields) : Statement (.amin w) := of_table rfl rfl rfl
theorem amax (w : Fields) : Statement (.amax w) := of_table rfl rfl rfl
theorem aminz (w : Fields) : Statement (.aminz w) := of_table rfl rfl rfl
theorem amaxz (w : Fields) : Statement (.amaxz w) := of_table rfl rfl rfl
theorem aand (w : Fields) : Statement (.aand w) := of_table rfl rfl rfl
theorem aor (w : Fields) : Statement (.aor w) := of_table rfl rfl rfl
theorem axor (w : Fields) : Statement (.axor w) := of_table rfl rfl rfl
theorem axchg (w : Fields) : Statement (.axchg w) := of_table rfl rfl rfl
theorem acas (w : Fields) : Statement (.acas w) := of_table rfl rfl rfl
theorem afadd (w : Fields) : Statement (.afadd w) := of_table rfl rfl rfl
theorem aincw (w : Fields) : Statement (.aincw w) := of_table rfl rfl rfl
theorem stream (w : Fields) : Statement (.stream w) := of_table rfl rfl rfl
theorem strmkQuery (w : Fields) : Statement (.strmkQuery w) :=
  of_form (g := strmkForm) rfl rfl fun h => by simp [wellFormed] at h; simp [strmkForm, h]
theorem strmkCancel (w : Fields) : Statement (.strmkCancel w) :=
  of_form (g := strmkForm) rfl rfl fun h => by simp [wellFormed] at h; simp [strmkForm, h]
theorem strmkDrain (w : Fields) : Statement (.strmkDrain w) :=
  of_form (g := strmkForm) rfl rfl fun h => by simp [wellFormed] at h; simp [strmkForm, h]
theorem wring (w : Fields) : Statement (.wring w) := of_table rfl rfl rfl
theorem spread (w : Fields) : Statement (.spread w) := of_table rfl rfl rfl
theorem rport (w : Fields) : Statement (.rport w) := of_table rfl rfl rfl
theorem ldrb (w : Fields) : Statement (.ldrb w) := of_table rfl rfl rfl
theorem mcfg (w : Fields) : Statement (.mcfg w) := of_table rfl rfl rfl
theorem mldb (w : Fields) : Statement (.mldb w) := of_table rfl rfl rfl
theorem mswap (w : Fields) : Statement (.mswap w) := of_table rfl rfl rfl
theorem mbc (w : Fields) : Statement (.mbc w) := of_table rfl rfl rfl
theorem mbcw (w : Fields) : Statement (.mbcw w) := of_table rfl rfl rfl
theorem accset (w : Fields) : Statement (.accset w) := of_table rfl rfl rfl
theorem acccnt (w : Fields) : Statement (.acccnt w) := of_table rfl rfl rfl
theorem accrd (w : Fields) : Statement (.accrd w) := of_table rfl rfl rfl
theorem accclr (w : Fields) : Statement (.accclr w) := of_table rfl rfl rfl
theorem mchk (w : Fields) : Statement (.mchk w) := of_table rfl rfl rfl
theorem hcopy (w : Fields) : Statement (.hcopy w) := of_table rfl rfl rfl
theorem hgath (w : Fields) : Statement (.hgath w) := of_table rfl rfl rfl
theorem hscat (w : Fields) : Statement (.hscat w) := of_table rfl rfl rfl
theorem hred (w : Fields) : Statement (.hred w) := of_table rfl rfl rfl
theorem hfill (w : Fields) : Statement (.hfill w) := of_table rfl rfl rfl
theorem chkptBegin (w : Fields) : Statement (.chkptBegin w) :=
  of_form (g := chkptForm) rfl rfl fun h => by simp [wellFormed] at h; simp [chkptForm, h]
theorem chkptRestore (w : Fields) : Statement (.chkptRestore w) :=
  of_form (g := chkptForm) rfl rfl fun h => by simp [wellFormed] at h; simp [chkptForm, h]
theorem chkptAbandon (w : Fields) : Statement (.chkptAbandon w) :=
  of_form (g := chkptForm) rfl rfl fun h => by simp [wellFormed] at h; simp [chkptForm, h]
theorem chkptQuery (w : Fields) : Statement (.chkptQuery w) :=
  of_form (g := chkptForm) rfl rfl fun h => by simp [wellFormed] at h; simp [chkptForm, h]
theorem sysrd (w : Fields) : Statement (.sysrd w) := of_table rfl rfl rfl
theorem syswr (w : Fields) : Statement (.syswr w) := of_table rfl rfl rfl
theorem tokenArrival (n : Nat) : Statement (.tokenArrival n) := of_event rfl
theorem overflowRefill (elem : Nat) : Statement (.overflowRefill elem) := of_event rfl
theorem iwordLo (m : CfgMsg) : Statement (.iwordLo m) := of_event rfl
theorem iwordHi (m : CfgMsg) : Statement (.iwordHi m) := of_event rfl
theorem bhdrLo (m : CfgMsg) : Statement (.bhdrLo m) := of_event rfl
theorem bhdrHi (m : CfgMsg) : Statement (.bhdrHi m) := of_event rfl
theorem route (m : CfgMsg) : Statement (.route m) := of_event rfl
theorem kset (m : CfgMsg) : Statement (.kset m) := of_event rfl
theorem hoist (port : Nat) : Statement (.hoist port) := of_event rfl
theorem install (port : Nat) : Statement (.install port) := of_event rfl
theorem installComplete (port : Nat) : Statement (.installComplete port) := of_event rfl
theorem hoistPlacement (port : Nat) : Statement (.hoistPlacement port) := of_event rfl
theorem objectLoad (asid base : Nat) (image : LoadImage) : Statement (.objectLoad asid base image) := of_event rfl
theorem faultReport (cl i : Nat) : Statement (.faultReport cl i) := of_event rfl
theorem serviceInboxEntry (n : Nat) : Statement (.serviceInboxEntry n) := of_event rfl
theorem errEfaultAck (cl i : Nat) : Statement (.errEfaultAck cl i) := of_event rfl
theorem reissue (elem : Nat) : Statement (.reissue elem) := of_event rfl
theorem nullify (elem : Nat) : Statement (.nullify elem) := of_event rfl
theorem step (elem : Nat) : Statement (.step elem) := of_event rfl
theorem genresume (core g : Nat) : Statement (.genresume core g) := of_event rfl
theorem genabort (core g : Nat) : Statement (.genabort core g) := of_event rfl
theorem nodeclear (core : Nat) : Statement (.nodeclear core) := of_event rfl
theorem taskresume (core ctx : Nat) : Statement (.taskresume core ctx) := of_event rfl
theorem taskdiscard (task : Nat) : Statement (.taskdiscard task) := of_event rfl
theorem stallclear (r : StallRef) : Statement (.stallclear r) := of_event rfl
theorem regionabort (cl rc : Nat) : Statement (.regionabort cl rc) := of_event rfl
theorem frameUnload (core frame : Nat) : Statement (.frameUnload core frame) := of_event rfl
theorem commit (core seq : Nat) : Statement (.commit core seq) := of_event rfl
theorem successorOpen (core ctx : Nat) : Statement (.successorOpen core ctx) := of_event rfl
theorem fetch (core ctx : Nat) : Statement (.fetch core ctx) := of_event rfl
theorem retirement (core ctx : Nat) : Statement (.retirement core ctx) := of_event rfl
theorem quiescenceProbe (cl rc : Nat) : Statement (.quiescenceProbe cl rc) := of_event rfl
theorem regionSwitch (cl rc : Nat) : Statement (.regionSwitch cl rc) := of_event rfl
theorem quietRequestTaken (cl rc : Nat) : Statement (.quietRequestTaken cl rc) := of_event rfl
theorem quiescenceStall (cl i : Nat) : Statement (.quiescenceStall cl i) := of_event rfl
theorem bankStarvationGrant (n : Nat) : Statement (.bankStarvationGrant n) := of_event rfl
theorem accessAtHome (n : Nat) : Statement (.accessAtHome n) := of_event rfl
theorem atomicAtHome (n : Nat) : Statement (.atomicAtHome n) := of_event rfl
theorem strelRelease (n : Nat) : Statement (.strelRelease n) := of_event rfl
theorem generatorStep (core g : Nat) : Statement (.generatorStep core g) := of_event rfl
theorem wringEmit (core u : Nat) : Statement (.wringEmit core u) := of_event rfl
theorem spreadSessionToken (core u : Nat) : Statement (.spreadSessionToken core u) := of_event rfl
theorem reductionSessionToken (core tile : Nat) : Statement (.reductionSessionToken core tile) := of_event rfl
theorem channelTokenArrival (n : Nat) : Statement (.channelTokenArrival n) := of_event rfl
theorem creditArrival (n : Nat) : Statement (.creditArrival n) := of_event rfl
theorem channelStall (core ep : Nat) : Statement (.channelStall core ep) := of_event rfl
theorem broadcast (core macr : Nat) : Statement (.broadcast core macr) := of_event rfl
theorem nullBroadcast (core macr : Nat) : Statement (.nullBroadcast core macr) := of_event rfl
theorem mcfgEffect (core macr : Nat) : Statement (.mcfgEffect core macr) := of_event rfl
theorem mldbEffect (core macr : Nat) : Statement (.mldbEffect core macr) := of_event rfl
theorem mswapEffect (core macr : Nat) : Statement (.mswapEffect core macr) := of_event rfl
theorem mchkEffect (core macr : Nat) : Statement (.mchkEffect core macr) := of_event rfl
theorem contribution (core macr : Nat) : Statement (.contribution core macr) := of_event rfl
theorem taskRecordAccept (n : Nat) : Statement (.taskRecordAccept n) := of_event rfl
theorem taskRouting (task : Nat) : Statement (.taskRouting task) := of_event rfl
theorem keyTry (n : Nat) : Statement (.keyTry n) := of_event rfl
theorem keyRequest (n : Nat) : Statement (.keyRequest n) := of_event rfl
theorem keyReply (n : Nat) : Statement (.keyReply n) := of_event rfl
theorem keyRelease (n : Nat) : Statement (.keyRelease n) := of_event rfl
theorem keyAging (task : Nat) : Statement (.keyAging task) := of_event rfl
theorem keyEntryRetry (cl : Nat) : Statement (.keyEntryRetry cl) := of_event rfl
theorem taskStart (cl : Nat) : Statement (.taskStart cl) := of_event rfl
theorem taskReroute (task : Nat) : Statement (.taskReroute task) := of_event rfl
theorem residencyStaleNotice (n : Nat) : Statement (.residencyStaleNotice n) := of_event rfl
theorem counterApply (n : Nat) : Statement (.counterApply n) := of_event rfl
theorem cntwaitRetry (n : Nat) : Statement (.cntwaitRetry n) := of_event rfl
theorem cntValWrite (by_ : Writer) (cl idx : Nat) (v : Word) : Statement (.cntValWrite by_ cl idx v) := of_event rfl
theorem monitorPost (n : Nat) : Statement (.monitorPost n) := of_event rfl
theorem monitorDeadline (cl n : Nat) : Statement (.monitorDeadline cl n) := of_event rfl
theorem directoryLookup (die n : Nat) : Statement (.directoryLookup die n) := of_event rfl
theorem pageWalk (die n : Nat) : Statement (.pageWalk die n) := of_event rfl
theorem shootDown (by_ : Writer) (die : Nat) (v : Word) : Statement (.shootDown by_ die v) := of_event rfl
theorem shootDownAll (by_ : Writer) (die : Nat) (v : Word) : Statement (.shootDownAll by_ die v) := of_event rfl
theorem invalidation (n : Nat) : Statement (.invalidation n) := of_event rfl
theorem halyardUnit (cl n : Nat) : Statement (.halyardUnit cl n) := of_event rfl
theorem echo (die sc : Nat) : Statement (.echo die sc) := of_event rfl
theorem mapreq (die sc : Nat) (refusal : Option (BitVec 8)) : Statement (.mapreq die sc refusal) := of_event rfl
theorem log (die sc : Nat) : Statement (.log die sc) := of_event rfl
theorem abortself (die sc : Nat) : Statement (.abortself die sc) := of_event rfl
theorem hostService (die sc : Nat) (reply : Option Word) : Statement (.hostService die sc reply) := of_event rfl
theorem serviceRefused (die sc : Nat) : Statement (.serviceRefused die sc) := of_event rfl
theorem svcReply (n : Nat) : Statement (.svcReply n) := of_event rfl
theorem softPreemption (by_ : Writer) (v : Word) : Statement (.softPreemption by_ v) := of_event rfl
theorem hardPreemption (by_ : Writer) (v : Word) : Statement (.hardPreemption by_ v) := of_event rfl
theorem drainLimit (part : Nat) : Statement (.drainLimit part) := of_event rfl
theorem save (part : Nat) : Statement (.save part) := of_event rfl
theorem preemptResume (by_ : Writer) (v : Word) : Statement (.preemptResume by_ v) := of_event rfl
theorem ingressWrite (port : Aperture) (offset : Nat) (bytes : List Byte) : Statement (.ingressWrite port offset bytes) := of_event rfl
theorem ingCfgWrite (by_ : Writer) (port : Nat) (v : Word) : Statement (.ingCfgWrite by_ port v) := of_event rfl
theorem ingErrClear (by_ : Writer) (port : Nat) (v : Word) : Statement (.ingErrClear by_ port v) := of_event rfl
theorem granuleAssign (by_ : Writer) (v : Word) : Statement (.granuleAssign by_ v) := of_event rfl
theorem granuleZeroed : Statement .granuleZeroed := of_event rfl
theorem partCfgWrite (by_ : Writer) (n : Nat) (v : Word) : Statement (.partCfgWrite by_ n v) := of_event rfl
theorem partReset (by_ : Writer) (v : Word) : Statement (.partReset by_ v) := of_event rfl
theorem ownClaim (agent : BitVec 2) : Statement (.ownClaim agent) := of_event rfl
theorem ownSucc (agent next : BitVec 2) : Statement (.ownSucc agent next) := of_event rfl
theorem registerWrite (by_ : Writer) (addr : Nat) (v : Word) : Statement (.registerWrite by_ addr v) := of_event rfl
theorem registerReadClear (addr : RegRead) : Statement (.registerReadClear addr) := of_event rfl
theorem packageReset : Statement .packageReset := of_event rfl
theorem bringUp (fw : Firmware) : Statement (.bringUp fw) := of_event rfl
theorem attestationRequest (nonce : List Byte) : Statement (.attestationRequest nonce) := of_event rfl
theorem corePowerGate (core : Nat) : Statement (.corePowerGate core) := of_event rfl
theorem thermalLimit (on : Bool) : Statement (.thermalLimit on) := of_event rfl
theorem correctableError (part wher : Nat) : Statement (.correctableError part wher) := of_event rfl
theorem uncorrectableError (addr : Nat) : Statement (.uncorrectableError addr) := of_event rfl
theorem elementStateError (elem frame : Nat) : Statement (.elementStateError elem frame) := of_event rfl
theorem coreStateError (core : Nat) : Statement (.coreStateError core) := of_event rfl
theorem clusterControlError (cl : Nat) : Statement (.clusterControlError cl) := of_event rfl
theorem hbmStackFailure (stack : Nat) : Statement (.hbmStackFailure stack) := of_event rfl
theorem ucieLinkError (d1 d2 : Nat) (exhausted : Bool) : Statement (.ucieLinkError d1 d2 exhausted) := of_event rfl
theorem serviceCoreFailure (die sc : Nat) : Statement (.serviceCoreFailure die sc) := of_event rfl
theorem packageError : Statement .packageError := of_event rfl
theorem flitReceive (link : Nat) (crcOk : Bool) (items : FlitIn) : Statement (.flitReceive link crcOk items) := of_event rfl
theorem linkRetrain (link : Nat) (ok : Bool) : Statement (.linkRetrain link ok) := of_event rfl
theorem linkDown (link : Nat) : Statement (.linkDown link) := of_event rfl
theorem linkUp (link : Nat) (lanes : BitVec 8) : Statement (.linkUp link lanes) := of_event rfl
theorem lnkCtlWrite (by_ : Writer) (link : Nat) (v : Word) : Statement (.lnkCtlWrite by_ link v) := of_event rfl
theorem ensSelfWrite (by_ : Writer) (v : Word) : Statement (.ensSelfWrite by_ v) := of_event rfl
theorem remoteItemArrival (n : Nat) : Statement (.remoteItemArrival n) := of_event rfl
theorem acknowledgement (lc cls num cut : Nat) : Statement (.acknowledgement lc cls num cut) := of_event rfl
theorem e2eTimeout (n : Nat) : Statement (.e2eTimeout n) := of_event rfl
theorem markerArrival (n : Nat) : Statement (.markerArrival n) := of_event rfl
theorem rollback (cut : Nat) : Statement (.rollback cut) := of_event rfl
theorem powerGatingReturn (core : Nat) : Statement (.powerGatingReturn core) := of_event rfl
theorem objectUnload (href : BitVec 32) : Statement (.objectUnload href) := of_event rfl
theorem coreAssignment (core asid : Nat) : Statement (.coreAssignment core asid) := of_event rfl
theorem routedRecordArrival (n : Nat) : Statement (.routedRecordArrival n) := of_event rfl
theorem firmwareUpdate (href : Update) : Statement (.firmwareUpdate href) := of_event rfl

end Sys2Proof.Laws.Encodes
end

