-- ==== Sys2Proof/Laws/Step.lean ====
section
/-! SUPPORT. What one step can do, said once. -/
namespace Sys2Proof.Machine

/-! ## The clock -/

@[simp] theorem clock_next (s : State) : clock (.next s) = .next (advance s) := rfl
@[simp] theorem clock_fault (e : Fault) : clock (.fault e) = .fault e := rfl
@[simp] theorem clock_refused (e : Refusal) : clock (.refused e) = .refused e := rfl

/-- A next state after the clock is one before it, at a later time. -/
theorem clock_eq_next {r : Res State} {t : State} (h : clock r = .next t) : ∃ u, r = .next u ∧ t = advance u := by
  cases r with
  | next u => cases h; exact ⟨u, rfl, rfl⟩
  | fault e => cases h
  | refused e => cases h

@[simp] theorem advance_mem (s : State) : (advance s).mem = s.mem := rfl

/-! ## The three kinds of step -/

/-- A step that answers a next state comes from a wake of a stopped package, the word at the focus, or a free step. -/
theorem step_cases {s t : State} (h : step s = .next t) : ∃ u, t = advance u ∧
    ((s.hw.pkg.stopped = true ∧ stoppedStep s = .next u) ∨
     (s.hw.pkg.stopped = false ∧ ∃ fo i, s.hw.focus = some fo ∧ decode (focusWord s.hw fo) = .ok i ∧ exec i s = .next u) ∨
     (s.hw.pkg.stopped = false ∧ s.hw.focus = none ∧ freeStep s = .next u)) := by
  unfold step at h
  split at h
  next hs =>
    obtain ⟨u, hu, rfl⟩ := clock_eq_next h
    exact ⟨u, rfl, .inl ⟨hs, hu⟩⟩
  next hs =>
    have hs : s.hw.pkg.stopped = false := by simpa using hs
    split at h
    next fo hfo =>
      split at h
      next i hi =>
        obtain ⟨u, hu, rfl⟩ := clock_eq_next h
        exact ⟨u, rfl, .inr (.inl ⟨hs, fo, i, hfo, hi, hu⟩)⟩
      next => cases h
    next hfo =>
      obtain ⟨u, hu, rfl⟩ := clock_eq_next h
      exact ⟨u, rfl, .inr (.inr ⟨hs, hfo, hu⟩)⟩

/-- A free step leaves the state, or runs one of the candidates, a choice among several having been counted. -/
theorem freeStep_cases {s t : State} (h : freeStep s = .next t) :
    t = s ∨ ∃ x ∈ choices s, runCand s x = .next t ∨ runCand { s with hw := { s.hw with free := s.hw.free + 1 } } x = .next t := by
  unfold freeStep at h
  split at h
  next => cases h; exact .inl rfl
  next x hx => exact .inr ⟨x, by simp [hx], .inl h⟩
  next =>
    split at h
    next x hx =>
      refine .inr ⟨x, ?_, .inr h⟩
      unfold pick at hx
      exact List.mem_of_getElem? hx
    next => cases h; exact .inl rfl

/-- A stopped package answers a next state only through a reset or a bring-up that has come in. -/
theorem stoppedStep_cases {s t : State} (h : stoppedStep s = .next t) :
    ∃ i ∈ s.hw.inputs, (i = .packageReset ∨ ∃ fw, i = .bringUp fw) ∧ runCand s (arriving i) = .next t := by
  unfold stoppedStep at h
  extract_lets wakes at h
  split at h
  next i hi =>
    refine ⟨i, List.mem_of_find?_eq_some hi, ?_, h⟩
    have hw : wakes i = true := List.find?_some hi
    simp only [wakes] at hw
    split at hw
    next => exact .inl rfl
    next => exact .inr ⟨_, rfl⟩
    next => cases hw
  next => cases h

end Sys2Proof.Machine
end

