-- ==== Sys2Proof/Tests/Slice0.lean ====
section
/-! SUPPORT. Tests: words of the manual's examples and what they decode to, ill-formed terms that each check refuses, and for the statements a
state that meets their hypotheses. Where a test names a value, it is worked out from the spec by hand; a witness shows only that what a
statement assumes can hold. -/
namespace Sys2Proof.Tests

open Sys2Proof.Machine

set_option Elab.async false

/-! ## States to stand on -/

/-- The bits of a word: OP, FN, PR, OM, T0, T1, XF, K (02 Table 2.5). -/
def word (op fn om : Nat) (xf k : Nat := 0) (pr : Nat := 0) (t0 : Nat := 0x100024) (t1 : Nat := 0) : Nat :=
  op * 2 ^ 119 + fn * 2 ^ 114 + pr * 2 ^ 112 + om * 2 ^ 104 + t0 * 2 ^ 82 + t1 * 2 ^ 60 + xf * 2 ^ 48 + k

/-- A DATA token. -/
def data (v : Nat) : Token := mkTok 0 0 .data (BitVec.ofNat 64 v)
/-- A poisoned DATA token. -/
def bad : Token := mkTok 0 0 .data 0 0 true
/-- A NULL token of k + 1 positions. -/
def null (k : Nat := 0) : Token := mkTok 0 0 .null 0 (BitVec.ofNat 7 k)
/-- An END token. -/
def close (rank : Nat) (k : Nat := 0) : Token := mkTok 0 0 .endm 0 (BitVec.ofNat 7 k) false (BitVec.ofNat 2 rank)
/-- A FAULT token. -/
def failed : Token := mkTok 0 0 .fault 7 3

/-- A package with ASID 0 live in partition 0, which has cluster 0; page 0 mapped to HBM and page 1 to the first tile of core 0; frame 0 of core 0 loaded by firmware. -/
def world : Hw :=
  { cores := [(0, { frames := [(0, { state := .resident, header := BitVec.ofNat 128 ((2 ^ 32 - 1) * 2 ^ 96 + (2 ^ 64 - 1) * 2 ^ 32 + 3 * 2 ^ 16), firmware := true, routes := [(1, 0x40000000)] })]
                    tlb := [{ asid := 0, va := 0, size := 0, pa := 0, r := true, w := true, d := true },
                            { asid := 0, va := 0x1000, size := 0, pa := tileBase 0 0, r := true, w := true, d := true }]
                    ctxs := [(0, { state := .running })] })]
    pkg := { parts := [(0, { valid := true, clusters := 1 })], asids := [(0, 0)], granules := [(0, (1, 0))] } }

/-- The firing of a word in slot 0 of frame 0 of element 0 under a tag, with operands at its ports, in a package. -/
def stand (hw : Hw) (w : Nat) (l : List (Nat × Token)) (tag : BitVec 20 := 0) (mem : List Host.Cell := []) : State :=
  let ops := l.map fun p => ({ slot := 0, tok := { p.2 with tag := tag, cont := mkCont 0 0 0 p.1 }, place := .direct, stamp := p.1 + 1, side := none } : Operand)
  let hw := openAct (setElem hw 0 { words := tput [] 0 0 (BitVec.ofNat 128 w), ops := ops }) 0 0 tag
  { mem := { bytes := mem }, hw := { hw with ids := 10, focus := some { elem := 0, slot := 0, tag := tag } } }

/-- The state in which a word is placed after reset. -/
def placed (w : Nat) : State := State.reset.withFetchWord 128 w

/-! ## What a witness says -/

/-- The word at the focus meets `Ready` (0), `Live` (1) or `Plain` (2), and its turn has come. -/
def ready (lv : Nat) (s : State) (w : Nat) : Bool :=
  match decodeTableWord 128 w with
  | none => false
  | some i => match specOf i, opFields i with
    | some sp, some (_, x) => match focusFire sp x s.hw with
      | some f => (!dropped s.hw f && (wordFault sp f.w (frameAt (coreAt s.hw f.core) f.frame).header).isNone && lsTurn s.hw f.site f.w.ls.toNat) &&
          (match lv with
          | 0 => true
          | 1 => !f.queued && (anyEnd f.data || sp.pPort || predOf f.w.pr f.p == .fires)
          | _ => !f.queued && !anyEnd f.data && (sp.pPort || predOf f.w.pr f.p == .fires) && (nullAux f.data).isNone)
      | none => false
    | _, _ => false

/-- The answer of the word at the focus: 0 it has fired, 1 it waits, 256 + a code where its element has frozen. -/
def answer (s : State) (w : Nat) : Nat :=
  match decodeTableWord 128 w with
  | none => 999
  | some i => match exec i s with
    | .next t => if frozen t.hw 0 then 256 + (elemAt t.hw 0).fault.code.toNat else if t.hw.waited then 1 else 0
    | _ => 998

/-- A word fires plainly after reset with the operands placed for it. -/
def fires (w : Nat) : Bool := ready 2 (placed w) w && answer (placed w) w == 0

/-- A word in a package with operands, plainly or not, and its answer. -/
structure Case where
  w     : Nat
  l     : List (Nat × Token) := []
  hw    : Hw := world
  tag   : BitVec 20 := 0
  lv    : Nat := 2
  out   : Nat := 0
  mem   : List Host.Cell := []

/-- The case holds. -/
def Case.holds (c : Case) : Bool :=
  let s := stand c.hw c.w c.l c.tag c.mem
  ready c.lv s c.w && answer s c.w == c.out

/-- All of them hold. -/
def hold (l : List Case) : Bool := (l.filter fun c => !c.holds).isEmpty

/-- What `ready` says of the statements' own hypotheses. -/
theorem ready_sound (lv : Nat) (s : State) (w : Nat) (h : ready lv s w = true) :
    ∃ i sp op x f, decodeTableWord 128 w = some i ∧ specOf i = some sp ∧ opFields i = some (op, x) ∧ Ready sp x s f ∧ Turn s f ∧
      (lv = 1 → Live sp x s f) ∧ (2 ≤ lv → Plain sp x s f) := by
  unfold ready at h
  split at h
  · cases h
  next i hi =>
    split at h
    next sp op x hs ho =>
      split at h
      next f hf =>
        simp only [Bool.and_eq_true, Bool.not_eq_true', Option.isNone_iff_eq_none] at h
        have r : Ready sp x s f := ⟨hf, h.1.1.1, h.1.1.2⟩
        refine ⟨i, sp, op, x, f, hi, hs, ho, r, h.1.2, fun e => ?_, fun e => ?_⟩
        · subst e
          have k := h.2
          simp only [Bool.and_eq_true, Bool.not_eq_true', Bool.or_eq_true, beq_iff_eq] at k
          exact ⟨r, k.1, by simpa [or_assoc] using k.2⟩
        · have k := h.2
          split at k
          · omega
          · omega
          · simp only [Bool.and_eq_true, Bool.not_eq_true', Bool.or_eq_true, beq_iff_eq, Option.isNone_iff_eq_none] at k
            exact ⟨r, k.1.1.1, k.1.1.2, k.1.2, k.2⟩
      · cases h
    · cases h

/-! ## Words of the manual's examples (02, 04 to 09, 10 to 13, 16) -/

theorem test_decode_coalesce : decode 0x05000240002000000000000080000000#128 =
    .ok (.coalesce { fn := 0, pr := 0, ls := 0, om := 2, t0 := 0x100008, t1 := 0, xf := 0, k := 0x80000000 }) := rfl
theorem test_decode_add : decode 0x40040240009400000000000000000007#128 =
    .ok (.add { fn := 1, pr := 0, ls := 0, om := 2, t0 := 0x100025, t1 := 0, xf := 0, k := 7 }) := rfl
theorem test_decode_tcall : decode 0x230000C0000100068003000000000000#128 =
    .ok (.tcall { fn := 0, pr := 0, ls := 0, om := 0, t0 := 0x300000, t1 := 0x100068, xf := 3, k := 0 }) := rfl
theorem test_decode_read : decode 0x24000140001100008000000000000008#128 =
    .ok (.readHoldAtOpen { fn := 0, pr := 0, ls := 0, om := 1, t0 := 0x100004, t1 := 0x100008, xf := 0, k := 8 }) := rfl
theorem test_decode_exit_predicated : decode 0x25010200000000000000000000000000#128 =
    .ok (.exit { fn := 0, pr := 1, ls := 0, om := 2, t0 := 0, t1 := 0, xf := 0, k := 0 }) := rfl
theorem test_decode_spawni : decode 0x268002400050000000000037FE062009#128 =
    .ok (.spawni { fn := 0, pr := 0, ls := 0, om := 2, t0 := 0x100014, t1 := 0, xf := 0, k := 0x37FE062009 }) := rfl
theorem test_decode_vfma : decode 0xAC140080000C00000000000000000000#128 =
    .ok (.vfma { fn := 5, pr := 0, ls := 0, om := 0, t0 := 0x200003, t1 := 0, xf := 0, k := 0 }) := rfl
theorem test_decode_isect : decode 0xAF0C00C0000100038000000000000000#128 =
    .ok (.isect { fn := 3, pr := 0, ls := 0, om := 0, t0 := 0x300000, t1 := 0x100038, xf := 0, k := 0 }) := rfl
theorem test_decode_strel : decode 0xC18C0A00000000000003000000000001#128 =
    .ok (.strel { fn := 3, pr := 0, ls := 1, om := 2, t0 := 0, t1 := 0, xf := 3, k := 1 }) := rfl
theorem test_decode_stream : decode 0xCA800040004100020001000000000000#128 =
    .ok (.stream { fn := 0, pr := 0, ls := 0, om := 0, t0 := 0x100010, t1 := 0x100020, xf := 1, k := 0 }) := rfl
theorem test_decode_acccnt : decode 0xE30004C00001000182043FC00807F800#128 =
    .ok (.acccnt { fn := 0, pr := 0, ls := 0, om := 4, t0 := 0x300000, t1 := 0x100018, xf := 0x204, k := 0x3FC00807F800 }) := rfl
theorem test_decode_mbc : decode 0xE1800240014000000000000000007FB5#128 =
    .ok (.mbc { fn := 0, pr := 0, ls := 0, om := 2, t0 := 0x100050, t1 := 0, xf := 0, k := 0x7FB5 }) := rfl
theorem test_decode_hcopy : decode 0xE500004000C100034003000000000000#128 =
    .ok (.hcopy { fn := 0, pr := 0, ls := 0, om := 0, t0 := 0x100030, t1 := 0x100034, xf := 3, k := 0 }) := rfl
theorem test_decode_chkpt : decode 0xE7800240004100014000000000000000#128 =
    .ok (.chkptBegin { fn := 0, pr := 0, ls := 0, om := 2, t0 := 0x100010, t1 := 0x100014, xf := 0, k := 0 }) := rfl

/-- CMPLT of class 3 and FADD of class 4, bit by bit: OP, FN, PR, LS, OM, T0, T1, XF, K (02 Tables 2.5, 2.15). -/
theorem test_decode_cmplt : decode (0b011000010#9 ++ 0b00001#5 ++ 0b10#2 ++ 0b00000#5 ++ 0b010#3 ++ 0b0100000000000000100101#22 ++
      0b0000000000000000000000#22 ++ 0b000000000000#12 ++ 0b000000000000000000000000000000000000000000000111#48) =
    .ok (.cmplt { fn := 1, pr := 2, ls := 0, om := 2, t0 := 0x100025, t1 := 0, xf := 0, k := 7 }) := rfl
theorem test_decode_fadd : decode (0b100000000#9 ++ 0b00111#5 ++ 0b00#2 ++ 0b00000#5 ++ 0b000#3 ++ 0b0100000000000000000100#22 ++
      0b1000000000000000000101#22 ++ 0b000000000000#12 ++ 0#48) =
    .ok (.fadd { fn := 7, pr := 0, ls := 0, om := 0, t0 := 0x100004, t1 := 0x200005, xf := 0, k := 0 }) := rfl

/-- EMPTY and a reserved OP of class 7 are refused by name (02 R71, R72). -/
theorem test_decode_empty : decode 0#128 = .error .empty := rfl
theorem test_decode_reserved : decode (0x1D2#9 ++ 0#119) = .error (.reservedOp 0x1D2) := rfl
/-- A word that is cut short is refused. -/
theorem test_decode_short : decodeBytes [0, 1, 2] = .error .short := rfl

/-! ## Ill-formed terms -/

/-- Fields that no check refuses. -/
def plainFields : Fields := { fn := 0, pr := 0, ls := 0, om := 0, t0 := 0x100024, t1 := 0, xf := 0, k := 0 }

theorem wf_accepts : wellFormed (.add plainFields) = true := by decide
theorem wf_refuses_predicate : wellFormed (.add { plainFields with pr := 3 }) = false := by decide
theorem wf_refuses_targets : [(0x000001 : BitVec 22), 0x100200, 0x200040, 0x300100].all (fun t =>
    !wellFormed (.add { plainFields with t0 := t }) && !wellFormed (.add { plainFields with t1 := t })) = true := by decide
theorem wf_accepts_targets : [(0x000000 : BitVec 22), 0x1001FF, 0x20003F, 0x3000FF].all (fun t =>
    wellFormed (.add { plainFields with t0 := t }) && wellFormed (.add { plainFields with t1 := t })) = true := by decide
theorem wf_refuses_forms : wellFormed (.read { plainFields with om := 1 }) = false ∧ wellFormed (.readHoldAtOpen plainFields) = false ∧
    wellFormed (.strmkQuery { plainFields with k := 1 }) = false ∧ wellFormed (.strmkCancel { plainFields with k := 2 }) = false ∧
    wellFormed (.strmkDrain plainFields) = false ∧ wellFormed (.chkptBegin { plainFields with k := 1 }) = false ∧
    wellFormed (.chkptRestore { plainFields with k := 2 }) = false ∧ wellFormed (.chkptAbandon { plainFields with k := 3 }) = false ∧
    wellFormed (.chkptQuery plainFields) = false := by decide
theorem wf_refuses_messages :
    let m : CfgMsg := { tok := mkTok 0 0 .config 0 2, src := .loader }
    wellFormed (.iwordLo m) = false ∧ wellFormed (.iwordHi m) = true ∧ wellFormed (.bhdrLo m) = false ∧ wellFormed (.bhdrHi m) = false ∧
      wellFormed (.route m) = false ∧ wellFormed (.kset m) = false := by decide
theorem wf_refuses_units : [wellFormed (.overflowRefill 8192), wellFormed (.hoist 64), wellFormed (.objectLoad 1024 0 ⟨[], []⟩), wellFormed (.faultReport 32 0),
    wellFormed (.faultReport 0 12), wellFormed (.genresume 0 2), wellFormed (.genresume 256 0), wellFormed (.taskresume 0 17), wellFormed (.stallclear (.channel 0 16)),
    wellFormed (.stallclear (.quiesce 32 0)), wellFormed (.regionabort 0 4), wellFormed (.frameUnload 0 8), wellFormed (.channelStall 0 16), wellFormed (.contribution 0 8),
    wellFormed (.cntValWrite .firmware 0 1024 0), wellFormed (.pageWalk 4 0), wellFormed (.echo 0 4), wellFormed (.drainLimit 16), wellFormed (.linkDown 16),
    wellFormed (.hbmStackFailure 8), wellFormed (.ucieLinkError 0 4 true), wellFormed (.acknowledgement 1024 0 0 0), wellFormed (.acknowledgement 0 3 0 0),
    wellFormed (.coreAssignment 0 1024), wellFormed (.partReset .firmware 0)] = List.replicate 24 false ++ [true] := by decide

/-- The token of the manual's example and its sixteen bytes (02 R34, R42). -/
theorem test_token_bits : (let t : Token := { cont := 0x059E8C8, tag := 0x01234, kind := .data, rank := 0, psn := false, aux := 0, value := 42 }
    tokenBits t = 0x0167A320048D0000000000000000002A#128 ∧ tokenOf 0x0167A320048D0000000000000000002A#128 = t ∧ contLC t.cont = 5 ∧
      contElem t.cont = ((2 * 8 + 3) * 8 + 6) * 32 + 17 ∧ contSlot t.cont = 4 * 4 + 2 ∧ contPort t.cont = 0 ∧
      bytesOf 16 (tokenBits t).toNat = [0x2A, 0, 0, 0, 0, 0, 0, 0, 0, 0, 0x8D, 4, 0x20, 0xA3, 0x67, 1]) := by decide

/-! ## Words that fire plainly after reset, one group for each statement -/

/-- Every OP of a list, in a word with these fields, fires plainly after reset. -/
def allFire (l : List Nat) (w : Nat → Nat) : Bool := (l.filter fun op => !fires (w op)).isEmpty

theorem fires_integer : allFire [0x080, 0x081, 0x082, 0x083, 0x084, 0x085, 0x086, 0x087, 0x088, 0x089] (word · 0 0) = true := by decide +kernel
theorem fires_integer_k : allFire [0x080, 0x087] (word · 1 2 0 0xFFFFFFFFFFFF) = true := by decide +kernel
theorem fires_logic : allFire [0x08E, 0x08F, 0x090, 0x091, 0x092, 0x093, 0x094, 0x095, 0x096, 0x097] (word · 0 0) = true := by decide +kernel
theorem fires_division : allFire [0x08A, 0x08B, 0x08C, 0x08D] (word · 0 0) = true := by decide +kernel
theorem fires_shifts : allFire [0x098, 0x099, 0x09A, 0x09B, 0x09C, 0x09D, 0x09E, 0x09F, 0x0A0, 0x0A1] (word · 0 0) = true := by decide +kernel
theorem fires_fields : allFire [0x0A2, 0x0A3] (word · 1 2 0 (1 + 63 * 2 ^ 8)) = true ∧ fires (word 0x0A4 1 3 0 (64 + 0 * 2 ^ 8)) = true ∧
    allFire [0x0A5, 0x0A6] (word · 1 2 0 64) = true ∧ fires (word 0x0A7 0 4 0 (4 * 2 ^ 24)) = true ∧ fires (word 0x0A8 0 0) = true := by decide +kernel
theorem fires_comparisons : allFire [0x0C0, 0x0C1, 0x0C2, 0x0C3, 0x0C4, 0x0C5, 0x0C6, 0x0C7] (word · 0 0) = true := by decide +kernel
theorem fires_selections : allFire [0x0C8, 0x0C9, 0x0CA, 0x0CB, 0x0CC, 0x0CD] (word · 0 0) = true := by decide +kernel
theorem fires_float : allFire [0x100, 0x101, 0x102, 0x103, 0x104, 0x105, 0x106, 0x107, 0x108, 0x109, 0x10A, 0x10B, 0x10C, 0x10D] (word · 0 0) = true := by decide +kernel
theorem fires_float_more : allFire [0x10E, 0x10F, 0x110, 0x111, 0x112, 0x113, 0x114, 0x115, 0x116, 0x117, 0x118, 0x119, 0x11D] (word · 0 0) = true := by decide +kernel
theorem fires_conversions : fires (word 0x11A 0 0 0x98) = true ∧ fires (word 0x11B 0 0 0x90) = true ∧ fires (word 0x11C 0 0 0x8) = true := by decide +kernel
theorem fires_lanes : allFire [0x140, 0x141, 0x142, 0x143, 0x144, 0x145, 0x146, 0x147, 0x148, 0x149, 0x14A, 0x14B, 0x14C, 0x14D, 0x14E] (word · 0 0) = true := by decide +kernel
theorem fires_lanes_more : allFire [0x14F, 0x150, 0x152, 0x153, 0x154, 0x155, 0x156, 0x157] (word · 0 0) = true ∧
    allFire [0x151, 0x158, 0x159, 0x15A, 0x15B] (word · 1 0) = true ∧ fires (word 0x15C 0 0 1) = true := by decide +kernel
theorem fires_steering : allFire [0x001, 0x004, 0x005, 0x006] (word · 0 0) = true ∧ fires (word 0x002 0 2) = true ∧ fires (word 0x003 0 2 0 1) = true ∧
    fires (word 0x007 0 0 0 0 0 0) = true := by decide +kernel
theorem fires_null_end : allFire [0x009, 0x00D] (word · 0 0) = true ∧ allFire [0x008, 0x00A] (word · 0 2) = true ∧ allFire [0x00B, 0x00C] (word · 0 0 1) = true := by decide +kernel
theorem fires_sparse : allFire [0x15D, 0x15E] (word · 3 0) = true := by decide +kernel
theorem fires_channels : fires (word 0x00F 0 0) = true ∧ fires (word 0x011 0 2 0 1) = true ∧ fires (word 0x013 0 0) = true := by decide +kernel
theorem fires_tags : allFire [0x040, 0x043, 0x044, 0x045] (word · 0 0) = true := by decide +kernel
theorem fires_block : fires (word 0x054 0 2) = true ∧ fires (word 0x055 0 0) = true := by decide +kernel
theorem fires_counters : fires (word 0x04D 0 2) = true ∧ fires (word 0x04E 0 0 4) = true ∧ fires (word 0x04F 0 2 4 1) = true ∧ fires (word 0x050 0 0 4) = true := by decide +kernel
theorem fires_services : allFire [0x056, 0x057, 0x058] (word · 0 2) = true := by decide +kernel
theorem fires_residency : allFire [0x05A, 0x05B, 0x05C] (word · 0 0) = true := by decide +kernel
theorem fires_memory : fires (word 0x184 0 0) = true ∧ fires (word 0x187 0 2) = true := by decide +kernel
theorem fires_matrix : allFire [0x1C0, 0x1C2, 0x1C3, 0x1C4, 0x1C5, 0x1C7, 0x1C8, 0x1C9] (word · 0 0) = true ∧ fires (word 0x1C6 0 3 0 1) = true ∧ fires (word 0x196 0 2) = true := by decide +kernel

/-! ## Words that want more than operands, and the clauses of the statements of words at their boundaries -/

/-- `world` with endpoints 0 and 1 of core 0 each other's peers: 0 a producer with two credits, 1 a consumer that owes its producer `n` credits. -/
def linked (n : Nat := 0) : Hw :=
  setEp (setEp world 0 0 { state := .producer, depth := 2, peer := (0, 1), pcred := 2 }) 0 1 { state := .consumer, depth := 1024, peer := (0, 0), debt := n, buf := [(data 3, none)], recv := some (0, 0) }
/-- `world` with tag space 5 of four tags. -/
def spaced : Hw := modCl world 0 fun c => { c with spaces := [(5, { size := 4, cur := 0, parent := 0, freeing := false, core := 0, owner := none, tfree := none })] }
/-- `world` with a region of frames 0 and 1 over core 0, and QUIET requests at it. -/
def joined (l : List QuietReq := []) : Hw := setRc world 0 0 { valid := true, frames := 3, quiets := l }
/-- `world` with the record of a tile of 64 bytes. -/
def tiled : Hw := modPkg world fun p => { p with tiles := [(0, { base := 0, rows := 1, cols := 1, bytes := 64, valid := true })] }
/-- `world` with generator 0 of core 0 in a state. -/
def streaming (x : GenState) : Hw := setGen world 0 0 { state := x }
/-- `world` with eight commands at macro 0 of core 0. -/
def macroFull : Hw :=
  setMacro world 0 0 { queue := List.replicate 8 { body := .mswap, stamp := 0, site := { elem := 0, frame := 0, slot := 0, tag := 0, occ := 0, asid := 0, op := 0, t0 := 0, t1 := 0, seq := none } } }
/-- `world` with no firmware in frame 0. -/
def common : Hw := modCore world 0 fun k => { k with frames := k.frames.map fun x => (x.1, { x.2 with firmware := false }) }
/-- `world` with a cut in its state and number. -/
def cutAt (state num : Nat) : Hw := modPkg world fun p => { p with cut := { p.cut with state := state, num := BitVec.ofNat 32 num } }
/-- `world` where ASID 0 is under debug. -/
def debugged : Hw := modDie world 0 fun d => { d with xlAsid := [(0, BitVec.ofNat 64 (2 ^ 62))] }
/-- Tag 0 of context 0's task. -/
def taskTag : BitVec 20 := mkTag 0xFF0 0
/-- A PADDR of page 1. -/
def paddr (v : Nat) : Token := mkTok 0 0 .paddr (BitVec.ofNat 64 (tileBase 0 0 + v)) 4
/-- The bytes of 64-bit words from an address, those that are not 0. -/
def bytesAt (a : Nat) (ws : List Nat) : List Host.Cell :=
  ((bytesOf (8 * ws.length) (ws.foldr (fun w n => n * 2 ^ 64 + w) 0)).zipIdx.filter fun b => b.1 != 0).map fun b => (a + b.2, b.1)
/-- A case that has already fired plainly, with other operands. -/
def one (op fn om : Nat) (l : List Token) (xf k : Nat := 0) (out : Nat := 0) (pr : Nat := 0) (lv : Nat := 1) : Case :=
  { w := word op fn om xf k pr, l := l.zipIdx.map fun x => (x.2, x.1), out := out, lv := lv }

/-- A site for what stands in a list of the state. -/
def siteA : Site := { elem := 0, frame := 0, slot := 0, tag := 0, occ := 0, seq := some 0, asid := 0, op := 0, t0 := 0, t1 := 0 }
/-- `world` with a store of 8 bytes at 0 in core 0's buffer, in the forwarding table or in the line filter. -/
def storing (inTable : Bool) : Hw := modCore world 0 fun k => { k with stores := [{ seq := 0, lsid := 0, va := 0, isPa := false, pa := 0, width := 8, data := 5, psn := false,
                                                                                    inTable := inTable, site := siteA, srcblk := 0, srchnd := 0, ctx := none }] }
/-- `world` with 32 translations of core 0 marked PX. -/
def pxFull : Hw := modCore world 0 fun k =>
  { k with tlb := k.tlb ++ (List.range 32).map fun i => { asid := 0, va := (i + 2) * 4096, size := 0, pa := 0, r := true, w := true, d := true, px := true } }
/-- `world` with 4,096 records at the dispatcher. -/
def crowded : Hw := { world with tasks := List.replicate 4096 { id := 0, words := [], psn := false, asid := 0, cc := 0, cl := 0, state := .ready } }

theorem hold_common : hold [one 0x080 0 0 [data 1, data 2, null, data 0] (pr := 1) (lv := 0), one 0x080 0 0 [data 1, data 2, null, bad] (pr := 1) (lv := 0), one 0x080 0 0 [null 3, data 1],
    one 0x080 0 0 [close 1, close 1], one 0x080 0 0 [close 1, close 2] (out := 258), one 0x080 0 0 [close 1, data 1] (out := 258)] = true := by decide +kernel
theorem hold_fields : hold [one 0x0A2 1 0 [data 1, data (1 + 63 * 2 ^ 8)], one 0x0A2 1 0 [data 1, data (2 + 63 * 2 ^ 8)] (out := 258), one 0x0A3 1 0 [data 1, data (1 + 63 * 2 ^ 8)],
    one 0x0A3 1 0 [data 1, data 0] (out := 258), one 0x0A4 0 0 [data 1, data 2, data 32], one 0x0A4 0 0 [data 1, data 2, data 33] (out := 258),
    one 0x0A5 1 0 [data 1, data 64], one 0x0A5 1 0 [data 1, data 65] (out := 258), one 0x0A6 0 0 [data 1, data 32], one 0x0A6 0 0 [data 1, data 33] (out := 258),
    one 0x0A7 0 0 [data 1, data 2, data 15], one 0x0A7 0 0 [data 1, data 2, data 16] (out := 258), one 0x0C9 1 0 [data 1, data 2], one 0x0C9 1 0 [data 2, data 2]] = true := by decide +kernel
theorem hold_steering : hold [one 0x001 0 0 [close 1], one 0x001 0 0 [failed], one 0x003 0 2 [close 1] (k := 3), one 0x003 0 2 [null 1] (k := 3), one 0x003 0 2 [data 1] (k := 3),
    one 0x004 0 0 [close 1, null, null, data 1], one 0x004 0 0 [data 1, null, null, null], one 0x004 0 0 [data 1, null, null, bad], one 0x004 0 0 [data 1, null, null, data 1],
    one 0x004 0 0 [data 1, null, null, data 0], one 0x005 0 0 [null, data 1], one 0x005 0 0 [null, null], one 0x006 0 0 [close 1, close 2], one 0x006 0 0 [data 1, data 2],
    one 0x006 0 0 [data 1, close 1] (out := 258)] = true := by decide +kernel
theorem hold_null_end : hold [one 0x008 0 2 [close 1], one 0x008 0 2 [data 1], one 0x009 0 0 [close 1], one 0x009 0 0 [null 2], one 0x009 0 0 [data 1], one 0x00A 0 2 [null 2], one 0x00A 0 2 [data 2],
    one 0x00D 0 0 [close 1], one 0x00D 0 0 [null], one 0x00D 0 0 [bad], one 0x00D 0 0 [data 257], one 0x00D 0 0 [data 65537] (out := 258), one 0x00B 0 0 [data 1] 2, one 0x00B 0 0 [close 1] 2,
    one 0x00B 0 0 [close 3] 2, one 0x00B 0 0 [close 2 126] 2, one 0x00B 0 0 [close 2 127] 2, one 0x00C 0 0 [close 2 5] 1, one 0x013 0 0 [data 1], one 0x013 0 0 [failed]] = true := by decide +kernel
theorem hold_sparse : hold [one 0x15D 3 0 [data 3, data 2], one 0x15D 3 0 [null, data 2], one 0x15D 3 0 [close 1, data 2], one 0x15E 3 0 [data 3, data 2], one 0x15E 3 0 [null 1, null 1],
    one 0x161 1 0 [data 0x1234, data 0x408, data 0x1200], one 0x161 1 0 [data 0x1234, data 0x404, data 0], one 0x161 3 0 [data 0x1234, data 0x838, data 1],
    one 0x161 3 0 [data 1, data 0x839, data 1] (out := 258), one 0x15F 1 0 [data 1, data 9], one 0x15F 1 0 [data 1, data 10], one 0x15F 2 0 [data 1, data 8], one 0x160 1 0 [data 1, data 9],
    one 0x160 1 0 [data 1, data 10], one 0x160 2 0 [data 1, data 8]] = true := by decide +kernel
theorem hold_channels : hold [{ one 0x00E 0 0 [data 7] with hw := linked, lv := 2 }, { one 0x00E 0 0 [data 7] with hw := setEp world 0 0 { state := .producer, depth := 2, peer := (0, 1) }, out := 1 },
    { one 0x010 0 2 [data 7] 1 1 with hw := linked 1 }, { one 0x010 0 2 [data 7] 1 1024 with hw := linked 1024 }, { one 0x010 0 2 [data 7] 1 2 with hw := linked 1, out := 264 },
    one 0x011 0 0 [data 0, data 1024]] = true := by decide +kernel
theorem hold_tags : hold [one 0x040 0 0 [close 1], one 0x040 0 0 [data 1] 255, { one 0x041 0 0 [data 1] with hw := spaced, tag := mkTag 5 0 }, { one 0x042 0 0 [data 1] with hw := spaced, tag := mkTag 5 0 },
    one 0x043 0 0 [data 1], one 0x043 0 0 [close 1], one 0x045 0 0 [data 1], one 0x045 0 0 [close 1], { one 0x044 0 0 [data 1, data 3] with hw := spaced, tag := mkTag 5 0 },
    one 0x044 0 0 [data 1, data 0], one 0x044 0 0 [data 1, null], { w := word 0x046 0 0 3 0 0 0x300000 0x100068, l := [(0, data 7)] },
    { w := word 0x047 0 0 0 0 0 0, l := [(0, data 7), (1, data 0)], hw := spaced, tag := mkTag 5 0 }] = true := by decide +kernel
theorem hold_block : hold [{ one 0x048 0 0 [data 63] with tag := taskTag, lv := 2 }, { one 0x048 0 0 [data 64] with tag := taskTag, out := 258 }, { one 0x048 0 1 [] (k := 63) with tag := taskTag, lv := 2 },
    { one 0x049 0 2 [data 1] (k := 63) with tag := taskTag }, { one 0x049 0 2 [null] (k := 63) with tag := taskTag }, { w := word 0x04A 0 2 0 0xFFFFFF 0 0, tag := taskTag, l := [(0, data 1)] },
    { w := word 0x04B 0 0 0 0 0 0, tag := taskTag, l := [(0, data 1), (1, data 0xFFFFFF)] }, { one 0x054 0 2 [data 1] (k := 0) with lv := 2 }, { one 0x054 0 2 [data 1] (k := 3) with lv := 2 }] = true := by decide +kernel
theorem hold_regions : hold [{ one 0x052 0 2 [data 1] (k := 1) with hw := joined }, { one 0x052 0 2 [data 1] (k := 1) with out := 258 },
    { one 0x053 0 0 [data 1] with hw := joined [{ elem := 0, slot := 0, tag := 0, own := [], taken := some [] }], lv := 2 }, { one 0x053 0 0 [data 1] with out := 258, lv := 2 }] = true := by decide +kernel
theorem hold_counters : hold [one 0x04E 0 0 [data 1023, data 0xFFFFFFFF] 4, one 0x04E 0 0 [data 1, data 0x100000000] 4 (out := 258), one 0x04F 0 0 [data 0, data 1, failed] 4,
    one 0x04F 0 0 [data 0, data 0xFFFFFFFF, data 1] 4, one 0x050 0 0 [data 0] 4, one 0x050 0 0 [data 1024] 4 (out := 261), { one 0x051 0 0 [data 0x40, data 1, data (2 ^ 40 - 1)] 4 with lv := 2 }] = true := by decide +kernel
theorem hold_spawn : hold [{ one 0x04C 0 2 [data 0x40] with lv := 2 }, { one 0x04D 0 2 [data 0] with lv := 2 }, { one 0x04D 0 2 [data (2 ^ 54 - 1)] (k := 2 ^ 37) with lv := 2 }] = true := by decide +kernel
theorem hold_spawn_waits : hold [{ one 0x04D 0 2 [data 0] with lv := 2, hw := crowded, out := 1 }] = true := by decide +kernel
theorem hold_residency : hold [{ one 0x059 0 2 [data 0] (k := 16) with hw := tiled, lv := 2 }, { one 0x059 0 2 [data 0] (k := (0x80000 - 64) * 32) with hw := tiled, lv := 2 }, one 0x05A 0 0 [data 1, data 31],
    one 0x05A 0 0 [data 1, data 63], one 0x05B 0 0 [data 1, data 0], one 0x05C 0 0 [data 1, data 1]] = true := by decide +kernel
theorem hold_services : hold [one 0x056 0 2 [data 1], one 0x057 0 2 [data 1], one 0x058 0 2 [data 1], { one 0x058 0 2 [data 1] with hw := debugged, out := 256 }] = true := by decide +kernel
theorem hold_loads : hold [one 0x180 3 2 [data 0xFF8] (lv := 2), one 0x180 4 0 [paddr 8, data 0] (lv := 2) (out := 261), { one 0x180 3 2 [data 0] with hw := storing true, lv := 2 },
    { one 0x180 3 2 [data 0] with hw := storing false, lv := 2, out := 1 }, one 0x180 3 2 [bad] (lv := 2), one 0x180 3 2 [data 4] (lv := 2) (out := 259), one 0x180 3 2 [data (2 ^ 48 - 8)] (k := 8) (lv := 2) (out := 261),
    one 0x182 3 2 [data 0xFF8] 4 (lv := 2), { one 0x182 3 2 [data 0] 4 with hw := storing true, lv := 2 }, { one 0x182 3 2 [data 0] 4 with hw := storing false, lv := 2, out := 1 }, one 0x182 3 2 [bad] 4 (lv := 2),
    one 0x182 3 2 [data 4] 4 (lv := 2) (out := 259), { w := word 0x185 0 2 0 0 0 0, l := [(0, data 0)] }] = true := by decide +kernel
theorem hold_stores : hold [one 0x181 3 3 [data 0xFF8, data 1] (lv := 2), one 0x181 3 3 [bad, data 1] (lv := 2), one 0x181 3 3 [data 1, data 1] (lv := 2) (out := 259), one 0x183 3 2 [data 8, data 9, data 0] 4 (lv := 2),
    one 0x183 3 2 [bad, data 9, data 0] 4 (lv := 2), one 0x183 3 2 [data 1, data 9, data 0] 4 (lv := 2) (out := 259)] = true := by decide +kernel
theorem hold_fence : hold [one 0x180 3 2 [data 8, null, null, data 0] (pr := 1) (lv := 0), one 0x181 3 3 [data 8, data 0, null, data 0] (pr := 1) (lv := 0), one 0x184 0 0 [data 1, failed, data 1],
    one 0x184 0 0 [null, null, null], one 0x184 0 0 [data 1, null, null]] = true := by decide +kernel
theorem hold_atomics : hold ([0x188, 0x189, 0x18A, 0x18B, 0x18C, 0x18D, 0x18E, 0x18F, 0x190, 0x191, 0x194].map (fun op => one op 3 0 [data 0xFF8, data 1] 4 (lv := 2)) ++
    [one 0x192 3 0 [data 8, data 1, data 2] 4 (lv := 2), one 0x193 2 0 [data 8, data 1] 4 (lv := 2)]) = true := by decide +kernel
theorem hold_addresses : hold [one 0x186 0 2 [data 0xFFF] (lv := 2), { one 0x186 0 2 [data 0] with hw := pxFull, lv := 2 }, one 0x186 0 2 [data (2 ^ 48)] (lv := 2), one 0x186 0 2 [data (2 ^ 48)] (k := 2) (lv := 2) (out := 261),
    one 0x186 0 2 [paddr 0] (lv := 2), one 0x187 0 0 [data 1, data 2] (lv := 2), one 0x187 0 0 [paddr 0, data 0xFFF] (lv := 2), one 0x187 0 0 [paddr 0, data 0x1000] (lv := 2)] = true := by decide +kernel
theorem hold_streams : hold [{ one 0x195 0 0 [data 0x40] with lv := 2 }, { one 0x195 0 0 [data 0x40] with lv := 2, hw := streaming .running, out := 1 }, { one 0x195 0 0 [data 0x40] with lv := 2, mem := bytesAt 0x40 [2 ^ 48], out := 258 },
    one 0x195 0 0 [bad] (lv := 2), one 0x196 0 2 [data 1] (lv := 2), one 0x196 0 2 [data 1] (k := 2) (lv := 2), { one 0x196 0 2 [data 1] (k := 2) (lv := 2) with hw := streaming .running },
    one 0x196 0 2 [data 1] (k := 1) (lv := 2), { one 0x196 0 2 [data 1] (k := 1) (lv := 2) with hw := streaming .running }, { one 0x196 0 2 [data 1] (k := 1) (lv := 2) with hw := streaming .stopped }] = true := by decide +kernel
theorem hold_sessions : hold [{ one 0x197 2 2 [data 0x1000] with lv := 2 }, { one 0x197 10 0 [data 0x1000, data 0, data 0xFFFFFFFF] with lv := 2 }, one 0x197 2 2 [bad] (lv := 2), { one 0x198 2 2 [data 0x1FFC] with lv := 2 },
    one 0x198 2 2 [bad] (lv := 2), { one 0x199 2 2 [data 0x1000] (k := 0x40000000) with lv := 2 }, { one 0x19A 0 2 [data 0x1E00] (k := 3) with lv := 2 }, one 0x19A 0 2 [bad] (k := 3) (lv := 2)] = true := by decide +kernel
theorem hold_macros : hold [one 0x1C0 0 0 [data 1, data (7 + (2048 - 256) * 256)], one 0x1C0 0 0 [data 1, data (7 + (2048 - 255) * 256)] (out := 258), { one 0x1C0 0 0 [data 1, data 0] with hw := macroFull, out := 1 },
    one 0x1C2 0 0 [data 1, data 7], one 0x1C2 0 0 [data 1, data 8] (out := 258), { one 0x1C2 0 0 [data 1, data 0] with hw := macroFull, out := 1 }, one 0x1C9 0 0 [data 1, data 15],
    one 0x1C9 0 0 [data 1, data 16] (out := 258), { one 0x1C9 0 0 [data 1, data 0] with hw := macroFull, out := 1 }, one 0x1C3 0 0 [data 1, data 0x7FFF], one 0x1C3 0 0 [data 1, data 0x8000] (out := 258),
    { one 0x1C3 0 0 [data 1, data 0] with hw := macroFull, out := 1 }, one 0x1C3 0 0 [null 3, data 0], one 0x1C4 0 0 [data 1, data 0x7FFF], one 0x1C4 0 0 [data 1, data 0x8000] (out := 258),
    { one 0x1C4 0 0 [data 1, data 0] with hw := macroFull, out := 1 }, one 0x1C4 0 0 [null 3, data 0], { one 0x1C1 0 2 [data 0x1000] with lv := 2 }] = true := by decide +kernel
theorem hold_nodes : hold [one 0x1C5 0 0 [data 1, data 2047, data 0] (lv := 2), one 0x1C6 0 0 [data 1, data 0, data 8192] (lv := 2), one 0x1C7 0 0 [data 1, data (2047 * 2048)] (lv := 2), one 0x1C8 0 0 [data 1, data 0] (lv := 2),
    one 0x1C8 0 0 [data 1, data (2047 + 2048)] (lv := 2) (out := 258)] = true := by decide +kernel
theorem hold_halyard : hold (([0x1CA, 0x1CB, 0x1CC, 0x1CE].map fun op => { one op 0 2 [data 0x40] 4 with lv := 2, mem := bytesAt 0x40 [0x1000, 0x1000, 8] }) ++
    [{ one 0x1CD 0 2 [data 0x40] 4 with lv := 2, mem := bytesAt 0x40 [0x1000, 0x1000, 8, 0, 0, 0x800000] }]) = true := by decide +kernel
theorem hold_firmware : hold [{ one 0x1CF 0 2 [data 0x40] (k := 0) with lv := 2, mem := bytesAt 0x40 [1, 2 ^ 46] }, { one 0x1CF 0 2 [data 0x40] (k := 0) with lv := 2, mem := bytesAt 0x40 [1, 2 ^ 46], hw := cutAt 0 1 },
    { one 0x1CF 0 2 [data 0x40] (k := 2) with lv := 2, mem := bytesAt 0x40 [2, 2 ^ 46], hw := cutAt 0 1 },
    one 0x1CF 0 2 [data 0x40] (k := 3) (lv := 2), one 0x1D0 0 2 [data 0x3E0000000100] (lv := 2), one 0x1D1 0 3 [data 0x3E0001003008, data 0] (lv := 2)] = true := by decide +kernel
theorem hold_not_firmware : hold (([0, 1, 2, 3].map fun k => { one 0x1CF 0 2 [data 0x40] (k := k) with hw := common, out := 261 }) ++
    [{ one 0x1D0 0 2 [data 0] with hw := common, out := 261 }, { one 0x1D1 0 3 [data 0, data 1] with hw := common, out := 261 }]) = true := by decide +kernel

/-! ## What the statements of words ask beyond operands -/

/-- The firing of a word at the focus. -/
def fireAt (s : State) (w : Nat) : Option Fire :=
  match decodeTableWord 128 w with
  | none => none
  | some i => match specOf i, opFields i with
    | some sp, some (_, x) => focusFire sp x s.hw
    | _, _ => none

/-- A test of the firing of a case. -/
def Case.fire (c : Case) (p : State → Fire → Bool) : Bool :=
  let s := stand c.hw c.w c.l c.tag c.mem
  match fireAt s c.w with
  | some f => p s f
  | none => false

theorem witness_bad_word : (one 0x080 2 0 [data 1, data 2]).fire (fun s f => answer s (word 0x080 2 0) == 258 && !dropped s.hw f &&
    wordFault specAdd f.w (frameAt (coreAt s.hw f.core) f.frame).header == some 0) = true := by decide +kernel
theorem witness_field_causes : fieldFault specAdd { plainFields with fn := 2 } = some 0 ∧ fieldFault specAdd { plainFields with pr := 3 } = some 1 ∧
    fieldFault specAdd { plainFields with ls := 1 } = some 2 ∧ fieldFault specAdd { plainFields with om := 3 } = some 3 ∧ fieldFault specAdd { plainFields with xf := 1 } = some 4 := by decide
theorem witness_frozen : let s := stand world (word 0x080 0 0) [(0, data 1), (1, data 2)]
    s.hw.focus = some { elem := 0, slot := 0, tag := 0 } ∧ frozen s.hw 0 = false ∧ frozen (freeze s.hw 0 0 0 0 (.firing 0 0) 2 0) 0 = true := by decide +kernel
/-- A token to another logical chip: its link is off in `world`; with an entry that is on it goes, poison excepted. -/
theorem witness_targets : contLC (mkCont 1 0 0 0) ≠ ownLC world ∧ contLC (mkCont 0 0 0 0) = ownLC world ∧ fabOff world 0 1 = true ∧
    fabOff (modDie world 0 fun d => { d with ensSelf := 0x8000000000000000, ens := [(1, 0x40000000)] }) 0 1 = false ∧ hdrRoutes (frameAt (coreAt world 0) 0).header = 3 := by decide +kernel

/-- CHRECV with a token at its endpoint. -/
theorem witness_chrecv : let s := stand (linked 0) (word 0x00F 0 0 1) []
    (chRecvFire (wordFields (BitVec.ofNat 128 (word 0x00F 0 0 1))) s.hw).isSome = true ∧ answer s (word 0x00F 0 0 1) = 0 := by decide +kernel
/-- CHOPEN as consumer, where one CHRECV of the frame names the endpoint, and as producer. -/
theorem witness_chopen : [data 1024, data (1024 + 2 ^ 16)].all (fun b =>
    ({ one 0x011 0 0 [data 0, b] with hw := setElem world 1 { words := [(0, BitVec.ofNat 128 (word 0x00F 0 0))] } }).fire fun s f =>
      answer s (word 0x011 0 0) == 0 && recvSlots s.hw f.core f.frame 0 == [(1, 0)] && decide (poolUsed s.hw f.core + 1024 ≤ 1024)) = true := by decide +kernel
/-- CHCLOSE of an endpoint that its slot is closing and that nothing holds open. -/
theorem witness_chclose : (one 0x012 0 0 [data 1] 1).fire (fun s f =>
    let t := { s with hw := setEp s.hw 0 1 { state := .closing true, closer := some f.site } }
    mayClose t.hw 0 1 (epAt t.hw 0 1) && answer t (word 0x012 0 0 1) == 0) = true := by decide +kernel
theorem witness_space_granted : (one 0x040 0 0 [data 1] 255).fire (fun s f => regionOf s.hw f.core f.frame == none && (clAt s.hw 0).allocq == [] &&
    freeSpaceId s.hw f.core f.frame == some 1 && decide (liveIndices s.hw f.core + 16384 ≤ 16384)) = true := by decide +kernel
/-- A write of a hold register: by a tag without an owner, of a register outside WMASK, a second time, and well. -/
theorem witness_hold_write :
    (one 0x049 0 2 [data 1]).fire (fun s f => ownerOf s.hw 0 0 f.tag == none) = true ∧
    ({ one 0x049 0 2 [data 1] with tag := taskTag }).fire (fun s f =>
      (ownerOf s.hw 0 0 f.tag).isSome && wmaskBit (frameAt (coreAt s.hw 0) 0).header 63 && !wmaskBit (frameAt (coreAt s.hw 0) 1).header 63 &&
      match findAct (coreAt s.hw 0) 0 f.tag f.site.occ with
      | some a => (tfind a.writes 63).isNone && (match stageWrite s.hw f.site 63 (some (1, false)) with
        | .ok hw => (match findAct (coreAt hw 0) 0 f.tag f.site.occ with
          | some a => (tfind a.writes 63).isSome
          | none => false)
        | .error _ => false)
      | none => false) = true := by decide +kernel

/-- The result of an address: 0 formed, 1 + the code of its fault. -/
def formed (t : Token) (off : Int) (w : Bool) (hw : Hw := world) : Nat :=
  match formAddr hw 0 0 0 t off 8 1 (!w) w with
  | .ok _ => 0
  | .error (.fault c _) => 1 + c
  | .error (.wait _) => 999

/-- VAs at the edges of 48 bits, misaligned, and mapped; PADDRs across their page, without W, and of a page marked PX (07 R204, Table 7.4). -/
theorem witness_address : formed (data (2 ^ 48)) 0 false = 1 + cPROT ∧ formed (data 0) (-8) false = 1 + cPROT ∧ formed (data (2 ^ 48 - 8)) 8 false = 1 + cPROT ∧
    formed (data 4) 0 false = 1 + cMISALIGNED ∧ formed (data 0xFF8) 0 true = 0 ∧ formed (paddr 0xFF8) 8 false = 1 + cPROT ∧ formed (paddr 0) (-1) false = 1 + cPROT ∧
    formed { paddr 0 with aux := 0 } 0 true = 1 + cPROT ∧
    formed (paddr 0xFF8) 0 true (modCore world 0 fun k => { k with tlb := k.tlb.map fun x => { x with px := true } }) = 0 := by decide +kernel

/-- A package in which ASID 0's VA 0 has a leaf of size 2 in the table at 0x3000 of HBM, readable and writable; and one whose table is poisoned. -/
theorem witness_walk :
    let hw := modDie world 0 fun d => { d with xlAsid := [(0, BitVec.ofNat 64 (2 ^ 63 + 0x1000))] }
    let m : Mem := { bytes := bytesAt 0x1000 [0x2001] ++ bytesAt 0x2000 [0x3001] ++ bytesAt 0x3000 [0xF] }
    (match walk m hw 0 0 0x1234 true with
      | .ok (x, a, p) => x.size == 2 && x.w && x.r && a == 0x3000 && p == 0x6F
      | .error _ => false) = true ∧
    (match walk { m with poison := [0x1000] } hw 0 0 0x1234 true with
      | .ok _ => false
      | .error _ => true) = true := by decide +kernel

/-! ## Numbers -/

/-- Greatest finite values round to themselves, half of the least subnormal to an even pattern, and one step more overflows (01 R20 to R22). -/
theorem witness_rounds : fround f32 0 false false 0xFFFFFF 104 = 0x7F7FFFFF ∧ fround f32 0 false false 1 (-150) = 0 ∧ fround f32 3 false false 1 (-150) = 1 ∧
    fround f32 0 false true 3 (-150) = 0x80000002 ∧ fround e2m1 0 false false 6 0 = 7 ∧ fround e4m3 0 false false 448 0 = 0x7E := by decide
theorem witness_overflows : fround f32 0 false false 0x1000000 104 = 0x7F800000 ∧ fround f32 1 false false 0x1000000 104 = 0x7F7FFFFF ∧ fround f32 0 true true 0x1000000 104 = 0xFF7FFFFF ∧
    fround f16 2 false true 0x800 5 = 0xFC00 ∧ fround e4m3 0 false false 480 0 = e4m3.nan := by decide
/-- Positions of a walk of two rows of three: one inside and one outside the tensor, and the END after the last of a row (07 R215). -/
theorem witness_walk_positions : let d : List Word := [0x1000, 0x20000000010002, 0x4000000004, 0, 0, 0x100020003, 0, 0]
    gTotal d = 6 ∧ gAddr d 2 = some 0x1008 ∧ gAddr d 3 = some 0x1040 ∧ gClose d 1 = 0 ∧ gClose d 2 = 1 ∧ gClose d 5 = 1 ∧
    gAddr [0x1000, 0x20000000010002, 0x4000000004, 0, 1, 0x100020003, 0, 0] 2 = none := by decide
/-- A partial that a node adds exactly, one below its floor, one at the window's top, a NaN, and one past 65,536 (01 R30, 08 R252). -/
theorem witness_node : let n : Node := {}
    (match addPartial n { p := 3, q := 1, nan := false, psn := false } with
      | .ok y => y.parts == 1 && !y.lost
      | _ => false) = true ∧
    (match addPartial { n with trunc := true } { p := 3, q := -1, nan := false, psn := false } with
      | .ok y => y.parts == 1 && y.lost
      | _ => false) = true ∧
    (match addPartial n { p := 1, q := 191, nan := false, psn := false } with
      | .error (0, _) => true
      | _ => false) = true ∧
    (match addPartial n { p := 0, q := 0, nan := true, psn := false } with
      | .ok y => y.nan
      | _ => false) = true ∧
    (match addPartial { n with parts := 65536 } { p := 1, q := 0, nan := false, psn := false } with
      | .error (1, _) => true
      | _ => false) = true := by decide
/-- ACCSET of nodes that have counted nothing, and of one that has; ACCCLR (08 R246, R249). -/
theorem witness_node_effects :
    (match nodeEffect world 0 { body := .set (-5) 3 true false, n0 := 2047, cnt := 1, stamp := 0, site := siteA } with
      | .ok hw => nodeAt hw 0 2047 == { b0 := -5, h := 3, trunc := true, l := -5 }
      | .error _ => false) = true ∧
    (match nodeEffect (setNode world 0 7 { parts := 1 }) 0 { body := .set 0 0 false false, n0 := 6, cnt := 2, stamp := 0, site := siteA } with
      | .error (.fault c d) => c == cILLFIELD && d == 16 + 7 * 2 ^ 8
      | _ => false) = true ∧
    (match nodeEffect (setNode world 0 7 { parts := 1, s := 4, lost := true }) 0 { body := .clr, n0 := 6, cnt := 2, stamp := 0, site := siteA } with
      | .ok hw => nodeAt hw 0 7 == {}
      | .error _ => false) = true := by decide +kernel
/-- Keys in the order of values, NaN above all (01 R33). -/
theorem witness_keys : obtKey f16 0x8000 < obtKey f16 0 ∧ obtKey f16 0x7C00 < obtKey f16 0x7E01 ∧ obtKey f16 0x7E01 = f16.nan + 2 ^ 15 ∧ obtVal f16 (obtKey f16 0x7E01) = f16.nan ∧
    obtVal f16 (obtKey f16 0xC000) = 0xC000 := by decide

/-! ## Events: states in which they happen, clause by clause -/

/-- An event has its step. -/
def happens (r : Res State) : Bool :=
  match r with
  | .next _ => true
  | _ => false
/-- All of them have. -/
def ran (l : List (Res State)) : Bool := (l.filter fun r => !happens r).isEmpty

/-- ADD of class 2, at a slot. -/
def addWord : BitVec 128 := BitVec.ofNat 128 (word 0x080 0 0)
/-- A package as a state. -/
def at_ (hw : Hw) (m : Mem := {}) : State := { mem := m, hw := { hw with ids := 10, now := 1000000 } }
/-- An element with ADD in slot 0. -/
def adder : Elem := { words := [(0, addWord)] }
/-- A token on its way to port 0 of slot 0 of element 0, in a package. -/
def flight (t : Token) (gen : BitVec 6 := 0) (lc : Nat := 0) : Flight := { tok := { t with cont := mkCont lc 0 0 0 }, src := .port 0, gen := gen }
/-- A token on its way to element 0 with a word in its slot 0. -/
def arriving (fl : Flight) (w : BitVec 128 := addWord) : State := at_ { setElem world 0 { words := tput [] 0 0 w } with net := [fl] }
/-- Element 0 with ADD in slot 0, frozen. -/
def frozenAdder (why : FaultFrom) : State := at_ (freeze (setElem { world with now := 5, ids := 5 } 0 { adder with ops := [{ slot := 0, tok := data 1, place := .shared, stamp := 1, side := none }, { slot := 0, tok := { data 2 with cont := mkCont 0 0 0 1 }, place := .shared, stamp := 2, side := none }] }) 0 0 0 0x080 why 2 0)
/-- A message of a service to service core 0 of die 0. -/
def svc (num : Nat) (reply : Bool) (site : Option Site := some siteA) : SvcMsg := { die := 0, sc := 0, tok := mkTok 0 0 .service 5 (BitVec.ofNat 7 (64 + num)), site := site, reply := reply, asid := 0 }
/-- A configuration message for slot 0 of element 0. -/
def cfg (aux : Nat) (v : Nat := 0) : CfgMsg := { tok := mkTok (mkCont 0 0 0 0) 0 .config (BitVec.ofNat 64 v) (BitVec.ofNat 7 aux), src := .loader }
/-- Service core 0 of die 0 with an inbox. -/
def inbox (l : List SvcMsg) : Hw := modDie world 0 fun d => { d with scs := [(0, { inbox := l })] }
/-- `world` with generator 0 of core 0 stopped. -/
def stoppedGen (cancel : Bool) : Hw := setGen world 0 0 { state := .stopped, site := some siteA, cancel := cancel }
/-- `world` where ASID 0 has page tables: VA 0 is a leaf of 2 MiB in the table at 0x3000. -/
def walked (hw : Hw := world) : Hw := modDie hw 0 fun d => { d with xlAsid := [(0, BitVec.ofNat 64 (2 ^ 63 + 0x1000))] }
/-- Those page tables. -/
def tables : Mem := { bytes := bytesAt 0x1000 [0x2001] ++ bytesAt 0x2000 [0x3001] ++ bytesAt 0x3000 [0xF] }
/-- An object of one block, an ADD, which its one hoist places in frame 1 of a region of one core. -/
def oneObj : Obj := { flevel := 1, blocks := [{ header := 0, words := [addWord], routes := [], length := 32, offset := 64 }], types := [], tiles := [], regions := [{ h := 1, w := 1, places := [{ block := 0, core := 0, frame := 1, config := 0 }] }]
                      hoists := [[0]], consts := [], graph := [], base := 0, len := 96 }
/-- `world` with that object under reference 2 and its hoist under 3, its regions placed or not. -/
def loaded (placed : List (Nat × (Nat × Nat)) := []) (graph : List Byte := []) : Hw := modPkg world fun p => { p with handles := [(2, { seq := 0, asid := 0, body := .object { oneObj with graph := graph } }),
                                                                                               (3, { seq := 0, asid := 0, body := .hoist 2 0, placed := placed })] }
/-- `loaded` with port 0 of partition 0 enabled. -/
def porting (x : Port) (placed : List (Nat × (Nat × Nat)) := []) : Hw := setPort (loaded placed) 0 { x with en := true }
/-- The image of an object with no segments, its digest computed outside the model: SHAKE256 of 16 zero bytes. -/
def leastImage : List Byte :=
  (bytesOf 8 0x4C5352425A4E4F4E) ++ [1, 0, 0, 0, 0, 0, 0, 0] ++ bytesOf 32 0x26036379B8AE812ED3CBE78D17D63DC928762B6FAA34BFC4434F5F453CB270D5 ++ List.replicate 16 0
/-- A task. -/
def task (x : TaskState) (words : List Word := [0x3FF * 2 ^ 22, 0, 0, 0, 0, 0, 0, 0]) : Task := { id := 1, words := words, psn := false, asid := 0, cc := 0, cl := 0, state := x }
/-- An uncommitted activation of frame 7 of core 0 under context 0's task tag, that names no successor; and its context. -/
def actA : Act := { frame := 7, tag := mkTag 0xFF0 0, occ := 0, seq := 5, ctx := some 0, exit := some (0xFFFFF, 0) }
/-- `world` with a context 0 and activations of core 0. -/
def tasking (k : Ctx) (acts : List Act := []) (t : List Task := []) : Hw := { modCore world 0 (fun c => { c with ctxs := [(0, k)], acts := acts }) with tasks := t }
/-- A successor of context 0's task, whose block stands in a frame, or nowhere. -/
def succA (b : Nat) : Succ := { block := BitVec.ofNat 20 b, exit := 0, srcblk := 0, srchnd := 2, srcSeq := 0 }
/-- `loaded`, where the object's block 0 stands in frame 1 of core 0, and context 0's task goes on to a block. -/
def chained (b : Nat) : Hw := modCore (loaded) 0 fun c => { c with ctxs := [(0, { state := .running, handle := 2, next := some (succA b) })], frames := tput c.frames {} 1 { state := .resident, handle := 2 } }
/-- An access of core 0 to HBM, or elsewhere. -/
def accA (kind : AccKind) (pa : Nat := 0x40) (strel : Option Nat := none) (refused : Nat := 0) : Access :=
  { id := 1, core := 0, port := 0, kind := kind, va := pa, isPa := true, pa := pa, width := 8, data := 7, psn := false, fwd := [], site := siteA, seq := 0, lsid := 0, strel := strel, gen := 0, refused := refused }
/-- `world` with one access. -/
def acc1 (a : Access) : State := at_ { world with acc := [a] }
/-- `world` with an ensign entry for logical chip 1 that is on. -/
def linkedOut : Hw := modDie world 0 fun d => { d with ensSelf := 0x8000000000000000, ens := [(1, 0x40000000)] }
/-- `world` with generator 0 of core 0 running over 4 positions of 8 bytes at 0x1000. -/
def walking (x : Gen) (fn : Nat := 0) : Hw := setGen world 0 0 { x with state := .running, site := some siteA, desc := [0x1000, BitVec.ofNat 64 (3 + fn * 2 ^ 50 + 2 ^ 53 + 2 ^ 54 + 2 ^ 55), 8, 0, 0, 0x1000100010004, 0, 0] }
/-- A range of two rows of `len` bytes from the start of the first tile of core 0. -/
def rangeA (len : Nat) : TileRange := { tok := data 0x1000, base := tileBase 0 0, rows := 2, len := len, stride := len }
/-- The token of a session at port c of siteA's slot. -/
def sessionTok (t : Token) (hw : Hw) : Hw :=
  setElem hw 0 { adder with ops := [{ slot := 0, tok := { t with cont := mkCont 0 0 0 2 }, place := .shared, stamp := 1, side := none }] }
/-- `world` with a session of SPREAD over two rows of two, at a place. -/
def spreading (row col : Nat) (t : Token) : State := at_ (setSpread (sessionTok t world) 0 0 (.spread siteA (rangeA 8) 4 2 row col false []))
/-- `world` with a session of RPORT over two elements, at a position. -/
def reducing (pos : Nat) (t : Token) : State := at_ (modCore (sessionTok t world) 0 fun k => { k with rport := [(0, { site := siteA, range := rangeA 8, n := 2, w := 4, op := 0, fmt := 4, pos := pos })] })
/-- `world` with WRING over two rows of two, at a place. -/
def wringing (row col : Nat) : State := at_ (setSpread world 0 0 (.wring siteA (rangeA 8) 4 2 false row col 0 none))
/-- A request for key 5. -/
def keyReq (task : Nat) (excl : Bool := true) : KeyReq := { task := task, home := 0, asid := 0, key := 5, excl := excl, resv := false }
/-- The slice of key 5, and `world` with an entry there. -/
def keyed (holders : List (Nat × Bool)) (queue : List KeyReq) (m : KeyMsg) (hw : Hw := world) : State :=
  at_ { modCl hw (sliceOf 5) (fun c => { c with keys := [{ asid := 0, key := 5, holders := holders, queue := queue }] }) with keyMsgs := [m] }
/-- A halyard request of HFILL, HCOPY or HRED, of 8 bytes from VA 0x40 to VA 0x1000. -/
def halA (op : Nat) (ended sent : Bool := false) (record : Nat := 0) : HalReq :=
  { id := 1, op := op, desc := [0x40, 0x1000, 8, 0, 0, 0x800000, BitVec.ofNat 64 record, 0], site := siteA, scope := 4, gen := 0, ended := ended, sent := sent }
/-- `world` with that request at the engine of cluster 0, which holds the world's translations. -/
def halyarding (r : HalReq) : State := at_ (modCl world 0 fun c => { c with hal := [r], halTlb := (coreAt world 0).tlb })
/-- A macro of core 0 with a command at its head, or something at its output. -/
def macroing (x : Macro) : State := at_ (setMacro world 0 0 x)
/-- A command. -/
def cmd (b : MCmdBody) : MCmd := { body := b, stamp := 0, site := siteA }
/-- A fabric item from logical chip 1. -/
def item (b : FabBody) (cls : Nat := 0) (num : Nat := 0) : FabItem := { src := 1, dst := 0, cls := cls, num := num, body := b }
/-- `linkedOut` with an item received, in a granule that the domain of partition 0 shares. -/
def received (b : FabBody) (cls : Nat := 0) : State :=
  at_ (modPkg linkedOut fun p => { p with recvBuf := [item b cls], granules := [(0, (2, 0))], parts := p.parts.map fun x => (x.1, { x.2 with fdom := 9 }) })
/-- A remote operation. -/
def remote (op dom : Nat) : RemoteOp := { op := op, addr := 0x40, width := 8, y := 1, z := 0, psn := false, dom := BitVec.ofNat 16 dom, gen := 0 }
/-- An entry of the replay buffer. -/
def replayed (due : Bool) (tries : Nat) : RplEntry := { item := item (.reply 0 0 0 false false 0) 1 3, link := 0, tries := tries, sentAt := 0, due := due, kept := none }

theorem ran_arrivals : ran [exec (.tokenArrival 0) (arriving (flight (data 1) 1)), exec (.tokenArrival 0) (arriving (flight (data 1)) 0), exec (.tokenArrival 0) (arriving (flight (data 1)) (BitVec.ofNat 128 (0x1D2 * 2 ^ 119))),
    exec (.tokenArrival 0) (arriving (flight failed)), exec (.tokenArrival 0) (arriving (flight (data 1))), exec (.overflowRefill 0) (at_ (setElem world 0 { adder with ops := [{ slot := 0, tok := data 1, place := .spilled, stamp := 1, side := none }] })),
    exec (.tokenArrival 0) (at_ { modDie world 0 (fun d => { d with ensSelf := 0x8000000000000000, ens := [(1, 0x40000000)] }) with net := [flight (data 1) 0 1] })] = true := by decide +kernel
theorem ran_resumes : ran [exec (.faultReport 0 4) (frozenAdder (.firing 0 0)), exec (.serviceInboxEntry 0) (at_ { world with svc := [svc 5 false] }), exec (.serviceInboxEntry 0) (at_ { world with svc := [svc 5 true] }),
    exec (.serviceInboxEntry 0) (at_ { world with svc := [svc 5 true none] }), exec (.reissue 0) (frozenAdder (.firing 0 0)), exec (.reissue 0) (frozenAdder (.offered (flight (data 1)))), exec (.nullify 0) (frozenAdder (.firing 0 0)),
    exec (.nullify 0) (frozenAdder (.offered (flight (data 1)))), exec (.reissue 0) (at_ world), exec (.nullify 0) (at_ world), exec (.step 0) (at_ world),
    exec (.step 0) (let s := stand debugged (word 0x058 0 2) [(0, data 1)]; at_ (freeze s.hw 0 0 0 0x058 (.brk 0 0) 0 0))] = true := by decide +kernel
theorem ran_config : ran ([exec (.iwordLo (cfg 1 5)) (at_ world), exec (.iwordHi (cfg 2 5)) (at_ (setElem world 0 { lo := [(0, 1)] })), exec (.iwordHi (cfg 2 5)) (at_ world), exec (.bhdrLo (cfg 3 5)) (at_ world),
    exec (.bhdrHi (cfg 4 5)) (at_ (modCore world 0 fun k => { k with frames := [(0, { lo := some 1 })] })), exec (.route (cfg 5 5)) (at_ world), exec (.kset (cfg 6 5)) (at_ (setElem world 0 adder)), exec (.kset (cfg 6 5)) (at_ world),
    exec (.bhdrLo { cfg 3 5 with tok := { (cfg 3 5).tok with rank := 1 } }) (at_ world), exec (.bhdrLo (cfg 3 5)) (at_ (openAct world 0 0 0))]) = true := by decide +kernel

/-! Service cores (13 R357 to R360). -/

theorem ran_services : ran ([exec (.genresume 0 0) (at_ (stoppedGen false)), exec (.genresume 0 0) (at_ (stoppedGen true)), exec (.genabort 0 0) (at_ (stoppedGen false)), exec (.genresume 0 0) (at_ world), exec (.genabort 0 0) (at_ world),
    exec (.nodeclear 0) (at_ (setNode world 0 7 { stop := some .release })), exec (.stallclear (.channel 0 0)) (at_ (setEp world 0 0 { stall := { valid := true } })), exec (.stallclear (.quiesce 0 0)) (at_ (modCl world 0 fun c => { c with qstall := [(0, { valid := true })] })),
    exec (.stallclear (.channel 0 0)) (at_ world), exec (.stallclear (.quiesce 0 0)) (at_ world), exec (.regionabort 0 0) (at_ joined), exec (.regionabort 0 0) (at_ world)]) = true := by decide +kernel
theorem ran_requests : ran ([exec (.echo 0 0) (at_ (inbox [svc 0 true])), exec (.mapreq 0 0 none) (at_ (walked (inbox [svc 1 true])) tables), exec (.mapreq 0 0 (some (BitVec.ofNat 8 cPROT))) (at_ (inbox [svc 1 true])), exec (.log 0 0) (at_ (inbox [svc 2 true])), exec (.log 0 0) (at_ { inbox [svc 2 true] with pkg := {} }),
    exec (.abortself 0 0) (at_ (inbox [svc 3 true])), exec (.abortself 0 0) (at_ (inbox [svc 3 true none])), exec (.hostService 0 0 (some 7)) (at_ (inbox [svc 32 true])), exec (.hostService 0 0 none) (at_ (inbox [svc 63 true])),
    exec (.serviceRefused 0 0) (at_ (inbox [svc 4 true])), exec (.serviceRefused 0 0) (at_ (inbox [svc 31 true])), exec (.svcReply 0) (at_ { world with replies := [{ site := siteA, fault := none, value := 7 }] }),
    exec (.svcReply 0) (at_ { world with replies := [{ site := siteA, fault := some 5, value := 7 }] })]) = true := by decide +kernel

/-! The loader and host ingress (15 R383 to R392). -/

/-- The image passes every check that does not rest on a signature, which is free (log 8). -/
theorem test_least_image : digestOk leastImage = true ∧ (parseObject leastImage 0).toOption = some { oneObj with blocks := [], regions := [], hoists := [], len := 64 } := by decide +kernel
/-- Where ASID 0's partition requires no signature, the image is kept. -/
theorem witness_object_ok (h : Config.signatureRequired ((partOfAsid world 0).getD 16) = false) : objectCheck world 0 leastImage { oneObj with blocks := [], regions := [], hoists := [], len := 64 } = none := by
  have d := test_least_image.1
  unfold objectCheck
  rw [h, d]
  decide +kernel
theorem ran_loader : ran ([exec (.objectLoad 0 0 ⟨[], []⟩) (at_ world), exec (.objectUnload 2) (at_ (loaded)), exec (.firmwareUpdate ⟨2, 3⟩) (at_ (loaded)), exec (.firmwareUpdate ⟨2, 3⟩) (at_ (loaded [] [1])),
    exec (.frameUnload 0 0) (at_ world), exec (.frameUnload 255 7) (at_ (modCore world 255 fun k => { k with frames := [(7, { state := .resident })] }))]) = true := by decide +kernel
theorem ran_ingress : ran ([exec (.ingressWrite ⟨.firmware, 0⟩ 0 []) (at_ world), exec (.ingressWrite ⟨.firmware, 0⟩ 0 (List.replicate 16 0)) (at_ (porting {})), exec (.ingressWrite ⟨.firmware, 0⟩ 16 (List.replicate 16 0)) (at_ (porting {})),
    exec (.ingressWrite ⟨.firmware, 0⟩ 0 (List.replicate 15 0)) (at_ (porting {})), exec (.hoist 0) (at_ (porting { queue := [(0, tokenBits (mkTok 0 0 .config 3 7))] })), exec (.hoist 0) (at_ (porting { queue := [(0, tokenBits (mkTok 0 0 .config 3 7))] } [(0, (0, 0))])),
    exec (.install 0) (at_ (porting { queue := [(0, tokenBits (mkTok 0 0 .config 2 8))] })), exec (.hoistPlacement 0) (at_ (porting { hold := .hoist, cur := 3 } [(0, (0, 0))])), exec (.hoistPlacement 0) (at_ (porting { hold := .hoist, cur := 3 })),
    exec (.hoistPlacement 0) (at_ (porting { hold := .hoist, cur := 2 })), exec (.installComplete 0) (at_ (porting { hold := .install, cur := 2 })), exec (.installComplete 0) (at_ (porting { hold := .install, cur := 9 }))]) = true := by decide +kernel
theorem ran_tokens_taken : tokenCheck (setRc (porting {}) 0 0 { valid := true, frames := 1, hoist := 3 }) { en := true, hoist := 3 } (data 1) = none ∧ (portAt (portTake (porting {}) 0 { en := true } 0 failed) 0).err = true := by decide +kernel

/-! Registers from outside (15 R380, R382, R393 to R397, R399). -/

theorem ran_writes : ran ([exec (.cntValWrite .firmware 31 1023 5) (at_ world), exec (.cntValWrite (.function 1) 0 0 5) (at_ world), exec (.cntValWrite (.function 0) 0 0 5) (at_ world), exec (.shootDown .firmware 0 0x8000000000000000) (at_ world),
    exec (.shootDownAll .firmware 3 0xC000000000000000) (at_ world), exec (.shootDown (.agent 1) 0 0x8000000000000000) (at_ world), exec (.ingCfgWrite .firmware 63 0x8000000000000000) (at_ world), exec (.ingErrClear .firmware 0 1) (at_ world),
    exec (.granuleAssign .firmware 0xA000000000000003) (at_ world), exec (.granuleAssign .firmware 3) (at_ world), exec (.granuleAssign .firmware 0xE000000000000000) (at_ world), exec (.granuleAssign (.agent 1) 0xA000000000000003) (at_ world),
    exec (.partCfgWrite .firmware 15 0x8000000000000002) (at_ world), exec (.partCfgWrite .firmware 1 0x8000000000000001) (at_ world), exec (.partReset .firmware 0x8000000000000000) (at_ world), exec (.partReset (.function 0) 0x8000000000000000) (at_ world),
    exec (.lnkCtlWrite .firmware 15 3) (at_ world), exec (.lnkCtlWrite (.agent 0) 0 3) (at_ world), exec (.ensSelfWrite (.agent 1) 0) (at_ world), exec (.ensSelfWrite .firmware 0x8000000000000001) (at_ world), exec (.ensSelfWrite .firmware 0) (at_ (porting {})),
    exec (.registerWrite .firmware 0x3E0000000500 0) (at_ world), exec (.registerWrite .firmware 0x3E0003FFFFF8 0) (at_ world), exec (.registerWrite (.function 1) 0x3E0000000500 0) (at_ world), exec (.registerReadClear ⟨.firmware, 0x3E0000000200⟩) (at_ world)]) = true := by decide +kernel
theorem ran_ownership : ran ([exec (.errEfaultAck 31 11) (at_ world), exec .granuleZeroed (at_ (modPkg world fun p => { p with assigning := some (3, 1, 0) })), exec (.ownClaim 1) (at_ world), exec (.ownClaim 0) (at_ world),
    exec (.ownSucc 1 2) (at_ (modPkg world fun p => { p with owner := 1 })), exec (.ownSucc 1 2) (at_ world)]) = true := by decide +kernel
theorem test_may_write : mayWrite world .firmware .gown = true ∧ mayWrite (modPkg world fun p => { p with owner := 1 }) (.agent 1) .gown = true ∧ mayWrite world (.agent 0) .gown = false ∧
    mayWrite world (.function 0) .gown = false := by decide +kernel

/-! Activations, tasks' blocks and regions (06 R163 to R191, 10 R265, R267, 11 R314, R315). -/

theorem ran_activations : ran ([exec (.commit 0 5) (at_ (tasking { state := .running } [actA])), exec (.successorOpen 0 0) (at_ (chained 0)), exec (.fetch 0 0) (at_ (chained 7)), exec (.retirement 0 0) (at_ (tasking { state := .retiring, task := 1 } [] [task .retiring])),
    exec (.retirement 0 0) (at_ (tasking { state := .retiring, task := 1 } [] [task .retiring [0, 0, 0, 0, 0, 0, 0, 0]])), exec (.taskresume 0 0) (at_ (tasking { state := .parked })), exec (.taskresume 0 0) (at_ (tasking { state := .running })),
    exec (.taskresume 0 16) (at_ world), exec (.taskresume 0 16) (at_ (modCore world 0 fun k => { k with relHeld := true })), exec (.taskdiscard 1) (at_ { world with tasks := [task .parked] }), exec (.taskdiscard 1) (at_ { world with tasks := [task .ready] }),
    exec (.taskdiscard 1) (at_ world)]) = true := by decide +kernel
theorem ran_regions : ran ([exec (.quiescenceProbe 0 0) (at_ (setRc world 0 0 { valid := true, frames := 1, quiet := !regionQuiet world 0 { valid := true, frames := 1 } })),
    exec (.regionSwitch 0 0) (at_ (setRc world 0 0 { valid := true, frames := 3, quiet := true, swq := [(1, data 1, { siteA with tag := 0 })] })),
    exec (.quietRequestTaken 0 0) (at_ (joined [{ elem := 0, slot := 0, tag := 0, own := [], taken := none }])),
    exec (.quiescenceStall 0 4) (at_ (setElem (openAct world 0 0 0) 0 { adder with ops := [{ slot := 0, tok := data 1, place := .shared, stamp := 1, side := none }] }))]) = true := by decide +kernel

/-! Accesses at their homes (07 R200 to R212, 11 R298 to R312). -/

theorem ran_homes : ran ([exec (.accessAtHome 0) (acc1 (accA (.load false false))), exec (.accessAtHome 0) (let s := acc1 (accA (.genRead 0 0)); { s with hw := { walking { queue := [.pending 1] } with acc := s.hw.acc } }), exec (.accessAtHome 0) (acc1 (accA .store)),
    exec (.strelRelease 0) (acc1 (accA .store 0x40 (some 4))), exec (.bankStarvationGrant 0) (acc1 (accA .store 0x40 none 16)), exec (.atomicAtHome 0) (acc1 (accA (.atomic 0x188 1 0 false false false))),
    exec (.atomicAtHome 0) (acc1 (accA (.atomic 0x192 1 0 false false false))), exec (.monitorPost 0) (acc1 (accA (.monitor 0 0 0 false))), exec (.monitorPost 0) (acc1 (accA (.monitor 0 1 5 false))),
    exec (.monitorPost 0) (let s := acc1 (accA (.monitor 0 1 5 false)); { s with hw := modCl s.hw (homeCluster 0x40) fun c => { c with mons := List.replicate 256 { addr := 0x80, width := 8, cond := 0, y := 1, sx := false, due := none, site := siteA } } }),
    exec (.accessAtHome 0) (at_ { linkedOut with acc := [accA (.load false false) (2 ^ 46)] }), exec (.atomicAtHome 0) (at_ { linkedOut with acc := [accA (.atomic 0x188 1 0 false false false) (2 ^ 46)] }),
    exec (.monitorDeadline 0 0) (at_ (modCl world 0 fun c => { c with mons := [{ addr := 0x80, width := 8, cond := 0, y := 1, sx := false, due := some 5, site := siteA }] }))]) = true := by decide +kernel
theorem test_monitor : monHolds 0 8 5 5 = true ∧ monHolds 1 8 5 5 = false ∧ monHolds 2 8 5 5 = true ∧ monHolds 3 8 5 5 = false ∧ monHolds 3 1 4 0x105 = true := by decide

/-! Streams, sessions and channels (07 R215 to R227). -/

theorem ran_generators : ran ([exec (.generatorStep 0 0) (at_ (walking {})), exec (.generatorStep 0 0) (at_ (walking {} 1)), exec (.generatorStep 0 0) (at_ (walking { issued := 4, queue := [.value 1 false] })), exec (.generatorStep 0 0) (at_ (walking { issued := 4, queue := [.empty] })),
    exec (.generatorStep 0 0) (at_ (walking { issued := 4, run := 3, queue := [.value 1 false] })), exec (.generatorStep 0 0) (at_ (walking { issued := 4, emitted := 4, endDue := true })), exec (.generatorStep 0 0) (at_ (walking { issued := 4, emitted := 4 }))]) = true := by decide +kernel
theorem ran_sessions : ran ([exec (.wringEmit 0 0) (wringing 0 0), exec (.wringEmit 0 0) (wringing 0 1), exec (.wringEmit 0 0) (wringing 1 1), exec (.spreadSessionToken 0 0) (spreading 0 0 (data 5)), exec (.spreadSessionToken 0 0) (spreading 0 1 (data (5 + 2 ^ 32))),
    exec (.spreadSessionToken 0 0) (spreading 0 0 (data (5 + 2 ^ 48))), exec (.spreadSessionToken 0 0) (spreading 1 0 (close 1)), exec (.spreadSessionToken 0 0) (spreading 2 0 (close 2)),
    exec (.reductionSessionToken 0 0) (reducing 1 (data 5)), exec (.reductionSessionToken 0 0) (reducing 2 (data 5)), exec (.reductionSessionToken 0 0) (reducing 0 (null 1)), exec (.reductionSessionToken 0 0) (reducing 0 (close 1)),
    exec (.reductionSessionToken 0 0) (reducing 2 (close 3))]) = true := by decide +kernel
theorem ran_channels : ran ([exec (.channelTokenArrival 0) (at_ { linked 0 with chan := [{ src := (0, 0), dst := (0, 1), body := .inl (data 1) }] }), exec (.channelTokenArrival 0) (at_ { linked 0 with chan := [{ src := (0, 5), dst := (0, 1), body := .inl (data 1) }] }),
    exec (.creditArrival 0) (at_ { linked 0 with chan := [{ src := (0, 1), dst := (0, 0), body := .inr 1 }] }), exec (.creditArrival 0) (at_ { linked 0 with chan := [{ src := (0, 0), dst := (0, 1), body := .inr 1 }] }),
    exec (.creditArrival 0) (at_ { linked 0 with chan := [{ src := (0, 0), dst := (0, 9), body := .inr 1024 }] }),
    exec (.channelStall 0 1) (at_ (setEp (setEp (setElem world 0 { adder with ops := [{ slot := 0, tok := data 1, place := .shared, stamp := 1, side := none }] }) 0 0 { state := .producer, depth := 2, peer := (0, 1), pcred := 0, waiting := [(0, 0, 0)] }) 0 1 { state := .consumer, depth := 2, peer := (0, 0), debt := 2, since := some 0 }))]) = true := by decide +kernel

/-! Matrix commands at their macros (08 R233 to R252). -/

theorem ran_macros : ran ([exec (.mcfgEffect 0 0) (macroing { queue := [cmd (.mcfg 1 1 0 false)] }), exec (.mldbEffect 0 0) (macroing { queue := [cmd (.mldb { rangeA 1 with rows := 1 } 0 false)] }),
    exec (.mswapEffect 0 0) (macroing { queue := [cmd .mswap] }), exec (.mchkEffect 0 0) (macroing { queue := [cmd (.mchk false)] }), exec (.mchkEffect 0 0) (macroing { queue := [cmd (.mchk true)], shadow := { ckRow := (List.range 256).map fun i => (i, 1) } }),
    exec (.broadcast 0 0) (macroing { queue := [cmd (.mbc 0 0 1 0 false false false)], active := { wcols := 2 } }), exec (.broadcast 0 0) (macroing { queue := [cmd (.mbc 0 0 1 0 false false false)], nbase := 2047, active := { wcols := 2 } }),
    exec (.nullBroadcast 0 0) (macroing { queue := [cmd (.mbc 0 0 1 0 false true false)], active := { wcols := 2 } }),
    exec (.contribution 0 0) (macroing { out := some { stamp := 0, site := siteA, isW := false, isNull := true, total := 0, psn := false, parts := [(0, []), (1, [])] } }),
    exec (.contribution 0 0) (macroing { out := some { stamp := 0, site := siteA, isW := false, isNull := false, total := 1, psn := false, parts := [(0, [{ p := 3, q := 0 }])] } })]) = true := by decide +kernel

/-! Tasks, keys and counters (10 R259 to R293, 11 R310). -/

/-- The words of a record of task type 0, without counters, tiles or keys. -/
def recordA : List Word := [BitVec.ofNat 64 (0x3FF * 2 ^ 22 + 0x3FF * 2 ^ 32), 0, 0, 0, 0, 0, 0, 0]
/-- `world` where ASID 0 has task type 0, its block in frame 1 of every core's object. -/
def typed : Hw := modPkg (loaded) fun p => { p with ttypes := [(0, { handle := 2, block := 0, holds := 9, scratch := 0, tags := 0, valid := true })] }
/-- `typed` where a region of every frame covers die 0, and partition 0 has clusters. -/
def covered (ks : BitVec 32) : Hw := modPkg (setRc typed 0 0 { valid := true, frames := 0xFF, hm1 := 7, wm1 := 7 }) fun p => { p with parts := [(0, { valid := true, clusters := ks })] }
theorem ran_tasks : ran ([exec (.taskRecordAccept 0) (at_ { typed with recs := [{ words := recordA, psn := false, asid := 0, cc := 0, site := some siteA, port := none }] }), exec (.taskRecordAccept 0) (at_ { typed with recs := [{ words := recordA, psn := false, asid := 0, cc := 0, site := none, port := some 0 }] }),
    exec (.taskRecordAccept 0) (at_ { world with recs := [{ words := recordA, psn := false, asid := 0, cc := 0, site := some siteA, port := none }] }), exec (.taskRecordAccept 0) (at_ { world with recs := [{ words := recordA, psn := false, asid := 0, cc := 0, site := none, port := some 0 }] }),
    exec (.taskRouting 1) (at_ { typed with tasks := [task .routing recordA] }), exec (.taskRouting 1) (at_ { typed with tasks := [task .routing [BitVec.ofNat 64 (0x3FF * 2 ^ 22 + 0x3FF * 2 ^ 32 + 2 ^ 42), 0, 0, 0, 0, 5, 0, 0]] }), exec (.routedRecordArrival 1) (at_ { typed with tasks := [{ task .acquiring recordA with transit := true }] }),
    exec (.taskStart 0) (at_ { modCore typed 0 (fun k => { k with ctxs := [] }) with tasks := [task .ready recordA] }), exec (.taskReroute 1) (at_ { covered 1 with tasks := [{ task .ready recordA with visited := [0] }] }), exec (.taskReroute 1) (at_ { covered 3 with tasks := [{ task .ready recordA with visited := [0] }] })]) = true := by decide +kernel
theorem ran_keys : ran ([exec (.keyTry 0) (at_ { world with keyMsgs := [.try_ (keyReq 1)] }), exec (.keyTry 0) (keyed [(2, true)] [] (.try_ (keyReq 1))), exec (.keyTry 0) (keyed [(2, false)] [] (.try_ (keyReq 1 false))), exec (.keyRequest 0) (at_ { world with keyMsgs := [.request (keyReq 1)] }),
    exec (.keyRequest 0) (keyed [(2, true)] [] (.request (keyReq 1))), exec (.keyRequest 0) (keyed [(2, false)] [] (.request (keyReq 1 false))), exec (.keyReply 0) (at_ { world with keyMsgs := [.reply (keyReq 1) true true], tasks := [{ task .acquiring with tries := 1 }] }),
    exec (.keyReply 0) (at_ { world with keyMsgs := [.reply (keyReq 1) true false] }), exec (.keyRelease 0) (keyed [(1, true)] [] (.release 1 0 5)), exec (.keyRelease 0) (keyed [(1, true)] [keyReq 2] (.release 1 0 5)), exec (.keyRelease 0) (keyed [(1, false), (3, false)] [keyReq 2] (.release 1 0 5)),
    exec (.keyAging 1) (at_ { world with tasks := [{ task .acquiring with want := some 5 }] }), exec (.keyEntryRetry 0) (at_ (modCl world 0 fun c => { c with keyWait := [keyReq 1] }))]) = true := by decide +kernel
theorem ran_counters : ran ([exec (.residencyStaleNotice 0) (at_ { world with notices := [(0, 0, 0)] }), exec (.counterApply 0) (at_ { world with cntOps := [{ cl := 0, idx := 0, body := .init 5 false (some siteA), src := .slot 0 0 0 }] }),
    exec (.counterApply 0) (at_ { world with cntOps := [{ cl := 0, idx := 0, body := .dec 5 false none, src := .slot 0 0 0 }] }), exec (.counterApply 0) (at_ { world with cntOps := [{ cl := 0, idx := 0, body := .wait siteA, src := .slot 0 0 0 }] }),
    exec (.cntwaitRetry 0) (at_ (modCl world 0 fun c => { c with waits := [{ idx := 0, site := siteA, returned := true, due := 5 }] }))]) = true := by decide +kernel

/-! Translation and the halyard engines (13 R335 to R354). -/

/-- A request of core 0 for the translation of VA 0. -/
def miss (walking : Bool) (hw : Hw := world) : Hw := modDie hw 0 fun d => { d with reqs := [{ holder := 0, asid := 0, va := 0, write := true, walking := walking }] }
/-- A translation. -/
def xlA : Xlat := { asid := 0, va := 0, size := 0, pa := 0, r := true, w := true, d := true }
theorem ran_translations : ran ([exec (.directoryLookup 0 0) (at_ (modDie (miss false) 0 fun d => { d with dir := [{ x := xlA, holders := [] }] })), exec (.directoryLookup 0 0) (at_ (miss false)), exec (.pageWalk 0 0) (at_ (miss true)),
    exec (.pageWalk 0 0) (at_ (walked (miss true)) tables), exec (.invalidation 0) (at_ { world with invs := [{ die := 0, holder := 0, x := xlA, home := 0 }] }),
    exec (.invalidation 0) (at_ { world with invs := [{ die := 0, holder := 0, x := xlA, home := 0 }], acc := [accA (.load false false) 0] })]) = true := by decide +kernel
theorem ran_halyards : ran ([exec (.halyardUnit 0 0) (halyarding (halA 4)), exec (.halyardUnit 0 0) (halyarding (halA 0)), exec (.halyardUnit 0 0) (halyarding (halA 3)), exec (.halyardUnit 0 0) (halyarding (halA 0 false true)),
    exec (.halyardUnit 0 0) (halyarding (halA 0 true)), exec (.halyardUnit 0 0) (halyarding (halA 0 true false 0x20)), exec (.halyardUnit 0 0) (halyarding { halA 0 true with failed := some { code := cPROT, reason := 1, side := 0, va := 5 } })]) = true := by decide +kernel

/-! The package (13 R362 to R370, 15 R395 to R402) and the fabric (16 R406 to R421). -/

/-- `world` with pre-emption of partition 0 in a phase. -/
def preempting (ph : PrePhase) (works : List (BitVec 10 × SavedWork) := []) : Hw := setPre world 0 { phase := ph, works := works }
theorem ran_preemptions : ran ([exec (.softPreemption .firmware 0x8000000000000000) (at_ world), exec (.hardPreemption .firmware 0xA000000000000000) (at_ world), exec (.softPreemption (.agent 1) 0x8000000000000000) (at_ world), exec (.hardPreemption .firmware 0xA000000000000005) (at_ world),
    exec (.hardPreemption .firmware 0xA000000000000000) (at_ (preempting .soft)), exec (.softPreemption .firmware 0x8000000000000000) (at_ (preempting .drain)), exec (.drainLimit 0) (at_ (preempting .drain)), exec (.save 0) (at_ (preempting .ready)),
    exec (.preemptResume .firmware 0x4000000000000000) (at_ (preempting .idle [(0, {})])), exec (.preemptResume .firmware 0x4000000000000000) (at_ (preempting .drain)), exec (.preemptResume (.agent 1) 0x4000000000000000) (at_ world)]) = true := by decide +kernel
theorem ran_host : ran ([exec .packageReset (at_ world), exec (.attestationRequest [1]) (at_ world), exec (.attestationRequest [1]) (at_ (modPkg world fun p => { p with attIdx := 2 ^ 40 })), exec (.corePowerGate 0) (at_ world),
    exec (.powerGatingReturn 0) (at_ (modCore world 0 fun k => { k with gated := true })), exec (.coreAssignment 255 1023) (at_ world), exec (.coreAssignment 0 0) (at_ world)]) = true := by decide +kernel
theorem ran_errors : ran ([exec (.thermalLimit true) (at_ world), exec (.correctableError 0 0) (at_ world), exec (.uncorrectableError 0x40) (at_ world), exec (.elementStateError 0 0) (at_ world), exec (.coreStateError 255) (at_ world), exec (.clusterControlError 0) (at_ world),
    exec (.hbmStackFailure 7) (at_ world), exec (.ucieLinkError 0 3 true) (at_ world), exec (.ucieLinkError 3 0 false) (at_ world), exec (.serviceCoreFailure 0 0) (at_ world),
    exec (.serviceCoreFailure 0 0) (at_ (modDie world 0 fun d => { d with scs := [(1, { reset := true }), (2, { reset := true }), (3, { reset := true })] })), exec .packageError (at_ world)]) = true := by decide +kernel
theorem ran_links : ran ([exec (.flitReceive 0 false { items := [], taken := 0, refused := false }) (at_ (setLink world 0 { state := 2 })), exec (.flitReceive 0 true { items := [item (.token (data 1))], taken := 0, refused := false }) (at_ (setLink linkedOut 0 { state := 2 })), exec (.linkRetrain 0 true) (at_ (setLink world 0 { state := 1 })),
    exec (.linkRetrain 0 false) (at_ (setLink world 0 { state := 2, streak := 16 })), exec (.linkDown 15) (at_ (setLink world 15 { state := 2 })), exec (.linkUp 15 3) (at_ world)]) = true := by decide +kernel
theorem ran_remote : ran ([exec (.remoteItemArrival 0) (received (.token (data 1)) 2), exec (.remoteItemArrival 0) (received (.reply 0 0 0 false false 0) 1), exec (.remoteItemArrival 0) (received (.request (remote 0x180 9) 0)), exec (.remoteItemArrival 0) (received (.request (remote 0x180 8) 0)),
    exec (.remoteItemArrival 0) (received (.request (remote 0x181 9) 0)), exec (.remoteItemArrival 0) (received (.request (remote 0x188 9) 0)), exec (.markerArrival 0) (received (.marker 1) 2),
    exec (.acknowledgement 1 1 3 0) (at_ (modPkg linkedOut fun p => { p with replay := [replayed false 0] })), exec (.acknowledgement 1 1 3 1) (at_ (modPkg linkedOut fun p => { p with replay := [replayed false 0] })),
    exec (.e2eTimeout 0) (at_ (modPkg (setLink linkedOut 0 { state := 2 }) fun p => { p with replay := [{ replayed true 0 with item := { (replayed true 0).item with dst := 1 } }] })), exec (.e2eTimeout 0) (at_ (modDie (modPkg linkedOut fun p => { p with replay := [replayed false 7] }) 0 fun d => { d with e2eTmo := 1 })),
    exec (.e2eTimeout 0) (at_ (modDie (modPkg linkedOut fun p => { p with replay := [replayed false 8] }) 0 fun d => { d with e2eTmo := 1 })), exec (.rollback 3) (at_ (modPkg world fun p => { p with cut := { p.cut with num := 3, recs := [{ num := 3 }] } }))]) = true := by decide +kernel
/-- An entry on a link that goes down swaps to the next port whose link is up, or drains (16 R409). -/
theorem test_ens_down : let up := setLink (setLink world 1 { state := 2 }) 2 { state := 2 }
    ensDown up 0 0x40002100 = 0xC0012100 ∧ ensDown up 0 0x40002000 = 0xC0022000 ∧ ensDown up 0 0x40000000 = 0x80000000 ∧ ensDown up 3 0x40002100 = 0x40002100 := by decide +kernel

/-! ## Values worked out by hand -/

/-- The VALUE of the last token that a word has sent. -/
def sentValue (op fn : Nat) (l : List Nat) : Option Nat :=
  let w := word op fn 0
  let s := stand world w (l.zipIdx.map fun x => (x.2, data x.1))
  match decodeTableWord 128 w with
  | none => none
  | some i => match exec i s with
    | .next t => t.hw.net.getLast?.map fun f => f.tok.value.toNat
    | _ => none
/-- A 64-bit number below 0. -/
def minus (n : Nat) : Nat := 2 ^ 64 - n
/-- All these words send these values: OP, FN, operands, value. -/
def values (l : List (Nat × Nat × List Nat × Nat)) : Bool := (l.filter fun x => sentValue x.1 x.2.1 x.2.2.1 != some x.2.2.2).isEmpty

/-- Sums, products, quotients and remainders at their corners (04 R130, R131). -/
theorem test_arithmetic : values [(0x080, 0, [0x7FFFFFFF, 1], minus 0x80000000), (0x080, 1, [minus 1, 1], 0), (0x081, 1, [0, 1], minus 1), (0x082, 1, [1, 0], minus 1), (0x084, 1, [2 ^ 63], 2 ^ 63),
    (0x085, 0, [0x7FFFFFFF, 1], 0x7FFFFFFF), (0x086, 1, [2 ^ 63, 1], 2 ^ 63), (0x088, 1, [minus 1, minus 1], 0), (0x089, 1, [minus 1, minus 1], minus 2), (0x08A, 1, [minus 7, 2], minus 3),
    (0x08A, 1, [5, 0], minus 1), (0x08A, 0, [0x80000000, 0xFFFFFFFF], minus 0x80000000), (0x08B, 0, [5, 0], 0xFFFFFFFF), (0x08C, 1, [minus 7, 2], minus 1), (0x08C, 1, [5, 0], 5)] = true := by decide +kernel
/-- Shifts by more than the width, rotations, counts and reversals (04 R132, Table 4.5). -/
theorem test_shifts : values [(0x098, 1, [1, 64], 0), (0x098, 1, [1, 63], 2 ^ 63), (0x09A, 1, [minus 1, 200], minus 1), (0x09A, 0, [0x80000000, 31], minus 1), (0x09B, 0, [0x80000001, 33], 3), (0x09C, 1, [1, 1], 2 ^ 63),
    (0x09D, 0, [1], 31), (0x09E, 1, [0], 64), (0x09F, 0, [minus 1], 32), (0x0A0, 1, [1], 2 ^ 63), (0x0A1, 0, [0x11223344], 0x44332211), (0x0A2, 1, [0xF0, 4 + 4 * 2 ^ 8], minus 1),
    (0x0A3, 1, [0xF0, 4 + 4 * 2 ^ 8], 15), (0x0A4, 1, [0xFFFF, 0, 4 + 4 * 2 ^ 8], 0xFF0F), (0x0A5, 1, [0x80, 8], minus 0x80), (0x0A6, 1, [0x180, 8], 0x80), (0x0A7, 1, [0x1000, 3, 4], 0x1030)] = true := by decide +kernel
/-- Comparisons signed and unsigned, and selections (04 R134 to R137). -/
theorem test_comparisons : values [(0x0C2, 1, [minus 1, 0], 1), (0x0C4, 1, [minus 1, 0], 0), (0x0C3, 0, [2 ^ 32 + 5, 5], 1), (0x0C0, 0, [2 ^ 32 + 5, 5], 1), (0x0C0, 1, [2 ^ 32 + 5, 5], 0), (0x0C8, 1, [3, 4, 2], 4),
    (0x0CA, 1, [9, 0, 7], 7), (0x0CA, 1, [minus 9, 0, 7], 0), (0x0CB, 0, [3, 2], 0), (0x0CD, 0, [2], 1)] = true := by decide +kernel
/-- F32: 1 + 1, the least subnormal halved, 1 / 3, the root of 2, overflow, comparison with a NaN (01 R20 to R22, 05 R142 to R147). -/
theorem test_float : values [(0x100, 0, [0x3F800000, 0x3F800000], 0x40000000), (0x102, 0, [1, 0x3F000000], 0), (0x102, 3, [1, 0x3F000000], 1), (0x111, 0, [0x3F800000, 0x40400000], 0x3EAAAAAB), (0x110, 0, [0x40000000], 0x3FB504F3),
    (0x100, 0, [0x7F7FFFFF, 0x7F7FFFFF], 0x7F800000), (0x100, 4, [0x7F7FFFFF, 0x7F7FFFFF], 0x7F7FFFFF), (0x10B, 0, [0x7FC00000, 0], 0), (0x10D, 0, [0x7FC00000, 0], 1), (0x108, 0, [0x3F800000], 0xBF800000),
    (0x103, 0, [0x3F800001, 0x3F800001, 0xBF800002], 0x28800000)] = true := by decide +kernel
/-- Lanes do not carry into each other, and dot products (05 R150, R154). -/
theorem test_lanes : values [(0x140, 0, [0xFF01, 0x0101], 0x02), (0x140, 1, [0xFFFF0001, 0x00010001], 0x02), (0x144, 0, [0x7F, 1], 0x7F), (0x14C, 0, [0x0102, 0x0103], 0xFFFFFFFFFFFFFF00), (0x14F, 1, [0x1234], 0x1234123412341234),
    (0x157, 0, [0xFF02, 0x0203, 10], 14), (0x154, 0, [0xFF01], 0)] = true := by decide +kernel

/-! ## Words where they wait or fault, clause by clause -/

/-- `world` where every index of core 0 is taken, by space 5. -/
def indexless : Hw := modCl world 0 fun c => { c with spaces := [(5, { size := 16384, cur := 0, parent := 0, freeing := false, core := 0, owner := none, tfree := none })] }
/-- `world` with a pinned or loose entry for tile 0 at place 16. -/
def placedTile (pin : Bool) : Hw := modCl tiled 0 fun c => { c with res := [{ state := .valid, pin := pin, asid := 0, tref := 0, loc := 16, bytes := 64, offset := 0, made := 0 }] }
/-- `world` where the second partition owns the clusters but the first. -/
def twoParts : Hw := modPkg world fun p => { p with parts := [(0, { valid := true, clusters := 1 }), (1, { valid := true, clusters := 2 })] }
/-- Element 0's firing of slot 0 waits, posted at the controller of frames 0 and 1. -/
def posted (taken : Option (List (Nat × Nat))) (own : List (Nat × Nat) := []) : Hw := joined [{ elem := 0, slot := 0, tag := 0, own := own, taken := taken }]
/-- `world` whose region's SWITCH queue is full. -/
def switchFull : Hw := setRc world 0 0 { valid := true, frames := 3, swq := List.replicate 8 (1, data 1, siteA) }
/-- Service core 0 of die 0 with 512 tokens. -/
def inboxFull : Hw := modDie world 0 fun d => { d with scs := [(0, { inbox := List.replicate 512 { die := 0, sc := 0, tok := data 0, site := none, reply := false, asid := 0 } })] }

theorem witness_emission : ((one 0x080 0 0 [data 1, data 2])).fire (fun s f => f.w.t0.extractLsb' 20 2 == 1 && f.w.t1.extractLsb' 20 2 == 0 && (regionOf s.hw f.core f.frame).isNone &&
    f.site.t0 == f.w.t0 && f.site.t1 == f.w.t1 && decide (f.frame < 8)) = true ∧
    ({ one 0x080 0 0 [data 1, data 2] with hw := joined }).fire (fun s f => match regionOf s.hw f.core f.frame with
      | some x => x.2.2.cur.toNat == f.frame
      | none => false) = true := by decide +kernel
theorem hold_channel_states : hold [{ one 0x00E 0 0 [data 7] with lv := 2, out := 258 }, { one 0x010 0 2 [data 7] 1 1 with hw := setEp (linked 1) 0 1 { epAt (linked 1) 0 1 with state := .closing true } },
    one 0x010 0 0 [data 7, data 0] 1 (out := 258), one 0x010 0 0 [data 7, data 1025] 1 (out := 258), one 0x010 0 0 [data 7, data 1] 1 (out := 258), { one 0x012 0 0 [data 7] with hw := linked, out := 1 },
    { one 0x012 0 0 [data 7] with hw := setEp world 0 0 { state := .producer, depth := 2, peer := (0, 1) } }, { one 0x012 0 0 [data 7] 1 with hw := linked, out := 1 },
    { one 0x012 0 0 [data 7] 1 with hw := setEp world 0 1 { state := .consumer, depth := 2, peer := (0, 0) } }, one 0x012 0 0 [data 7] (out := 258)] = true := by decide +kernel
/-- CHCLOSE again while something is outstanding. -/
theorem witness_chclose_waits : (one 0x012 0 0 [data 1] 1).fire (fun s f =>
    let t := { s with hw := setEp s.hw 0 1 { state := .closing true, closer := some f.site, debt := 1 } }
    !mayClose t.hw 0 1 (epAt t.hw 0 1) && answer t (word 0x012 0 0 1) == 1) = true := by decide +kernel
theorem hold_tag_waits : hold [{ one 0x040 0 0 [data 1] with hw := indexless, out := 1 }, { w := word 0x046 0 0 3 0 0 0x300000 0x100068, l := [(0, data 7)], hw := indexless, out := 1 }] = true := by decide +kernel
/-- TFREE where an activation under the space stays open, and where none does; a TNEXT that waits on it. -/
theorem witness_space_freed : ({ one 0x041 0 0 [data 1] with hw := spaced, tag := mkTag 5 0 }).fire (fun s f =>
    (regionOf s.hw f.core f.frame).isNone && (spaceOf s.hw f.core f.frame 5).isSome && !(spaceActs s.hw f.core f.frame 5).isEmpty &&
    (let hw := modCore s.hw 0 fun k => { k with acts := [] }
     (spaceActs hw f.core f.frame 5).isEmpty && (headAt (elemAt hw 0) 0 (mkTag 5 0) 0).isSome &&
       frozen (beginFreeing f hw 5 { size := 4, cur := 0, parent := 0, freeing := false, core := 0, owner := none, tfree := none, nexts := [(0, 0, mkTag 5 0)] } none) 0)) = true := by decide +kernel
theorem hold_block_faults : hold [{ w := word 0x04A 0 2 0 0xFFFFF 0 0, tag := taskTag, l := [(0, data 1)] }, { one 0x048 0 0 [data (2 ^ 63)] with tag := taskTag, out := 258 }] = true := by decide +kernel
/-- EXIT under a task tag to a block, and a second one. -/
theorem witness_exit : ({ w := word 0x04A 0 2 0 7 0 0, tag := taskTag, l := [(0, data 1)] } : Case).fire (fun s f =>
    match findAct (coreAt s.hw 0) f.frame f.tag f.site.occ with
    | some a => a.exit.isNone && isTaskSpace (tagSpace f.tag) && (match countExit f s.hw 7 with
      | .ok hw => (match findAct (coreAt hw 0) f.frame f.tag f.site.occ with
        | some b => b.exit == some (7, 0)
        | none => false) && (match countExit f hw 7 with
        | .error (.fault c d) => c == cILLFIELD && d == 13 + 4 * 2 ^ 5 + f.tag.toNat * 2 ^ 14
        | _ => false)
      | .error _ => false)
    | none => false) = true := by decide +kernel
theorem hold_switches : hold [{ one 0x052 0 2 [data 1] (k := 1) with hw := switchFull, out := 1 }, { one 0x052 0 2 [null 3] (k := 1) with hw := joined }, { one 0x052 0 2 [data 1] (k := 2) with hw := joined, out := 258 },
    { one 0x053 0 0 [data 1] with hw := joined, lv := 2, out := 1 }, { one 0x053 0 0 [data 1] with hw := posted none, lv := 2, out := 1 }, { one 0x053 0 0 [data 1] with hw := posted (some []) [(0, 0)], lv := 2, out := 1 }] = true := by decide +kernel
theorem hold_counter_faults : hold [one 0x04E 0 0 [data 1024, data 1] 4 (out := 261), one 0x04E 0 0 [data (2 ^ 15), data 1] 4 (out := 258), one 0x04E 0 0 [bad, data 1] 4, one 0x04F 0 0 [data 0, data 0, data 1] 4 (out := 258),
    one 0x04F 0 0 [data 0, data (2 ^ 32), data 1] 4 (out := 258), one 0x04F 0 0 [data 1024, data 1, data 1] 4 (out := 261), one 0x04F 0 0 [data (2 ^ 15), data 1, data 1] 4 (out := 258), one 0x04F 0 0 [bad, data 1, data 1] 4,
    one 0x050 0 0 [data (2 ^ 15)] 4 (out := 258), one 0x050 0 0 [bad] 4, { one 0x051 0 0 [data 0x40, data 1, data (2 ^ 40)] 4 with out := 258 }, one 0x051 0 0 [data (2 ^ 48), data 1, data 1] 4 (out := 261),
    one 0x051 0 0 [bad, data 1, data 1] 4] = true := by decide +kernel
theorem witness_partition : crefMine twoParts 0 1024 = false ∧ crefMine twoParts 0 1023 = true ∧ crefMine twoParts 8 1024 = true := by decide +kernel
theorem hold_spawn_faults : hold [{ one 0x04C 0 2 [data 0x40] with lv := 2, hw := crowded, out := 1 }, { one 0x04C 0 2 [data 0x41] with lv := 2, out := 259 }, { one 0x04C 0 2 [bad] with lv := 2 },
    one 0x04D 0 2 [data (2 ^ 54)] (out := 258), one 0x04D 0 2 [data 1] (out := 258), one 0x04D 0 2 [bad]] = true := by decide +kernel
theorem hold_residency_faults : hold [{ one 0x059 0 0 [data 0, data 17] with hw := tiled, out := 258 }, { one 0x059 0 0 [data 0, data 48] with hw := tiled, out := 258 }, { one 0x059 0 0 [data 0, data (2 ^ 29)] with hw := tiled, out := 258 },
    { one 0x059 0 2 [data 0] (k := 0) with hw := modPkg tiled fun p => { p with tileOwner := [(0, 3)] }, out := 261 }, { one 0x059 0 2 [data 1] (k := 16) with hw := tiled, out := 258 },
    { one 0x059 0 2 [data 0] (k := (0x80000 - 63) * 32) with hw := tiled, out := 258 }, { one 0x059 0 2 [data 0] (k := 16) with hw := modPkg world fun p => { p with tiles := [(0, { base := 0, rows := 1, cols := 1, bytes := 0x80040, valid := true })] }, out := 258 },
    { one 0x05A 0 0 [data 0, data 31] with hw := placedTile true }, { one 0x05A 0 0 [data 0, data 48] with hw := placedTile true }, one 0x05A 0 0 [data 0, data 17] (out := 258), one 0x05A 0 0 [data 0, data 64] (out := 258),
    one 0x05C 0 0 [data 0, data 2] (out := 258), one 0x059 0 2 [data (2 ^ 32)] (out := 258), one 0x05A 0 0 [data (2 ^ 32), data 0] (out := 258), one 0x05B 0 0 [data (2 ^ 32), data 0] (out := 258), one 0x05C 0 0 [data (2 ^ 32), data 0] (out := 258),
    { one 0x05B 0 0 [data 0, data 0x110] with hw := placedTile true }, { one 0x05B 0 0 [data 0, data 0x200] with hw := placedTile true }] = true := by decide +kernel
/-- A full table, with one entry that is not pinned, and with none. -/
theorem witness_residency_full : let e : ResEntry := { state := .valid, pin := true, asid := 0, tref := 7, loc := 0, bytes := 64, offset := 0, made := 0 }
    let full := fun (p : Bool) => modCl world 0 fun c => { c with res := { e with loc := 1, pin := p } :: List.replicate 4095 { e with loc := 2 } }
    (resMake (full false) 0 e).2 = true ∧ (resMake (full true) 0 e).2 = false ∧ (resMake world 0 e).2 = true := by decide +kernel
theorem hold_service_waits : hold [{ one 0x056 0 2 [data 1] with hw := inboxFull, out := 1 }, { one 0x057 0 2 [data 1] with hw := inboxFull, out := 1 }, one 0x056 0 2 [bad], one 0x057 0 2 [bad], one 0x058 0 2 [bad]] = true := by decide +kernel
theorem hold_prefetch : hold [{ w := word 0x185 0 2 0 0 0 0, l := [(0, bad)] }, { w := word 0x185 0 2 0 0 0 0, l := [(0, data 0x2000)], out := 1 }, { w := word 0x185 0 2 0 0 0 0, l := [(0, data (2 ^ 48))], out := 261 },
    { w := word 0x185 0 2 0 0 0 0, l := [(0, paddr 0)] }] = true := by decide +kernel
theorem hold_stream_more : hold [{ one 0x195 0 0 [data (2 ^ 48)] with lv := 2, out := 261 }, { one 0x196 0 2 [data 1] (k := 2) (lv := 2) with hw := streaming .idle }, { one 0x196 0 2 [data 1] (k := 1) (lv := 2) with hw := streaming .cancelling }] = true := by decide +kernel

/-! ## Sessions, macros, nodes and halyards where they wait or fault -/

/-- `world` whose SPREAD units, ports c and row buffers of core 0 are in use. -/
def sessionFull : Hw := modCore world 0 fun k => { k with
  spread := (List.range 5).map fun u => (u, .wring { siteA with slot := 3, elem := 9 } (rangeA 8) 4 2 false 0 0 0 none)
  rport := [(0, { site := { siteA with slot := 3, elem := 9 }, range := rangeA 8, n := 2, w := 4, op := 0, fmt := 4 })] }
/-- `world` with sixteen requests at cluster 0's engine. -/
def halFull : Hw := modCl world 0 fun c => { c with hal := List.replicate 16 (halA 0) }
/-- `world` with a broadcast before node instructions at macro 0. -/
def broadcasting : Hw := setMacro world 0 0 { queue := [cmd (.mbc 0 0 1 0 false false false)], active := { wcols := 2 } }

theorem hold_session_waits : hold [{ one 0x197 2 2 [data 0x1000] with hw := sessionFull, lv := 2, out := 1 }, { one 0x198 2 2 [data 0x1FFC] with hw := sessionFull, lv := 2, out := 1 }, { one 0x199 2 2 [data 0x1000] (k := 0x40000000) with hw := sessionFull, lv := 2, out := 1 },
    { one 0x19A 0 2 [data 0x1E00] (k := 0) with hw := broadcasting, lv := 2, out := 1 }, one 0x197 10 0 [data 0x1000, data 0, data (2 ^ 32)] (lv := 2) (out := 258), one 0x197 2 2 [data 0x1001] (lv := 2) (out := 259), one 0x197 2 2 [data 0x1FFD] (lv := 2) (out := 259),
    one 0x198 2 2 [data (2 ^ 48)] (lv := 2) (out := 261), one 0x199 2 0 [data 0x1000, data (2 ^ 32)] (lv := 2) (out := 258), one 0x199 2 0 [data 0x1000, data (5 * 2 ^ 24)] (lv := 2) (out := 258), one 0x199 2 2 [data 0x1002] (k := 0x40000000) (lv := 2) (out := 259),
    one 0x199 2 2 [bad] (k := 0x40000000) (lv := 2), one 0x19A 0 0 [data 0x1E00, data 4] (lv := 2) (out := 258), one 0x19A 0 2 [data 0x200] (k := 0) (lv := 2) (out := 258), one 0x19A 0 2 [data 0x1E04] (k := 0) (lv := 2) (out := 259)] = true := by decide +kernel
theorem hold_macro_nulls : hold [{ one 0x1C3 0 0 [data 1, data 0, null, data 0] (pr := 1) with lv := 0 }, { one 0x1C4 0 0 [data 1, data 0, null, data 0] (pr := 1) with lv := 0 }, { one 0x1C1 0 2 [data 0x1000] with hw := macroFull, lv := 2, out := 1 },
    one 0x1C1 0 0 [data 0x1000, data (2 ^ 44)] (lv := 2) (out := 258), one 0x1C1 0 0 [data 0x1000, data (256 * 2 ^ 8)] (lv := 2) (out := 258), one 0x1C1 0 2 [data 0] (lv := 2) (out := 258), one 0x1C1 0 2 [data (2 ^ 48)] (lv := 2) (out := 261),
    { one 0x1C1 0 2 [data 0x1000] with hw := modCore world 0 fun k => { k with tlb := k.tlb.map fun x => { x with pa := if x.va = 0x1000 then tileBase 1 0 else x.pa } }, lv := 2, out := 258 }] = true := by decide +kernel
theorem hold_node_faults : hold [one 0x1C5 0 0 [data 1, data (2047 + 2048), data 0] (lv := 2) (out := 258), one 0x1C5 0 0 [data 1, data 0, data (2 ^ 18)] (lv := 2) (out := 258), one 0x1C6 0 0 [data 1, data (2 ^ 22), data 1] (lv := 2) (out := 258),
    one 0x1C6 0 0 [data 1, data 0, data 0] (lv := 2) (out := 258), one 0x1C6 0 0 [data 1, data 0, data 8193] (lv := 2) (out := 258), one 0x1C7 0 0 [data 1, data (2 ^ 22)] (lv := 2) (out := 258),
    { one 0x1C5 0 0 [data 1, data 0, data 0] with hw := setNode world 0 0 { parts := 1 }, lv := 2, out := 258 }, { one 0x1C6 0 0 [data 1, data 0, data 1] with hw := setNode world 0 0 { group := some 1 }, lv := 2, out := 258 },
    { one 0x1C5 0 0 [data 1, data 0, data 0] with hw := broadcasting, lv := 2 }, { one 0x1C8 0 0 [data 1, data 0] with hw := broadcasting, lv := 2 }] = true := by decide +kernel
/-- ACCCNT arms unarmed nodes; ACCRD sends their values, refuses to clear an armed one, and a value outside its format. -/
theorem witness_node_reads :
    (match nodeEffect world 0 { body := .cnt 1 2 2 false true false, n0 := 2046, cnt := 2, stamp := 0, site := siteA } with
      | .ok hw => (coreAt hw 0).groups.length == 1 && (nodeAt hw 0 2047).group.isSome
      | .error _ => false) = true ∧
    (match nodeEffect world 0 { body := .rd 2 false true, n0 := 2046, cnt := 2, stamp := 0, site := siteA } with
      | .ok hw => nodeAt hw 0 2047 == {}
      | .error _ => false) = true ∧
    (match nodeEffect (setNode world 0 7 { group := some 1 }) 0 { body := .rd 2 false true, n0 := 6, cnt := 2, stamp := 0, site := siteA } with
      | .error (.fault c d) => c == cILLFIELD && d == 16 + 3 * 2 ^ 5 + 7 * 2 ^ 8
      | _ => false) = true ∧
    (match nodeEffect (setNode world 0 7 { parts := 1, s := 2 ^ 191 }) 0 { body := .rd 2 false false, n0 := 6, cnt := 2, stamp := 0, site := siteA } with
      | .error (.fault c d) => c == cRANGE && d == 7
      | _ => false) = true ∧
    (match nodeEffect (setNode world 0 7 { group := some 1 }) 0 { body := .cnt 1 1 2 false false false, n0 := 6, cnt := 2, stamp := 0, site := siteA } with
      | .error (.fault c d) => c == cILLFIELD && d == 16 + 1 * 2 ^ 5 + 7 * 2 ^ 8
      | _ => false) = true := by decide +kernel
theorem hold_halyard_more : hold (([0x1CA, 0x1CB, 0x1CC, 0x1CD, 0x1CE].map fun op => { one op 0 2 [data 0x40] 4 with lv := 2, hw := halFull, out := 1 }) ++
    ([0x1CA, 0x1CB, 0x1CC, 0x1CD, 0x1CE].flatMap fun op => [one op 0 0 [data 0x40, failed] 4 (lv := 2), one op 0 0 [null, failed] 4, one op 0 2 [bad] 4 (lv := 2), one op 0 2 [data 0x44] 4 (lv := 2) (out := 259), one op 0 2 [data 0x40] 4 (lv := 2) (out := 258)]) ++
    [{ one 0x1CE 0 2 [data 0x40] 4 with lv := 2, mem := bytesAt 0x40 [0, 0x1000, 8, 0, 0, 0x400 + 2 ^ 15], out := 261 }]) = true := by decide +kernel

/-- An event's answer is the named stop. -/
def halts (r : Res State) : Bool :=
  match r with
  | .fault .notEnabled => true
  | _ => false
/-- That all of them are stopped. -/
def stops (l : List (Res State)) : Bool := (l.filter fun r => !halts r).isEmpty

/-- Node commands stand before a broadcast's contributions. -/
theorem ran_contributions : ran ([exec (.mchkEffect 0 0) (macroing { queue := [cmd (.mchk false)], active := { ckCol := [(511, 1)] } }), exec (.broadcast 0 0) (macroing { queue := [cmd (.mbc 0 3 256 0 false false false)], afmt := 9, active := { wcols := 2 } }),
    exec (.broadcast 0 0) (macroing { queue := [cmd (.mbc 0 0 1 0 false false true)], active := { wcols := 2 } }), exec (.nullBroadcast 0 0) (macroing { queue := [cmd (.mbc 0 0 1 0 false true false)], nbase := 2047, active := { wcols := 2 } }),
    exec (.mldbEffect 0 0) (macroing { queue := [cmd (.mldb { rangeA 1 with rows := 1, stale := true } 0 false)] }), exec (.mldbEffect 0 0) (macroing { queue := [cmd (.mldb { rangeA 1 with rows := 1, stale := true, tok := data (2 ^ 48) } 0 false)] }),
    exec (.mldbEffect 0 0) (macroing { queue := [cmd (.mldb { rangeA 1 with rows := 1, stale := true, tok := data 0x2000 } 0 false)] }), exec (.mldbEffect 0 0) (at_ (setMacro world 0 0 { lfmt := 14, queue := [cmd (.mldb { rangeA 1 with rows := 1, tail := 1 } 0 false)] }) { bytes := [(tileBase 0 0 + 1, 0xFF)] }),
    exec (.contribution 0 0) (macroing { out := some { stamp := 0, site := siteA, isW := true, isNull := false, total := 1, psn := false, parts := [(0, [{ p := 3, q := 0 }])] } }),
    exec (.contribution 0 0) (macroing { out := some { stamp := 0, site := siteA, isW := true, isNull := false, total := 0, psn := false, parts := [(0, [{ p := 3, q := 300 }])] } }),
    exec (.contribution 0 0) (at_ (let hw := modCore (setNode world 0 0 { group := some 5, count := 1 }) 0 fun k => { k with groups := [{ id := 5, n0 := 0, cnt := 2, c := 1, r := 1, fmt := 2, sat := false, clr := false, site := siteA }] }
      setMacro hw 0 0 { out := some { stamp := 0, site := siteA, isW := true, isNull := false, total := 0, psn := false, parts := [(0, [{ p := 3, q := 0 }])] } }))]) = true := by decide +kernel
/-- What the last three contributions rest on. -/
theorem witness_contributions : (match addAll {} [{ p := 3, q := 300 }] with
      | .error _ => true
      | .ok _ => false) = true ∧
    nodeHolds (modCore (setNode world 0 0 { group := some 5, count := 1 }) 0 fun k => { k with groups := [{ id := 5, n0 := 0, cnt := 2, c := 1, r := 1, fmt := 2, sat := false, clr := false, site := siteA }] }) 0 0 = true := by decide +kernel

/-! ## Elements' events, clause by clause -/

theorem witness_token_faults : let hw := setElem world 0 adder
    tokenFault hw 0 0 (mkTok 0 0 .service 0) = some (cILLFIELD, 5, false) ∧ tokenFault hw 0 1 (data 1) = some (cEMPTY, 0, false) ∧ tokenFault hw 0 0 (close 0) = some (cILLFIELD, 8, false) ∧ tokenFault hw 0 0 (data 1) = none ∧
    tokenFault hw 0 0 { data 1 with cont := mkCont 0 0 0 2 } = some (cILLFIELD, 5, false) ∧ tokenFault (setElem world 0 { words := [(0, BitVec.ofNat 128 (0x1D2 * 2 ^ 119))] }) 0 0 (data 1) = some (cILLOP, 0x1D2 * 2 ^ 16, true) ∧
    tokenFault (setElem world 0 { words := [(0, BitVec.ofNat 128 (word 0x080 2 0))] }) 0 0 (data 1) = some (cILLFIELD, 0, false) := by decide +kernel
/-- Element 0 with `n` shared, `k` kept operands of another slot. -/
def crammed (n k : Nat) : Hw := setElem world 0 { adder with ops := List.replicate n { slot := 5, tok := data 1, place := .shared, stamp := 1, side := none } ++ List.replicate k { slot := 5, tok := data 1, place := .kept, stamp := 1, side := none } }
theorem witness_places : placeFor (crammed 47 0) 0 0 0 0 = some .shared ∧ placeFor (crammed 48 15) 0 0 0 0 = (if oldestTag (crammed 48 15) 0 0 0 then some .kept else some .spilled) ∧ placeFor (crammed 48 16) 0 0 0 0 = some .spilled ∧
    placeFor (setElem world 0 { adder with ops := [{ slot := 0, tok := { data 1 with cont := mkCont 0 0 0 1 }, place := .shared, stamp := 1, side := none }] }) 0 0 0 0 = some .direct ∧
    placeFor (setElem world 0 { adder with ops := [{ slot := 0, tok := data 1, place := .spilled, stamp := 1, side := none }] }) 0 0 0 0 = some .spilled ∧
    oldestTag (crammed 48 0) 0 0 0 = true := by decide +kernel
theorem ran_element_events : ran ([exec (.tokenArrival 0) (arriving { flight (mkTok 0 0 .config 0) with src := .fabric 1 }),
    exec (.overflowRefill 0) (at_ (setElem world 0 { adder with ops := [{ slot := 31, tok := data 1, place := .spilled, stamp := 1, side := none }] })), exec (.reissue 0) (frozenAdder (.issued 0 0 (some (.service (svc 5 false))))),
    exec (.nullify 0) (frozenAdder (.issued 0 0 (some (.service (svc 5 false))))), exec (.reissue 0) (frozenAdder (.issued 0 0 none)), exec (.nullify 0) (frozenAdder (.issued 0 0 none)), exec (.reissue 0) (frozenAdder (.config (cfg 6 5))), exec (.nullify 0) (frozenAdder (.config (cfg 6 5))),
    exec (.reissue 0) (at_ (freeze (sessionTok (data 1) world) 0 0 0 0x198 (.session 0 0) 2 0)), exec (.nullify 0) (at_ (freeze (sessionTok (data 1) world) 0 0 0 0x198 (.session 0 0) 2 0)),
    exec (.nullify 0) (at_ (modCore (freeze world 0 0 0 0x180 (.queued 0 0 0) 2 0) 0 fun k => { k with lsq := [{ frame := 0, slot := 0, elem := 0, tag := 0, occ := 0, lsid := 0, toks := [] }] })),
    exec (.faultReport 0 4) (let s := frozenAdder (.firing 0 0); at_ (modCl s.hw 0 fun c => { c with copies := [(5, {})] })),
    exec (.kset { cfg 6 5 with src := .ingress 0 }) (at_ { setElem world 0 adder with net := [{ tok := (cfg 6 5).tok, src := .port 0 }] }), exec (.kset { cfg 6 5 with src := .ingress 0 }) (at_ { setElem world 0 adder with net := [{ tok := (cfg 6 5).tok, src := .port 0, gen := 1 }] }),
    exec (.iwordLo (cfg 0 5)) (at_ world), exec (.iwordLo (cfg 7 5)) (at_ world), exec (.iwordLo (cfg 1 5)) (at_ (openAct world 0 0 0)), exec (.kset (cfg 6 5)) (at_ (modCore world 0 fun k => { k with frames := k.frames.map fun x => (x.1, { x.2 with held := [cfg 6 4] }) }))]) = true := by decide +kernel
/-- A token that no place takes stands at the input: every record of the core is in use. -/
theorem witness_held_at_input :
    let o := fun (p : Place) => ({ slot := 5, tok := data 1, place := p, stamp := 1, side := none } : Operand)
    placeFor (setElem world 0 { adder with ops := List.replicate 48 (o .shared) ++ List.replicate 16 (o .kept) ++ List.replicate 16384 (o .spilled) }) 0 0 0 0 = none := by decide +kernel

/-! ## Events of services, ingress, registers, blocks, homes, units and the package where they wait, end or do nothing -/

/-- A store of 8 bytes that a commit releases, its page unmapped since. -/
def released : Buffered := { seq := 5, lsid := 0, va := 0, isPa := false, pa := 0, width := 8, data := 5, psn := false, inTable := false, stale := true, site := { siteA with frame := 7 }, srcblk := 0, srchnd := 0, ctx := some 0 }
/-- A read of a register, or a store to one. -/
def regAcc (k : AccKind) (w : Nat := 8) : Access := { accA k 0x3E0000000500 with width := w }
/-- A request of core 0's firing of slot 0. -/
def asked : Option Nat := some 1
/-- A generator at its end, or that has met a fault, or that is cancelled. -/
def ending (x : Gen) (st : GenState := .running) (elems : Hw := world) : State :=
  at_ (setGen elems 0 0 { x with state := st, site := some siteA, desc := [0x1000, BitVec.ofNat 64 (3 + 2 ^ 53 + 2 ^ 54 + 2 ^ 55), 8, 0, 0, 0x1000100010004, 0, 0] })
/-- A walk whose first position lies at a VA, of elements of 4 bytes. -/
def walksAt (b : Nat) : State :=
  at_ (setGen world 0 0 { state := .running, site := some siteA, desc := [BitVec.ofNat 64 b, BitVec.ofNat 64 (3 + 2 ^ 50 * 2 + 2 ^ 53), 8, 0, 0, 0x1000100010004, 0, 0] })
/-- `wringing` over a range whose page was unmapped. -/
def staleWring (tok : Token) : State := at_ (setSpread world 0 0 (.wring siteA { rangeA 8 with stale := true, tok := tok } 4 2 false 0 0 0 none))
/-- A dead session of SPREAD or RPORT, with a token. -/
def deadSpread (t : Token) : State := at_ (setSpread (sessionTok t world) 0 0 (.spread siteA (rangeA 8) 4 2 0 0 true []))
def deadReduce (t : Token) : State :=
  at_ (modCore (sessionTok t world) 0 fun k => { k with rport := [(0, { site := siteA, range := rangeA 8, n := 2, w := 4, op := 0, fmt := 4, dead := true })] })
/-- `world` with a full directory of translations in use by nobody, or by core 0's access. -/
def directory (used : Bool) (h : Hw) : Hw :=
  let e : DirEntry := { x := { asid := 0, va := 0x5000, size := 0, pa := 0x5000, r := true, w := true, d := true }, holders := [0] }
  let hw := modDie h 0 fun d => { d with dir := List.replicate 8192 e }
  if used then { hw with acc := [{ accA .store 0x5000 with isPa := false }] } else hw

theorem ran_more_services : ran ([exec (.mapreq 0 0 (some (BitVec.ofNat 8 cPAGE))) (at_ (inbox [svc 0 true, svc 1 true])), exec (.mapreq 0 0 none) (at_ (walked (inbox [svc 2 true, svc 1 true])) tables),
    exec (.abortself 0 0) (at_ { inbox [{ svc 3 true with task := some 1 }] with tasks := [task .running] }), exec (.abortself 0 0) (at_ (inbox [{ svc 3 true with task := some 1 }])), exec (.abortself 0 0) (at_ (setRc (inbox [svc 3 true]) 0 0 { valid := true, frames := 3 })),
    exec (.nodeclear 0) (at_ world), exec (.echo 0 0) (at_ (inbox [svc 2 false, svc 0 false]))]) = true := by decide +kernel
theorem ran_more_ingress : ran ([exec (.ingressWrite ⟨.firmware, 0⟩ 0 (List.replicate 16 0)) (at_ world), exec (.ingressWrite ⟨(.function 0), 0⟩ 0 []) (at_ (porting {})), exec (.ingressWrite ⟨(.function 1), 0⟩ 0 []) (at_ (porting {})), exec (.ingressWrite ⟨.firmware, 64⟩ 0 []) (at_ (porting {})),
    exec (.firmwareUpdate ⟨2, 0⟩) (at_ (loaded)), exec (.firmwareUpdate ⟨2, 0⟩) (at_ (loaded [] [1])), exec (.hoistPlacement 0) (at_ (porting { hold := .hoist, cur := 9 }))]) = true := by decide +kernel
theorem witness_ingress : hoistResident (loaded [(0, (0, 0))]) 3 = false ∧ hoistResident (setRc (loaded [(0, (0, 0))]) 0 0 { valid := true, frames := 1, hoist := 3 }) 3 = true ∧
    hoistsFit (loaded) 0 = true ∧ (portAt (portTake (porting {}) 0 { en := true, err := true, seq := 4 } 0 (data 1)) 0).seq = 5 ∧
    (portAt (portTake (porting {}) 0 { en := true, words := List.replicate 6 0 } 0 (mkTok 0 0 .header 0 6)) 0).words.length = 7 ∧ portCluster (porting {}) { en := true } = some 0 ∧
    (portAt (portTake (porting {}) 0 { en := true, words := List.replicate 7 0 } 0 (mkTok 0 0 .header 0 7)) 0).hold = .record ∧
    levelOver (modPkg world fun p => { p with flevel := 0 }) oneObj = true := by decide +kernel
theorem ran_more_registers : ran ([exec (.registerWrite .firmware 0x40 5) (at_ world), exec (.registerWrite .firmware (tileBase 255 1 + 0x7FFF8) 5) (at_ world), exec (.registerReadClear ⟨(.function 1), 0x3E0000000200⟩) (at_ world), exec (.registerReadClear ⟨.firmware, 0x3E0003FFFFF8⟩) (at_ world),
    exec (.granuleAssign .firmware 0x8000000000000003) (at_ world), exec (.ensSelfWrite .firmware 1) (at_ (porting {})), exec (.partCfgWrite .firmware 1 0x8000000000000002) (at_ world)]) = true := by decide +kernel
/-- An activation that commits with a store: forwarded at its place, or at the place that a new translation gives. -/
theorem ran_commits : ran ([exec (.commit 0 5) (at_ (modCore (tasking { state := .running } [actA]) 0 fun k => { k with stores := [{ released with stale := false }] })),
    exec (.commit 0 5) (at_ (modCore (walked (tasking { state := .running } [actA])) 0 fun k => { k with stores := [released] }) tables),
    exec (.taskresume 0 16) (at_ (modCore (walked (tasking { state := .running })) 0 fun k => { k with relHeld := true, releaseQ := [released] }) tables),
    exec (.taskdiscard 1) (at_ { world with tasks := [task .saved] }), exec (.taskdiscard 1) (at_ { world with tasks := [task .running] })]) = true := by decide +kernel
theorem witness_staged : commitWrites false [(3, .value 7 false), (4, .null)] [] = [(3, (7, false))] ∧ commitWrites true [(3, .value 7 false)] [] = [(3, (7, true))] := by decide +kernel
theorem ran_more_regions : ran ([exec (.quiescenceProbe 0 0) (at_ (setElem (setRc world 0 0 { valid := true, frames := 1, quiet := true }) 0 { adder with fired := true })), exec (.quietRequestTaken 0 0) (at_ (joined [{ elem := 0, slot := 0, tag := 0, own := [], taken := some [] }, { elem := 1, slot := 0, tag := 0, own := [], taken := none }]))]) = true := by decide +kernel
theorem ran_more_homes : ran ([exec (.accessAtHome 0) (acc1 (regAcc (.load false false))), exec (.accessAtHome 0) (acc1 (regAcc .store)), exec (.accessAtHome 0) (acc1 (regAcc .store 4)), exec (.accessAtHome 0) (acc1 { accA (.rowLine 3 7) with width := 64, port := 8 }),
    exec (.accessAtHome 0) (acc1 (accA .fetchWord)), exec (.accessAtHome 1) (at_ { world with acc := [{ accA .store 0x80 with id := 2, core := 1 }, accA (.load false false)] }),
    exec (.monitorPost 0) (at_ { linkedOut with acc := [accA (.monitor 0 0 0 false) (2 ^ 46)] }), exec (.strelRelease 0) (at_ { linkedOut with acc := [accA .store (2 ^ 46) (some 4)] }),
    exec (.accessAtHome 0) (acc1 (accA (.load false false) (2 ^ 46))), exec (.atomicAtHome 0) (acc1 (accA (.atomic 0x188 1 0 false false false) (2 ^ 46))), exec (.monitorPost 0) (acc1 (accA (.monitor 0 0 0 false) (2 ^ 46)))]) = true := by decide +kernel
/-- A refused access of higher rank goes first, as does one refused sixteen times. -/
theorem witness_outranked : let a := accA (.load false false) (tileBase 0 0)
    outranked { world with acc := [a, { a with id := 2, refused := 16 }] } a = true ∧ outranked { world with acc := [a] } a = false ∧ outranked { world with acc := [a, { a with id := 2 }] } a = false := by decide +kernel
theorem ran_more_generators : ran ([exec (.generatorStep 0 0) (walksAt (2 ^ 48 - 2)), exec (.generatorStep 0 0) (walksAt (2 ^ 48)), exec (.generatorStep 0 0) (walksAt 0x1001), exec (.generatorStep 0 0) (walksAt 0x9000), exec (.generatorStep 0 0) (ending { issued := 4, emitted := 4, run := 128 }),
    exec (.generatorStep 0 0) (ending { issued := 2, emitted := 2, fail := some (5, 7, 2) }), exec (.generatorStep 0 0) (ending { issued := 3, emitted := 2, queue := [.value 1 false], fail := some (5, 7, 3) }), exec (.generatorStep 0 0) (ending { ended3 := true } .cancelling),
    exec (.generatorStep 0 0) (ending {} .cancelling), exec (.generatorStep 0 0) (ending { fail := some (5, 7, 2) } .cancelling)]) = true := by decide +kernel
/-- Where a generator may both send and issue, either goes first. -/
theorem witness_either : (genEmit (walking { issued := 1, queue := [.value 1 false] }) 0 0).isSome = true ∧ (genIssue (walking { issued := 1, queue := [.value 1 false] }) 0 0).isSome = true := by decide +kernel
theorem ran_more_sessions : ran ([exec (.wringEmit 0 0) (staleWring (data 0x1000)), exec (.wringEmit 0 0) (staleWring (data (2 ^ 48))), exec (.wringEmit 0 0) (staleWring (data 0x2000)), exec (.spreadSessionToken 0 0) (deadSpread (data 1)), exec (.spreadSessionToken 0 0) (deadSpread (close 2)),
    exec (.spreadSessionToken 0 0) (spreading 0 0 (null 1)), exec (.spreadSessionToken 0 0) (spreading 0 1 (null 1)), exec (.spreadSessionToken 0 0) (spreading 0 1 (close 1)), exec (.spreadSessionToken 0 0) (spreading 1 0 (close 2)), exec (.spreadSessionToken 0 0) (spreading 0 0 bad),
    exec (.reductionSessionToken 0 0) (deadReduce (data 1)), exec (.reductionSessionToken 0 0) (deadReduce (close 3)), exec (.reductionSessionToken 0 0) (reducing 0 (null 2)), exec (.wringEmit 0 0) (at_ (setSpread world 0 0 (.wring siteA (rangeA 8) 4 2 false 1 1 0 (some (0, 5)))))]) = true := by decide +kernel
theorem ran_more_channels : ran ([exec (.channelTokenArrival 0) (at_ { setEp world 0 1 { state := .closing true, peer := (0, 0) } with chan := [{ src := (0, 0), dst := (0, 1), body := .inl (data 1) }] }), exec (.channelTokenArrival 0) (at_ { world with chan := [{ src := (0, 0), dst := (0, 1), body := .inl (data 1) }] }),
    exec (.creditArrival 0) (at_ { setEp world 0 0 { state := .closing false, peer := (0, 1) } with chan := [{ src := (0, 1), dst := (0, 0), body := .inr 1 }] }),
    exec (.creditArrival 0) (at_ { setEp world 0 0 { held := [(0, 1, 1024)] } with chan := [{ src := (0, 1), dst := (0, 0), body := .inr 1 }] })]) = true := by decide +kernel
theorem stops_tasks : stops [exec (.taskRecordAccept 0) (at_ { crowded with recs := [{ words := recordA, psn := false, asid := 0, cc := 0, site := none, port := none }] }),
    exec (.taskRecordAccept 1) (at_ { typed with recs := List.replicate 2 { words := recordA, psn := false, asid := 0, cc := 0, site := none, port := none } }),
    exec (.taskRecordAccept 0) (at_ { typed with net := [{ tok := mkTok 0 0 .config 0, src := .port 0 }], recs := [{ words := recordA, psn := false, asid := 0, cc := 0, site := none, port := some 0 }] }),
    exec (.taskRouting 1) (at_ { typed with tasks := [task .ready recordA] }), exec (.routedRecordArrival 1) (at_ { typed with tasks := [task .acquiring recordA] }), exec (.taskStart 0) (at_ world), exec (.taskReroute 1) (at_ { typed with tasks := [task .acquiring recordA] }),
    exec (.taskRouting 2) (at_ { typed with tasks := [task .routing [BitVec.ofNat 64 0, 0, 0, 0, 0, 0, 0, 0], { task .routing [BitVec.ofNat 64 0, 0, 0, 0, 0, 0, 0, 0] with id := 2 }] }),
    exec (.routedRecordArrival 2) (at_ { typed with tasks := [{ task .acquiring recordA with transit := true }, { task .acquiring recordA with id := 2, transit := true, sentAt := 3 }] }), exec (.keyAging 1) (at_ { world with tasks := [task .acquiring] })] = true := by decide +kernel
theorem ran_more_tasks : ran ([exec (.taskRecordAccept 0) (at_ { typed with recs := [{ words := recordA, psn := false, asid := 0, cc := 0, site := none, port := none }] }), exec (.taskRecordAccept 0) (at_ { world with recs := [{ words := recordA, psn := false, asid := 0, cc := 0, site := none, port := none }] }),
    exec (.routedRecordArrival 1) (at_ { typed with tasks := [{ task .acquiring recordA with transit := true, tries := 1 }] }), exec (.keyTry 0) (keyed [] [keyReq 2] (.try_ (keyReq 1))),
    exec (.keyTry 0) (at_ { modCl world (sliceOf 5) (fun c => { c with keyWait := List.replicate 2048 { keyReq 2 with resv := true, key := 6 } }) with keyMsgs := [.try_ (keyReq 1)] }),
    exec (.keyRequest 0) (at_ { modCl world (sliceOf 5) (fun c => { c with keyWait := [keyReq 2] }) with keyMsgs := [.request (keyReq 1)] }), exec (.keyReply 0) (at_ { world with keyMsgs := [.reply (keyReq 1) false false] }),
    exec (.keyReply 0) (at_ { world with keyMsgs := [.reply (keyReq 1) false true], tasks := [{ task .acquiring with tries := 2 }] }), exec (.keyRelease 0) (keyed [(1, true), (3, true)] [keyReq 2] (.release 1 0 5))]) = true := by decide +kernel
theorem stops_counters : stops [exec (.counterApply 1) (at_ { world with cntOps := [{ cl := 0, idx := 0, body := .dec 5 false none, src := .slot 0 0 0 }, { cl := 0, idx := 0, body := .dec 5 false none, src := .slot 0 7 3 }] }),
    exec (.cntwaitRetry 0) (at_ (modCl world 0 fun c => { c with waits := [{ idx := 0, site := siteA, returned := false, due := 5 }] })),
    exec (.cntwaitRetry 0) (at_ (modCl world 0 fun c => { c with waits := [{ idx := 0, site := siteA, returned := true, due := 2 ^ 40 }] }))] = true := by decide +kernel
theorem stops_translations : stops [exec (.directoryLookup 0 0) (at_ (miss true)), exec (.pageWalk 0 0) (at_ (miss false)), exec (.directoryLookup 0 16) (at_ (modDie world 0 fun d => { d with reqs := List.replicate 16 { holder := 0, asid := 0, va := 0, write := true, walking := true } ++ [{ holder := 0, asid := 0, va := 1, write := false, walking := false }] })),
    exec (.invalidation 0) (at_ { world with invs := [{ die := 0, holder := 0, x := xlA, home := 0, removed := true }], acc := [{ accA (.load false false) 0 with isPa := false }] }), exec (.halyardUnit 0 0) (at_ world), exec (.halyardUnit 0 0) (halyarding { halA 0 with pending := [7] }),
    exec (.pageWalk 0 0) (at_ (directory true (walked (miss true))) tables)] = true := by decide +kernel
theorem ran_more_translations : ran ([exec (.pageWalk 0 0) (at_ (directory false (walked (miss true))) tables)]) = true ∧ (dirVictim (directory true world) 0).isNone = true ∧ (dirVictim (directory false world) 0).isSome = true := by decide +kernel
theorem ran_more_halyards : ran ([exec (.halyardUnit 0 0) (halyarding { halA 0 true false 0x20 with sent := true }), exec (.halyardUnit 0 0) (halyarding (halA 0 true false 0x2000)), exec (.halyardUnit 0 0) (halyarding (halA 0 true false (2 ^ 47))),
    exec (.halyardUnit 0 0) (halyarding { halA 0 with desc := [0x2040, 0x1000, 8, 0, 0, 0, 0, 0] }), exec (.halyardUnit 0 0) (halyarding { halA 1 with desc := [0x40, 0x1000, 8, 0, 0x80, 0, 0, 0] }), exec (.halyardUnit 0 0) (halyarding { halA 2 with desc := [0x40, 0x1000, 8, 0, 0x80, 0, 0, 0] })]) = true := by decide +kernel
theorem stops_package : stops [exec (.softPreemption .firmware 0) (at_ world), exec (.softPreemption .firmware 0xA000000000000000) (at_ world), exec (.hardPreemption .firmware 0x8000000000000000) (at_ world), exec (.preemptResume .firmware 0xC000000000000000) (at_ world),
    exec (.drainLimit 0) (at_ (preempting .soft)), exec (.save 0) (at_ (preempting .drain)), exec (.corePowerGate 256) (at_ world), exec (.corePowerGate 0) (at_ (modCore world 0 fun k => { k with gated := true })), exec (.powerGatingReturn 0) (at_ world), exec (.coreAssignment 256 0) (at_ world),
    exec (.coreAssignment 0 1024) (at_ world), exec (.coreStateError 256) (at_ world), exec (.clusterControlError 32) (at_ world), exec (.hbmStackFailure 8) (at_ world), exec (.ucieLinkError 1 1 true) (at_ world), exec (.serviceCoreFailure 4 0) (at_ world),
    exec (.uncorrectableError 0x3E0000000000) (at_ world), exec (.flitReceive 0 true { items := [], taken := 0, refused := false }) (at_ world), exec (.linkRetrain 0 true) (at_ world), exec (.linkDown 16) (at_ world), exec (.linkUp 16 3) (at_ world), exec (.linkUp 0 3) (at_ (setLink world 0 { state := 2 })), exec (.rollback 0) (at_ world)] = true := by decide +kernel
theorem ran_more_preemptions : ran ([exec (.preemptResume .firmware 0x4000000000000000) (at_ (preempting .idle)), exec (.drainLimit 0) (at_ { preempting .drain with now := 0 }), exec (.save 0) (at_ (setPre world 0 { phase := .ready, hard := true })), exec (.elementStateError 0 0) (at_ joined),
    exec (.serviceCoreFailure 0 3) (at_ (modDie world 0 fun d => { d with scs := [(0, { reset := true }), (1, { reset := true }), (2, { reset := true })] })), exec (.coreAssignment 0 1) (at_ world), exec (.flitReceive 0 true { items := [item (.token (data 1))], taken := 0, refused := false }) (at_ (setLink world 0 { state := 2 }))]) = true := by decide +kernel
theorem ran_more_remote : ran ([exec (.remoteItemArrival 0) (received (.request (remote 0x1CD 9) 0)), exec (.remoteItemArrival 0) (received (.request (remote 0x051 9) 0)), exec (.remoteItemArrival 0) (received (.token { data 1 with cont := mkCont 1 0 0 0 }) 2), exec (.remoteItemArrival 0) (received (.request { remote 0x192 9 with y := 5 } 0)),
    exec (.remoteItemArrival 0) (let s := received (.token (data 1)) 2; at_ (modPkg s.hw fun p => { p with recvBuf := [item (.token (data 1)) 2 5], nums := [(streamKey 1 2, { nextIn := 6 })] })),
    exec (.acknowledgement 1 0 3 0) (at_ (modPkg { linkedOut with acc := [{ accA .store (2 ^ 46) with id := 7, sent := true }] } fun p => { p with replay := [{ replayed false 0 with item := { item (.request (remote 0x181 9) 7) 0 3 with src := 0, dst := 1 } }] })),
    exec (.rollback 3) (at_ (modPkg world fun p => { p with cut := { p.cut with num := 4, recs := [{ num := 3, image := [(0x40, 7)], pages := [(0x40, 64)] }, { num := 4, full := false }] } }))]) = true := by decide +kernel
theorem stops_remote : stops [exec (.remoteItemArrival 0) (received (.marker 1) 2), exec (.markerArrival 0) (received (.token (data 1)) 2), exec (.remoteItemArrival 0) (let s := received (.token (data 1)) 2; at_ (modPkg s.hw fun p => { p with cut := { p.cut with state := 3 } })),
    exec (.e2eTimeout 0) (at_ (modPkg linkedOut fun p => { p with replay := [{ replayed false 0 with kept := some 3 }] })), exec (.e2eTimeout 0) (at_ (modPkg world fun p => { p with replay := [{ replayed true 0 with item := { (replayed true 0).item with dst := 1 } }] })),
    exec (.e2eTimeout 0) (at_ (modDie (modPkg linkedOut fun p => { p with replay := [{ replayed false 0 with sentAt := 10 ^ 6 }] }) 0 fun d => { d with e2eTmo := 1 }))] = true := by decide +kernel

/-! ## The words of firmware, phase by phase -/

/-- `one`, whose frame's CHKPT descriptor stands at 0x40 with a number. -/
def cutCase (k num : Nat) (out : Nat := 0) : Case := { one 0x1CF 0 2 [data 0x40] (k := k) with lv := 2, mem := bytesAt 0x40 [num, 2 ^ 46], out := out }
/-- What CHKPT answers where its own cut is in a phase. -/
def cutPhase (x : Cut) (m : Hw → Hw := id) : Nat :=
  let s := stand world (word 0x1CF 0 2) [(0, data 0x40)] 0 (bytesAt 0x40 [1, 2 ^ 46])
  match fireAt s (word 0x1CF 0 2) with
  | some f => answer { s with hw := m (modPkg s.hw fun p => { p with cut := { x with taking := some (f.site, (List.range 8).map fun i => if i = 0 then 1 else if i = 1 then 2 ^ 46 else 0) } }) } (word 0x1CF 0 2)
  | none => 997
/-- The same of ABANDON of that cut. -/
def cutGivenUp (x : Cut) (k num : Nat) : Nat :=
  let s := stand world (word 0x1CF 0 2 0 k) [(0, data 0x40)] 0 (bytesAt 0x40 [num, 2 ^ 46])
  answer { s with hw := modPkg s.hw fun p => { p with cut := { x with taking := some (siteA, (List.range 8).map fun i => if i = 0 then 1 else if i = 1 then 2 ^ 46 else 0) } } } (word 0x1CF 0 2 0 k)

theorem hold_cut_reads : hold ([0, 1, 2].flatMap fun k => [{ one 0x1CF 0 2 [data 0x41] (k := k) with lv := 2, out := 258 }, { one 0x1CF 0 2 [data 0x40] (k := k) with lv := 2, mem := bytesAt 0x40 [0, 2 ^ 46], out := 258 }, { one 0x1CF 0 2 [bad] (k := k) with lv := 2 }] : List Case) = true := by decide +kernel
theorem hold_cut_recorded : hold [{ cutCase 2 1 with hw := modPkg world fun p => { p with cut := { p.cut with num := 1, recs := [{ num := 1 }] } } }, { cutCase 1 1 with hw := modPkg world fun p => { p with cut := { p.cut with num := 1, recs := [{ num := 1, dest := 2 ^ 46 }] } } },
    { cutCase 2 5 with hw := cutAt 0 1 }, { cutCase 0 1 with hw := cutAt 2 0 }] = true := by decide +kernel
/-- While activations are exposed it waits, or gives up at its limit; then it saves, writes, waits for a shoot-down, and ends; one given up answers. -/
theorem witness_cut_phases : cutPhase { state := 1 } (fun hw => modCore hw 0 fun k => { k with acts := k.acts.map fun a => { a with exposed := true } }) = 0 ∧
    cutPhase { state := 1 } = 0 ∧ cutPhase { state := 2, written := false } = 0 ∧ cutPhase { state := 2, written := true } = 0 ∧ cutPhase { state := 1, stopping := true } = 0 ∧
    cutPhase { state := 2, written := true } (fun hw => modDie hw 0 fun d => { d with shoot := some { asid := 0, all := true, va := 0, size := 0 } }) = 1 ∧ cutGivenUp { state := 1 } 2 1 = 0 ∧ cutGivenUp { state := 1 } 0 2 = 0 := by decide +kernel
theorem hold_registers : hold [one 0x1D0 0 2 [data 0x3E0000000104] (lv := 2) (out := 259), one 0x1D0 0 2 [data 0x40] (lv := 2) (out := 258), one 0x1D0 0 2 [data 0x3E0003FFFFF8] (lv := 2) (out := 258), one 0x1D0 0 2 [bad] (lv := 2),
    one 0x1D1 0 3 [data 0x3E000100300C, data 0] (lv := 2) (out := 259), one 0x1D1 0 3 [data 0x40, data 0] (lv := 2) (out := 258), one 0x1D1 0 3 [data 0x3E0001003008, bad] (lv := 2), one 0x1D1 0 0 [data 0x3E0001003008, data 0, bad] (lv := 2)] = true := by decide +kernel

/-! ## Common rules, faults and waits of single words -/

/-- A predicate that does not fire, or is poisoned, of words of classes 0, 1 and 6. -/
theorem hold_predicated : hold [one 0x001 0 0 [data 1, null, null, data 0] (pr := 1) (lv := 0), one 0x001 0 0 [data 1, null, null, bad] (pr := 1) (lv := 0), one 0x051 0 0 [data 0x40, data 1, data 5, data 0] 4 (pr := 1) (lv := 0),
    one 0x04C 0 2 [data 0x40, null, null, data 0] (pr := 1) (lv := 0), one 0x188 3 0 [data 8, data 1, null, data 0] 4 (pr := 1) (lv := 0), one 0x059 0 2 [data 0, null, null, bad] (pr := 1) (lv := 0),
    one 0x1CA 0 2 [data 0x40, null, null, data 0] 4 (pr := 1) (lv := 0)] = true := by decide +kernel
/-- NULL operands of the words that leave them to the common rule, a null-store and a null-load among them. -/
theorem hold_nulls : hold [one 0x04E 0 0 [null 2, data 1] 4, one 0x050 0 0 [null] 4, one 0x04D 0 2 [null], one 0x181 3 3 [null 1, data 1], one 0x183 3 2 [data 8, null, data 0] 4, one 0x180 3 2 [null], one 0x182 3 2 [null] 4,
    one 0x188 3 0 [data 8, null 3] 4, one 0x195 0 0 [null], one 0x1C0 0 0 [null, data 0], one 0x059 0 2 [null], one 0x011 0 0 [null, data 1]] = true := by decide +kernel
/-- An END on port a goes on, whatever the other ports hold; on another port it is a fault when it is offered. -/
theorem hold_ends : hold ([0x04C, 0x04D, 0x059].map (fun op => one op 0 2 [close 1]) ++ [one 0x04E 0 0 [close 1, data 1] 4, one 0x181 3 3 [close 2 5, null], one 0x180 3 2 [close 1], one 0x183 3 2 [close 1, data 9, data 0] 4, one 0x195 0 0 [close 1],
    one 0x1C0 0 0 [close 1, data 0], one 0x1CA 0 2 [close 1] 4] : List Case) = true := by decide +kernel
theorem witness_end_offered : (match decodeTableWord 128 (word 0x181 3 0 0 0) with
    | some i => match specOf i, opFields i with
      | some sp, some (_, w) => (offerFault sp w { close 1 with cont := mkCont 0 0 0 1 }).map (· % 32) == some 5 && (tokenPorts sp w).contains 1
      | _, _ => false
    | none => false) = true := by decide +kernel
/-- BOUND and DIGIT with a NULL alone and beside poison; MERGE and CONST with END; EXIT and EXITX with NULL, poison and a value out of range. -/
theorem hold_null_beside : hold [one 0x0C9 1 0 [null 1, bad] (lv := 0), one 0x0C9 1 0 [data 1, null], one 0x161 1 0 [null 2, bad, data 0] (lv := 0), one 0x161 1 0 [data 1, null, data 0], one 0x005 0 0 [close 1, close 1],
    one 0x005 0 0 [close 1, close 2] (out := 258), one 0x005 0 0 [close 1, data 1] (out := 258), one 0x002 0 2 [close 1], one 0x002 0 2 [null 3], { w := word 0x04A 0 2 0 0xFFFFFF 0 0, tag := taskTag, l := [(0, null)], lv := 1 },
    { w := word 0x04B 0 0 0 0 0 0, tag := taskTag, l := [(0, data 1), (1, null)], lv := 1 }, { w := word 0x04B 0 0 0 0 0 0, tag := taskTag, l := [(0, null), (1, data 7)], lv := 1 },
    { w := word 0x04B 0 0 0 0 0 0, tag := taskTag, l := [(0, null), (1, bad)], lv := 1 }, { w := word 0x04B 0 0 0 0 0 0, tag := taskTag, l := [(0, null), (1, data (2 ^ 24))], lv := 1, out := 258 }] = true := by decide +kernel
/-- CHOPEN of a port of another package, of a depth and a side out of range, of an endpoint that is open, without its CHRECV, and without room. -/
theorem hold_chopen : hold [one 0x011 0 0 [data (2 ^ 20), data 1024] (out := 258), one 0x011 0 0 [data 0, data 0] (out := 258), one 0x011 0 0 [data 0, data 1025] (out := 258), one 0x011 0 0 [data 0, data (1 + 2 ^ 17)] (out := 258),
    { one 0x011 0 0 [data 0, data 1] with hw := linked, out := 258 }, one 0x011 0 0 [data 0, data (1 + 2 ^ 16)] (out := 258),
    { one 0x011 0 0 [data 0, data 1] 2 with hw := setEp world 0 5 { state := .producer, depth := 1024, peer := (0, 1) }, out := 1 }] = true := by decide +kernel
/-- A token from endpoint 0 to endpoint 1 of core 0. -/
def toPeer (t : Token) : ChanMsg := { src := (0, 0), dst := (0, 1), body := .inl t, side := none }
/-- A producer whose send buffers, and all that its links hold, are full, whatever the links hold. -/
theorem witness_chsend_full (hw : Hw) (t : Token) (n : Nat) (h : (epAt hw 0 0).depth = n) :
   sendBufferFree { hw with chan := List.replicate (n + Config.chanRoom 0) (toPeer t) } 0 0 = false := by
  have g : ∀ p : ChanMsg → Bool, p (toPeer t) = true → ∀ k, (List.replicate k (toPeer t)).filter p = List.replicate k (toPeer t) :=
    fun p h k => List.filter_eq_self.2 fun x hx => by rw [(List.mem_replicate.1 hx).2]; exact h
  have e : ∀ l, (epAt { hw with chan := l } 0 0).depth = n := fun _ => h
  have c : chanFrom { hw with chan := List.replicate (n + Config.chanRoom 0) (toPeer t) } 0 0 = List.replicate (n + Config.chanRoom 0) (toPeer t) := g _ rfl _
  simp only [sendBufferFree, c, e, g (fun m => m.body.isLeft) rfl, List.length_replicate]
  simp
/-- Tag words in spaces that are not live, at an index that is not the current one, with an index or a link word out of range; a TNEXT that waits. -/
theorem hold_tag_faults : hold ([0x041, 0x042].flatMap (fun op => [one op 0 0 [data 1] (out := 258), { one op 0 0 [data 1] with tag := mkTag 5 0, out := 258 }]) ++
    [{ one 0x042 0 0 [data 1] with hw := spaced, tag := mkTag 5 1, out := 258 }, { one 0x042 0 0 [data 1] with hw := openAct spaced 0 0 (mkTag 5 1), tag := mkTag 5 0, out := 1 },
     { one 0x044 0 0 [data 1, data 0] with tag := mkTag 5 0, out := 258 }, one 0x044 0 0 [data 1, data 1] (out := 258), { one 0x044 0 0 [data 1, data 4] with hw := spaced, tag := mkTag 5 0, out := 258 },
     { w := word 0x047 0 0 0 0 0 0, l := [(0, data 7), (1, data 0)], lv := 1, out := 258 }, { w := word 0x047 0 0 0 0 0 0, l := [(0, data 7), (1, null)], hw := spaced, tag := mkTag 5 0, lv := 1, out := 258 },
     { w := word 0x047 0 0 0 0 0 0, l := [(0, data 7), (1, data (2 ^ 50))], hw := spaced, tag := mkTag 5 0, lv := 1, out := 258 }, { w := word 0x047 0 0 0 0 0 0, l := [(0, data 7), (1, data (mkCont 1 0 0 0).toNat)], hw := spaced, tag := mkTag 5 0, lv := 1, out := 261 }] : List Case) = true := by decide +kernel
/-- A word with a parameter of a range that no row can have; RPORT whose tile is another core's; RESQ of a query without a name. -/
theorem hold_range_faults : hold [one 0x197 2 0 [data 0x1000, data (2 ^ 48), data 0] (lv := 2) (out := 258), one 0x198 2 0 [data 0x1000, data (2 ^ 24 + 1)] (lv := 2) (out := 258), one 0x199 2 0 [data 0x1000, data (2 ^ 24 + 1)] (lv := 2) (out := 258),
    { one 0x199 2 2 [data 0x1000] (k := 0x40000000) with hw := modCore world 0 fun k => { k with tlb := k.tlb.map fun x => { x with pa := if x.va = 0x1000 then tileBase 1 0 else x.pa } }, lv := 2, out := 258 },
    one 0x05B 0 0 [data 1, data 0x300] (out := 258), one 0x05B 0 0 [data 1, data (0x100 + 17)] (out := 258), one 0x05B 0 0 [data 1, data 32] (out := 258)] = true := by decide +kernel

/-- What an activation under context 0's task tag reads of hold register 3: it waits, reads 9 or what the context holds, or faults. -/
def reads (acts : List Act) (occ : Nat := 1) (opened : Nat := 2) : Option (Word × Bool) :=
  let hw := modCore world 0 fun c => { c with ctxs := [(0, { state := .running, hold := [(3, (7, false))] })], acts := acts, opened := [(keyAct 0 taskTag, opened)], frames := c.frames.map fun x => (x.1, { x.2 with state := .resident }) }
  match readHold hw { siteA with tag := taskTag, occ := occ } 3 with
  | .ok x => some x
  | .error _ => none
/-- Its own activation, behind one that may write the register: not yet, or with a value, or with a NULL. -/
theorem witness_hold_read :
    let own : Act := { frame := 0, tag := taskTag, occ := 1, seq := 8, ctx := some 0 }
    let before := fun (l : Tab Staged) => ({ frame := 0, tag := taskTag, occ := 0, seq := 5, ctx := some 0, writes := l } : Act)
    reads [own] = some (7, false) ∧ reads [before [], own] = none ∧ reads [before [(3, .value 9 false)], own] = some (9, false) ∧ reads [before [(3, .null)], own] = some (7, false) ∧
      reads [] = some (7, false) ∧ reads [] 2 = none := by decide +kernel
/-- KEYQ of a key held by two, with a request queued, and of the slice. -/
theorem test_key_snapshot : let hw := modCl world (sliceOf 5) fun c => { c with keys := [{ asid := 0, key := 5, holders := [(1, false), (2, false)], queue := [keyReq 3] }] }
    keySnapshot hw 0 5 false = 1 + 2 * 4 + 2 ^ 13 ∧ keySnapshot hw 0 5 true = 2047 ∧ keySnapshot hw 1 5 false = 0 := by decide +kernel

/-! ## Events: the fabric's sending side, ports that wait, reads from outside, and what is written back -/

/-- `linkedOut` with link 0 up, keeping `n` flits. -/
def linkUpWith (n : Nat) : Hw := setLink linkedOut 0 { state := 2, kept := List.replicate n { seq := 0, items := [], acks := [] } }
theorem witness_sending : fabGoes linkedOut 0 1 0 = true ∧ fabGoes world 0 1 0 = false ∧ (flitOut (linkUpWith 511) 0 1 []).isSome = true ∧ flitOut (linkUpWith 512) 0 1 [] = none ∧ flitOut linkedOut 0 1 [] = none ∧
    (fabSend linkedOut 0 1 0 (.marker 1)).pkg.replay.length = 1 ∧ (fabSend world 0 1 0 (.marker 1)).pkg.fabWait.length = 1 ∧ (fabSend (linkUpWith 0) 0 1 0 (.marker 1)).pkg.replay.all (fun r => !r.due) = true ∧
    (match fabCheck linkedOut 1 1 0 5 with
      | .error (.fault c d) => c == cLINK && d == 5
      | _ => false) = true ∧ (fabCheck linkedOut 0 1 0 5).isOk = true := by decide +kernel
/-- The far end takes flits, or refuses the oldest, which is sent again (16 R408). -/
theorem test_far_end : let x : Link := { state := 2, kept := [{ seq := 3, items := [], acks := [] }, { seq := 4, items := [], acks := [] }], seqOut := 5, streak := 2 }
    (farEnd x 4 false).kept.length = 1 ∧ (farEnd x 4 false).streak = 0 ∧ (farEnd x 3 true).streak = 3 ∧ (farEnd x 3 true).replays = 1 ∧ (farEnd x 5 true).replays = 0 := by decide +kernel
/-- An entry of the replay buffer for logical chip 1, its timer run out. -/
def late (tries : Nat) (hw : Hw) : State :=
  at_ (modDie (modPkg hw fun p => { p with replay := [{ replayed false tries with item := { (replayed false 0).item with dst := 1 } }] }) 0 fun d => { d with e2eTmo := 1, e2eLim := 8 })
theorem ran_sending : ran [exec (.e2eTimeout 0) (late 7 (linkUpWith 0)), exec (.e2eTimeout 0) (late 7 (linkUpWith 512)), exec (.e2eTimeout 0) (late 8 (linkUpWith 0)),
    exec (.flitReceive 0 true { items := [], taken := 0, refused := true }) (at_ (linkUpWith 3)), exec (.accessAtHome 0) (let s := acc1 (accA .store (2 ^ 46)); { s with hw := { linkUpWith 0 with acc := s.hw.acc } }),
    exec (.remoteItemArrival 0) (let s := received (.reply 0 0 0 false true 0) 1; at_ (modPkg s.hw fun p => { p with acked := [{ accA .store (2 ^ 46) with id := 0, sent := true }] })),
    exec (.tokenArrival 0) (let s := arriving (flight (data 1)); { s with hw := { linkUpWith 0 with elems := s.hw.elems, net := [{ flight (data 1) with src := .fabric 1 }] } })] = true := by decide +kernel
/-- A marker of a cut that is not recorded is reported, its stream alone held; a second one of that cut is not. -/
theorem witness_marker : let hw := (received (.marker 1) 2).hw
    hw.pkg.cut.num = 0 ∧ (hw.pkg.nums.any fun x => x.2.held == some 1) = false ∧ mayDeliver hw (item (.marker 1) 2) = true ∧
      mayDeliver (modPkg hw fun p => { p with nums := [(streamKey 1 2, { held := some 1 })] }) (item (.marker 1) 2) = false := by decide +kernel

/-- A stream of a port waits in a cut, and for its element. -/
theorem witness_port_waits : portHeld (modPkg (porting {}) fun p => { p with cut := { p.cut with state := 1 } }) 0 = true ∧ portHeld (porting {}) 0 = false ∧ tokenWaits (porting {}) 0 {} (data 1) = false := by decide +kernel
/-- A lower agent's claim is decided first. -/
theorem witness_claims : lowerClaim { world with inputs := [.ownClaim 1] } 2 = true ∧ lowerClaim { world with inputs := [.ownClaim 3] } 2 = false ∧ lowerClaim world 2 = false := by decide +kernel
/-- A granule that is being zeroed, and a bank whose request goes before a unit's. -/
theorem witness_waits : let hw := modPkg world fun p => { p with assigning := some (3, 1, 0) }
    zeroing hw 0x600000 = true ∧ zeroing hw 0 = false ∧ walkWaits {} (walked hw) 0 0 0 = false ∧
      bankBusy { world with acc := [accA .store (tileBase 0 0) none 16] } 3 (tileBase 0 0) 8 = true ∧ bankBusy { world with acc := [accA .store (tileBase 0 0)] } 3 (tileBase 0 0) 8 = false := by decide +kernel
/-- A panel of an MLDB as it takes effect: its columns are no longer those of the format, or all is as it was. -/
theorem test_panel_now : let par := data (1 * 2 ^ 8)
    let r := fun (lf : Nat) => let (rows, cols, stride) := panelShape lf par.value
      ({ rangeA 1 with rows := rows, len := rowBytes lf cols, stride := stride, tail := tableBytes lf rows cols } : TileRange)
    (match mldbPanelNow siteA 0 7 par.value world (r 0) with
      | .ok x => x.2 == r 0
      | .error _ => false) = true ∧
    (match mldbPanelNow siteA 0 7 (BitVec.ofNat 64 (300 * 2 ^ 8)) world (r 0) with
      | .error (.fault c _) => c == cILLFIELD
      | _ => false) = true := by decide +kernel
/-- What a read from outside answers. -/
def answered (r : Res State) : Option Word :=
  match r with
  | .next t => some t.hw.pkg.readVal
  | _ => none
theorem test_answers : regAt 0x3E000100A000 = some (.ensSelf 0) ∧ answered (exec (.registerReadClear ⟨.firmware, 0x3E000100A000⟩) (at_ linkedOut)) = some 0x8000000000000000 ∧
    answered (exec (.registerReadClear ⟨.firmware, 0x3E0003FFFFF8⟩) (at_ linkedOut)) = some 0 ∧ mayRead world (.function 1) (.cntVal 0 0) = false ∧
    answered (exec (.registerReadClear ⟨.function 1, 0x3E0000000200⟩) (at_ world)) = some 0 := by
  refine ⟨by decide +kernel, by decide +kernel, by decide +kernel, by decide +kernel, by decide +kernel⟩
/-- New firmware without an object named, one that an object needs, and one that rebuilds an object. -/
theorem ran_updates : ran [exec (.firmwareUpdate ⟨0xFFFFF, 1⟩) (at_ (loaded)), exec (.firmwareUpdate ⟨0xFFFFF, 0⟩) (at_ (loaded)), exec (.firmwareUpdate ⟨2, 1⟩) (at_ (loaded [] [1]))] = true ∧
    objOf (loaded) 0xFFFFF = none ∧ (rebuildObject {} (loaded [] [1]) 2).isSome = true ∧ unsupported (loaded) 0 = [2] := by
  refine ⟨by decide +kernel, by decide +kernel, by decide +kernel, by decide +kernel⟩
/-- A task whose block no frame of its core can take starts and waits. -/
theorem witness_task_waits : let hw := modCore typed 0 fun k => { k with ctxs := [], frames := (List.range 8).map fun f => (f, { state := .resident, handle := 3 }) }
    (blockFrame {} hw 0 0 2 0).isNone = true ∧ happens (exec (.taskStart 0) (at_ { hw with tasks := [task .ready recordA] })) = true := by
  constructor <;> decide +kernel

/-- A token of a replay for CHRECV's slot, and one on the ordinary path. -/
theorem witness_channel_replay : let hw := setElem world 0 { words := [(0, BitVec.ofNat 128 (word 0x00F 0 0))] }
    let fl : Flight := { flight (data 1) with src := .replay 0 }
    chanReplay hw fl = true ∧ chanReplay hw (flight (data 1)) = false ∧ (tokenFault hw 0 0 fl.tok).isSome = true ∧
      happens (exec (.tokenArrival 0) (at_ { hw with net := [fl] })) = true := by
  refine ⟨by decide +kernel, by decide +kernel, by decide +kernel, by decide +kernel⟩
/-- What NULLIFY leaves of an operation that had issued: NULL, or of a broadcast a null-broadcast. -/
theorem ran_given_up : ran [exec (.nullify 0) (frozenAdder (.issued 0 0 (some (.access (accA (.load false false)))))), exec (.nullify 0) (frozenAdder (.issued 0 0 (some (.macro_ 0 (cmd (.mbc 0 0 1 0 false false false)))))),
    exec (.nullify 0) (frozenAdder (.issued 0 0 (some (.macro_ 0 (cmd .mswap))))), exec (.nullify 0) (frozenAdder (.issued 0 0 (some (.node { body := .clr, n0 := 0, cnt := 2, stamp := 0, site := siteA }))))] = true := by decide +kernel
/-- CHKPT RESTORE of another package's image takes what its record, which is free, holds (log 10). -/
theorem witness_restore_foreign : imageRec world (2 ^ 46) 1 = { Config.cutImage 1 with num := 1, dest := 2 ^ 46 } ∧
    imagesFor world.pkg.cut.recs 3 = none ∧ (one 0x1CF 0 2 [data 0x40] (k := 1)).fire (fun s f => !dropped s.hw f) = true := by
  refine ⟨rfl, by decide +kernel, by decide +kernel⟩
/-- ABANDON of a cut that is not the last, and of the one recorded last. -/
theorem hold_cut_abandoned : hold [{ cutCase 2 5 with hw := cutAt 0 1 }, { cutCase 2 1 with hw := modPkg world fun p => { p with nums := [(streamKey 1 2, { held := some 1 })], cut := { p.cut with num := 1, recs := [{ num := 1 }] } } }] = true := by decide +kernel

end Sys2Proof.Tests
end

section
/-! PROOFS. What shared operations leave as it was: the package's own part under discards, the tasks and the partitions under what
follows a write of a range at its homes, the cores under shoot-downs, the units under reports of contained errors. -/
namespace Sys2Proof.Machine

/-! ## Folds -/

/-- A fold of steps that leave a reading as it was leaves it as it was. -/
theorem foldl_same {σ β α : Type} (p : σ → α) (g : σ → β → σ) (hg : ∀ s b, p (g s b) = p s) (l : List β) (s : σ) : p (l.foldl g s) = p s :=
  foldl_keeps (fun x => p x = p s) g (fun x b h => (hg x b).trans h) l s rfl

/-- Changing the first `n` elements from `b` on, one after another, changes each of them once. -/
theorem elemAt_foldl_setElem (g : Elem → Elem) (b n j : Nat) (hw : Hw) (h : j < n) :
    elemAt ((List.range n).foldl (fun hw i => setElem hw (b + i) (g (elemAt hw (b + i)))) hw) (b + j) = g (elemAt hw (b + j)) := by
  have key : ∀ k, elemAt ((List.range k).foldl (fun hw i => setElem hw (b + i) (g (elemAt hw (b + i)))) hw) (b + j) =
      if j < k then g (elemAt hw (b + j)) else elemAt hw (b + j) := by
    intro k
    induction k with
    | zero => simp
    | succ k ih =>
      rw [List.range_succ, List.foldl_append, List.foldl_cons, List.foldl_nil]
      by_cases hjk : j = k
      · subst hjk
        simp only [Nat.lt_irrefl, if_false] at ih
        simp [ih]
      · rw [elemAt_setElem_ne _ _ _ _ (by omega), ih]
        simp only [show j < k + 1 ↔ j < k by omega]
  rw [key n, if_pos h]

/-! ## Emission -/

theorem stageWrite_ne_wait (hw h : Hw) (x : Site) (j : Nat) (v : Option (Word × Bool)) : stageWrite hw x j v ≠ .error (.wait h) := by
  unfold stageWrite
  dsimp only
  repeat' split
  all_goals simp [accounting]

theorem sendCont_ne_wait (hw h : Hw) (x : Site) (src : Src) (cont : BitVec 30) (t : Token) : sendCont hw x src cont t ≠ .error (.wait h) := by
  unfold sendCont
  dsimp only
  repeat' split
  all_goals simp

theorem holdTarget_ne_wait (hw h : Hw) (x : Site) (j : Nat) (t : Token) : holdTarget hw x j t ≠ .error (.wait h) := by
  unfold holdTarget
  split
  · exact stageWrite_ne_wait _ _ _ _ _
  · exact stageWrite_ne_wait _ _ _ _ _
  · exact stageWrite_ne_wait _ _ _ _ _
  · simp [accounting]

theorem emitRoute_ne_wait (hw h : Hw) (x : Site) (src : Src) (i : Nat) (t : Token) (b : Bool) : emitRoute hw x src i t b ≠ .error (.wait h) := by
  unfold emitRoute
  dsimp only
  split
  · simp [illegal]
  · split
    · simp [regionCause]
    · exact sendCont_ne_wait _ _ _ _ _ _

theorem emitTo_ne_wait (hw h : Hw) (x : Site) (src : Src) (g : BitVec 22) (t : Token) (b : Bool) : emitTo hw x src g t b ≠ .error (.wait h) := by
  unfold emitTo
  split
  · simp
  · dsimp only
    split
    · simp [regionCause]
    · exact sendCont_ne_wait _ _ _ _ _ _
  · exact holdTarget_ne_wait _ _ _ _ _
  · exact emitRoute_ne_wait _ _ _ _ _ _ _

/-- Emission never waits (03 R98.3). -/
theorem emitList_ne_wait (hw h : Hw) (x : Site) (src : Src) (g : BitVec 22) (ts : List Token) : emitList hw x src g ts ≠ .error (.wait h) := by
  induction ts generalizing hw with
  | nil => simp [emitList]
  | cons t r ih =>
    unfold emitList
    split
    · exact ih _
    next e h1 => intro h2; cases h2; exact emitTo_ne_wait _ _ _ _ _ _ _ h1

theorem Emits.pkg {c : Nat} {hw hw' : Hw} (h : Emits c hw hw') : hw'.pkg = hw.pkg := by
  have e := congrArg Hw.pkg h.rest
  exact e
theorem Emits.tasks {c : Nat} {hw hw' : Hw} (h : Emits c hw hw') : hw'.tasks = hw.tasks := by
  have e := congrArg Hw.tasks h.rest
  exact e

/-! ## Element faults -/

@[simp] theorem freeze_pkg (hw : Hw) (e slot : Nat) (tag : BitVec 20) (op : BitVec 9) (why : FaultFrom) (code detail : Nat) (psn : Bool)
    (kind : BitVec 4) (port : Nat) : (freeze hw e slot tag op why code detail psn kind port).pkg = hw.pkg := by
  unfold freeze; dsimp only; split <;> rfl
@[simp] theorem freeze_tasks (hw : Hw) (e slot : Nat) (tag : BitVec 20) (op : BitVec 9) (why : FaultFrom) (code detail : Nat) (psn : Bool)
    (kind : BitVec 4) (port : Nat) : (freeze hw e slot tag op why code detail psn kind port).tasks = hw.tasks := by
  unfold freeze; dsimp only; split <;> rfl

/-! ## What follows a write of a range at its homes -/

/-- The tasks and the partitions: what no monitor test, notice or emission changes. -/
def tasksParts (hw : Hw) : List Task × Tab Part := (hw.tasks, hw.pkg.parts)

theorem Emits.tasksParts {c : Nat} {hw hw' : Hw} (h : Emits c hw hw') : Machine.tasksParts hw' = Machine.tasksParts hw := by
  unfold Machine.tasksParts; rw [h.tasks, h.pkg]

theorem tasksParts_settle {hw : Hw} {x : Site} {r : Except Stop Hw} (hok : ∀ h, r = .ok h → tasksParts h = tasksParts hw)
    (hwait : ∀ h, r ≠ .error (.wait h)) : tasksParts (settle hw x r) = tasksParts hw := by
  unfold settle
  split
  next h => exact hok h rfl
  next h => exact absurd rfl (hwait h)
  · simp [tasksParts]

theorem tasksParts_monDone (hw : Hw) (x : Site) (w v : Nat) (sgn psn : Bool) (st : Nat) :
    tasksParts (monDone hw x w v sgn psn st) = tasksParts hw := by
  unfold monDone
  refine tasksParts_settle (fun h e => ?_) fun h e => ?_
  · simp only [bind, Except.bind] at e
    split at e
    · cases e
    next h1 e1 => exact (emits_emitList e).tasksParts.trans (emits_emitList e1).tasksParts
  · simp only [bind, Except.bind] at e
    split at e
    next e1 => cases e; exact emitList_ne_wait _ _ _ _ _ _ e1
    · exact emitList_ne_wait _ _ _ _ _ _ e

theorem tasksParts_entryOut (hw : Hw) (r : RplEntry) : tasksParts (entryOut hw r).1 = tasksParts hw := by
  unfold entryOut
  dsimp only
  split
  next e => obtain ⟨_, _, x, rfl, _⟩ := flitOut_next _ _ _ _ _ e; rfl
  · rfl

theorem tasksParts_fabSend (hw : Hw) (d lc cls : Nat) (body : FabBody) : tasksParts (fabSend hw d lc cls body) = tasksParts hw := by
  unfold fabSend
  split
  · rfl
  · exact tasksParts_entryOut hw _

theorem tasksParts_monEnd (m : Mem) (hw : Hw) (e : MonEntry) (st : Nat) : tasksParts (monEnd m hw e st) = tasksParts hw := by
  unfold monEnd
  dsimp only
  split
  · exact tasksParts_monDone _ _ _ _ _ _ _
  · exact tasksParts_fabSend _ _ _ _ _

theorem tasksParts_testMonitorsOf (m : Mem) (l w : Nat) (hw : Hw) (k : Nat) : tasksParts (testMonitorsOf m l w hw k) = tasksParts hw := by
  unfold testMonitorsOf
  dsimp only
  split
  · rfl
  · exact foldl_same tasksParts _ (fun h e => tasksParts_monEnd m h e 0) _ _

theorem tasksParts_notify (m : Mem) (hw : Hw) (l w : Nat) : tasksParts (notify m hw l w) = tasksParts hw := by
  unfold notify
  split <;> rfl

theorem tasksParts_homeZero (m : Mem) (hw : Hw) (l w : Nat) : tasksParts (homeZero m hw l w).2 = tasksParts hw :=
  (tasksParts_notify _ _ _ _).trans (foldl_same tasksParts _ (tasksParts_testMonitorsOf _ l w) _ _)

theorem homeZero_tasks (m : Mem) (hw : Hw) (l w : Nat) : (homeZero m hw l w).2.tasks = hw.tasks :=
  congrArg Prod.fst (tasksParts_homeZero m hw l w)

theorem homeZero_parts (m : Mem) (hw : Hw) (l w : Nat) : (homeZero m hw l w).2.pkg.parts = hw.pkg.parts :=
  congrArg Prod.snd (tasksParts_homeZero m hw l w)

/-- A byte after a range has been zeroed (15 R394). -/
theorem memByte_memZero (m : Mem) (a w j : Nat) : memByte (memZero m a w) j = if a ≤ j ∧ j < a + w then 0 else memByte m j := by
  unfold memByte memZero
  split
  next h => exact tget_tkeep_dropped (fun x => !(decide (a ≤ x ∧ x < a + w))) _ _ _ (by simpa using h)
  next h => exact tget_tkeep_kept (fun x => !(decide (a ≤ x ∧ x < a + w))) _ _ _ (by simp only [h, decide_false, Bool.not_false])

/-! ## Frames and activations -/

@[simp] theorem cfgFault_pkg (hw : Hw) (m : CfgMsg) (code detail : Nat) (why : FaultFrom) : (cfgFault hw m code detail why).pkg = hw.pkg :=
  freeze_pkg ..

@[simp] theorem clearSlots_pkg (hw : Hw) (c f : Nat) (words : Bool) : (clearSlots hw c f words).pkg = hw.pkg := by
  unfold clearSlots
  exact foldl_same Hw.pkg _ (fun _ _ => by rfl) _ _

@[simp] theorem startLoad_pkg (hw : Hw) (c f : Nat) : (startLoad hw c f).pkg = hw.pkg := by
  unfold startLoad
  dsimp only
  split
  · rw [modCore_pkg]; split <;> simp
  · rfl

@[simp] theorem putWord_pkg (hw : Hw) (m : CfgMsg) : (putWord hw m).pkg = hw.pkg := by
  unfold putWord
  dsimp only
  split
  · simp
  · split <;> simp

@[simp] theorem putHeader_pkg (hw : Hw) (m : CfgMsg) : (putHeader hw m).pkg = hw.pkg := by
  unfold putHeader
  dsimp only
  split
  · simp
  · simp [clearCounts]

/-- A configuration message taking effect leaves the package's own part. -/
@[simp] theorem applyCfg_pkg (hw : Hw) (m : CfgMsg) : (applyCfg hw m).pkg = hw.pkg := by
  have load : (if m.tok.aux = 6#7 then hw else startLoad hw (contCore m.tok.cont) (contFrame m.tok.cont)).pkg = hw.pkg := by split <;> simp
  unfold applyCfg
  dsimp only
  generalize (if m.tok.aux = 6#7 then hw else startLoad hw (contCore m.tok.cont) (contFrame m.tok.cont)) = h at load ⊢
  split
  · exact load
  · rw [putWord_pkg, load]
  · exact load
  · rw [putHeader_pkg, load]
  · exact load
  · split
    · rw [cfgFault_pkg, load]
    · exact load

@[simp] theorem drainHeld_pkg (hw : Hw) (c f : Nat) : (drainHeld hw c f).pkg = hw.pkg := by
  unfold drainHeld
  dsimp only
  split
  · rfl
  · exact foldl_same Hw.pkg _ applyCfg_pkg _ _

@[simp] theorem drainCore_pkg (hw : Hw) (c : Nat) : (drainCore hw c).pkg = hw.pkg :=
  foldl_same Hw.pkg _ (fun h f => drainHeld_pkg h c f) _ _

@[simp] theorem dropOps_pkg (hw : Hw) (c : Nat) (dead : List Act) : (dropOps hw c dead).pkg = hw.pkg := by
  unfold dropOps
  exact foldl_same Hw.pkg _ (fun _ _ => by rfl) _ _

@[simp] theorem dropSites_pkg (hw : Hw) (c : Nat) (gone : Site → Bool) : (dropSites hw c gone).pkg = hw.pkg := rfl

/-- Discarding activations leaves the package's own part. -/
@[simp] theorem discardActs_pkg (hw : Hw) (c : Nat) (p : Act → Bool) : (discardActs hw c p).pkg = hw.pkg := by
  unfold discardActs
  dsimp only
  split
  · rfl
  · simp

@[simp] theorem cacheFrame_pkg (hw : Hw) (c f : Nat) : (cacheFrame hw c f).pkg = hw.pkg := by
  unfold cacheFrame
  dsimp only
  split <;> rfl

/-! ## Changes of owner and of partition -/

/-- A core that passes on is zeroed by a zeroing of its two memory tiles (07 R197, 15 R395). -/
theorem passCore_mem (m : Mem) (hw : Hw) (c : Nat) : (passCore m hw c).1 = memZero m (tileBase c 0) (2 ^ 20) := rfl

/-- No element of a core that has passed on holds an operand or a fault. -/
theorem passCore_elem (m : Mem) (hw : Hw) (c e5 : Nat) (h : e5 < 32) :
    (elemAt (passCore m hw c).2 (c * 32 + e5)).ops = [] ∧ frozen (passCore m hw c).2 (c * 32 + e5) = false := by
  have he : ∃ x : Elem, elemAt (passCore m hw c).2 (c * 32 + e5) = { x with ops := [], fault := {}, why := .none } :=
    ⟨_, elemAt_foldl_setElem (fun x => { x with ops := [], fault := {}, why := .none }) (c * 32) 32 e5 _ h⟩
  obtain ⟨x, hx⟩ := he
  rw [frozen, hx]
  exact ⟨rfl, rfl⟩

theorem passCore_parts (m : Mem) (hw : Hw) (c : Nat) : (passCore m hw c).2.pkg.parts = hw.pkg.parts := by
  unfold passCore
  dsimp only
  exact (congrArg Pkg.parts ((foldl_same Hw.pkg _ (fun _ _ => by rfl) _ _).trans (modCore_pkg _ _ _))).trans (homeZero_parts m hw _ _)

@[simp] theorem setRes_parts (hw : Hw) (k : Nat) (l : List ResEntry) : (setRes hw k l).pkg.parts = hw.pkg.parts := by
  unfold setRes
  dsimp only
  rw [modPkg_pkg, modCl_pkg]

theorem passCluster_parts (m : Mem) (hw : Hw) (k : Nat) : (passCluster m hw k).2.pkg.parts = hw.pkg.parts := by
  have h := foldl_same (fun x : Mem × Hw => x.2.pkg.parts) (fun x i => passCore x.1 x.2 (k * 8 + i))
    (fun x i => passCore_parts x.1 x.2 (k * 8 + i)) (List.range 8) (m, hw)
  unfold passCluster
  generalize (List.range 8).foldl (fun (x : Mem × Hw) i => passCore x.1 x.2 (k * 8 + i)) (m, hw) = y at h ⊢
  dsimp only at h ⊢
  rw [setRes_parts, modCl_pkg]
  exact h

theorem passCluster_dead (m : Mem) (hw : Hw) (k : Nat) : (passCluster m hw k).1.dead = m.dead := by
  have h := foldl_same (fun x : Mem × Hw => x.1.dead) (fun x i => passCore x.1 x.2 (k * 8 + i))
    (fun x i => by rw [passCore_mem]; rfl) (List.range 8) (m, hw)
  unfold passCluster
  exact h

theorem stopCluster_pkg (hw : Hw) (k : Nat) : (stopCluster hw k).pkg = hw.pkg := by
  unfold stopCluster
  rw [modCl_pkg]
  refine foldl_same Hw.pkg _ (fun h i => ?_) _ _
  dsimp only
  rw [foldl_same Hw.pkg _ fun h f => cacheFrame_pkg h (k * 8 + i) f, modCore_pkg, discardActs_pkg]

/-- A partition's reset advances its generation and changes no other PART_CFG (15 R397). -/
theorem partReset_parts (m : Mem) (hw : Hw) (p : Nat) : (partReset m hw p).2.pkg.parts =
    tput hw.pkg.parts {} p { tget hw.pkg.parts {} p with gen := (tget hw.pkg.parts {} p).gen + 1 } := by
  unfold partReset
  dsimp only
  rw [foldl_same (fun x : Mem × Hw => x.2.pkg.parts) _ fun x k => passCluster_parts x.1 x.2 k]
  exact congrArg Pkg.parts (foldl_same Hw.pkg _ stopCluster_pkg _ _)

theorem partReset_dead (m : Mem) (hw : Hw) (p : Nat) : (partReset m hw p).1.dead = m.dead :=
  foldl_same (fun x : Mem × Hw => x.1.dead) _ (fun x k => passCluster_dead x.1 x.2 k) _ _

/-! ## Shoot-downs -/

/-- Every entry of a die's directory was in it before. -/
def DirsWithin (hw hw' : Hw) : Prop := ∀ d, ∀ e ∈ (dieAt hw' d).dir, e ∈ (dieAt hw d).dir

theorem DirsWithin.refl (hw : Hw) : DirsWithin hw hw := fun _ _ h => h
theorem DirsWithin.trans {x y z : Hw} (h : DirsWithin x y) (g : DirsWithin y z) : DirsWithin x z := fun d e he => h d e (g d e he)

/-- A change of one die that adds nothing to its directory. -/
theorem dirsWithin_modDie (hw : Hw) (d : Nat) (f : Die → Die) (h : ∀ e ∈ (f (dieAt hw d)).dir, e ∈ (dieAt hw d).dir) :
    DirsWithin hw (modDie hw d f) := by
  intro j e he
  by_cases hj : j = d
  · subst hj; rw [dieAt_modDie] at he; exact h e he
  · rwa [dieAt_modDie_ne _ _ _ _ hj] at he

/-- A fold of steps of which none adds to a directory adds to none. -/
theorem dirsWithin_foldl {β : Type} (g : Hw → β → Hw) (hg : ∀ h b, DirsWithin h (g h b)) (l : List β) (hw : Hw) : DirsWithin hw (l.foldl g hw) :=
  foldl_keeps (DirsWithin hw) g (fun h b k => k.trans (hg h b)) l hw (.refl hw)

@[simp] theorem shootRes_cores (hw : Hw) (x : Shoot) : (shootRes hw x).cores = hw.cores :=
  foldl_same Hw.cores _ (fun h k => by dsimp only; split <;> rfl) _ _

@[simp] theorem shootRes_dies (hw : Hw) (x : Shoot) : (shootRes hw x).dies = hw.dies :=
  foldl_same Hw.dies _ (fun h k => by dsimp only; split <;> rfl) _ _

theorem shootStart_cores (hw : Hw) (d : Nat) (x : Shoot) : (shootStart hw d x).cores = hw.cores := by
  unfold shootStart
  dsimp only
  exact (foldl_same Hw.cores _ (fun _ _ => by rfl) _ _).trans (shootRes_cores hw x)

/-- A shoot-down only takes from the directories (13 R344). -/
theorem shootStart_dirs (hw : Hw) (d : Nat) (x : Shoot) : DirsWithin hw (shootStart hw d x) := by
  have saves : DirsWithin hw (shootSaves (shootRes hw x) x) := by
    intro j e he
    have h : (shootSaves (shootRes hw x) x).dies = hw.dies := shootRes_dies hw x
    rwa [dieAt, h] at he
  refine (saves.trans (dirsWithin_modDie _ d (fun y => { y with shoot := some x }) fun _ he => he)).trans (dirsWithin_foldl _ (fun h b => ?_) _ _)
  exact dirsWithin_modDie h b (fun y => { y with dir := y.dir.filter fun t => !shootHits x t.x }) fun e he => (List.mem_filter.1 he).1

theorem shootSettle_cores (d n : Nat) (hw : Hw) : (shootSettle d n hw).cores = hw.cores := by
  induction n generalizing hw with
  | zero => rfl
  | succ n ih =>
    unfold shootSettle
    split
    · rfl
    · split
      · rfl
      · dsimp only
        split
        · rfl
        · rw [ih, shootStart_cores]; rfl

theorem shootSettle_dirs (d n : Nat) (hw : Hw) : DirsWithin hw (shootSettle d n hw) := by
  induction n generalizing hw with
  | zero => exact .refl hw
  | succ n ih =>
    unfold shootSettle
    split
    · exact .refl hw
    · split
      · exact .refl hw
      · have done := dirsWithin_modDie hw d (fun y => { y with shoot := none, shootDone := y.shootDone + 1 }) fun _ he => he
        dsimp only
        split
        · exact done
        next v r _ =>
          have taken := dirsWithin_modDie (modDie hw d fun y => { y with shoot := none, shootDone := y.shootDone + 1 }) d
            (fun y => { y with shootQ := r }) fun _ he => he
          exact ((done.trans taken).trans (shootStart_dirs _ d _)).trans (ih _)

theorem settleShoots_cores (hw : Hw) : (settleShoots hw).cores = hw.cores :=
  foldl_same Hw.cores _ (fun h d => shootSettle_cores d _ h) _ _

theorem settleShoots_dirs (hw : Hw) : DirsWithin hw (settleShoots hw) :=
  dirsWithin_foldl _ (fun h d => shootSettle_dirs d _ h) _ _

/-! ## A holder cleared (13 R345) -/

/-- The core whose holder bits are cleared keeps everything but its translations. -/
theorem clearHolder_core (hw : Hw) (c : Nat) : coreAt (clearHolder hw (dieOf c) (c % 64)) c = { coreAt hw c with tlb := [] } := by
  have hlt : c % 64 < 64 := Nat.mod_lt _ (by decide)
  have hc : dieOf c * 64 + c % 64 = c := by unfold dieOf; omega
  have hcores : (clearHolder hw (dieOf c) (c % 64)).cores = (modCore hw c fun x => { x with tlb := [] }).cores := by
    unfold clearHolder setHolderTlb
    dsimp only
    rw [settleShoots_cores, if_pos hlt, hc]
    rfl
  rw [coreAt, hcores]
  exact coreAt_modCore hw c _

/-- A die without a holder's bits in its directory. -/
def dropHolder (k : Nat) (x : Die) : Die := { x with dir := x.dir.map fun e => { e with holders := sdel e.holders k } }

/-- No entry of the die's directory names a holder that has been cleared. -/
theorem clearHolder_dir (hw : Hw) (d k : Nat) : ∀ e ∈ (dieAt (clearHolder hw d k) d).dir, k ∉ e.holders := by
  intro e he
  unfold clearHolder at he
  have h := settleShoots_dirs _ d e he
  change e ∈ (dieAt (modDie (setHolderTlb hw d k []) d (dropHolder k)) d).dir at h
  rw [dieAt_modDie] at h
  obtain ⟨y, _, rfl⟩ := List.mem_map.1 h
  simp [sdel]

/-! ## Reports and ERR_LAST (15 R398) -/

@[simp] theorem report_cores (hw : Hw) (k code v : Nat) (copy : Option (Nat × Nat)) : (report hw k code v copy).cores = hw.cores := rfl
@[simp] theorem report_dies (hw : Hw) (k code v : Nat) (copy : Option (Nat × Nat)) : (report hw k code v copy).dies = hw.dies := rfl
@[simp] theorem report_pkg (hw : Hw) (k code v : Nat) (copy : Option (Nat × Nat)) : (report hw k code v copy).pkg = hw.pkg := rfl

/-- The class and the code that ERR_LAST holds (15 Table 15.3). -/
theorem errLast_last (hw : Hw) (cls code part wher : Nat) (hcls : cls < 2 ^ 8) (hcode : code < 2 ^ 8) :
    (errLast hw cls code part wher).pkg.last.toNat % 2 ^ 8 = cls ∧ (errLast hw cls code part wher).pkg.last.toNat / 2 ^ 8 % 2 ^ 8 = code := by
  change (BitVec.ofNat 64 _).toNat % 2 ^ 8 = cls ∧ (BitVec.ofNat 64 _).toNat / 2 ^ 8 % 2 ^ 8 = code
  rw [BitVec.toNat_ofNat]
  omega

@[simp] theorem containedAs_cores (hw : Hw) (code cls part cl unit : Nat) : (containedAs hw code cls part cl unit).cores = hw.cores := by
  unfold containedAs errLast
  dsimp only
  rw [report_cores, modPkg_cores]
@[simp] theorem containedAs_dies (hw : Hw) (code cls part cl unit : Nat) : (containedAs hw code cls part cl unit).dies = hw.dies := by
  unfold containedAs errLast
  dsimp only
  rw [report_dies, modPkg_dies]

@[simp] theorem containedAs_offline (hw : Hw) (code cls part cl unit : Nat) : (containedAs hw code cls part cl unit).pkg.offline = hw.pkg.offline := by
  unfold containedAs errLast
  dsimp only
  rw [report_pkg, modPkg_pkg]
@[simp] theorem containedAs_detour (hw : Hw) (code cls part cl unit : Nat) : (containedAs hw code cls part cl unit).pkg.detour = hw.pkg.detour := by
  unfold containedAs errLast
  dsimp only
  rw [report_pkg, modPkg_pkg]

/-- A containment sets ERR_LAST to its class and the code reported, which its report says too. -/
theorem containedAs_last (hw : Hw) (code cls part cl unit : Nat) (hcls : cls < 2 ^ 8) (hcode : code < 2 ^ 8) :
    (containedAs hw code cls part cl unit).pkg.last.toNat % 2 ^ 8 = cls ∧
      (containedAs hw code cls part cl unit).pkg.last.toNat / 2 ^ 8 % 2 ^ 8 = code := by
  unfold containedAs
  dsimp only
  rw [report_pkg]
  exact errLast_last hw cls code part _ hcls hcode

/-- The code that a free value picks is one that may be reported (00 R8). -/
theorem containCode_mem (cls : Nat) : containCode cls ∈ reportCodes := by
  have hlen : (Config.errorCode cls).toNat % reportCodes.length < reportCodes.length := Nat.mod_lt _ (by decide)
  unfold containCode oneCode
  rw [List.getD_eq_getElem?_getD, List.getElem?_eq_getElem hlen, Option.getD_some]
  exact List.getElem_mem hlen

theorem containCode_reportable (cls : Nat) : containCode cls < 0x17 ∧ containCode cls ≠ cTAGBUDGET ∧ containCode cls ≠ cMONOVER := by
  have h := containCode_mem cls
  simp only [reportCodes, List.mem_filter, List.mem_range, Bool.and_eq_true, bne_iff_ne] at h
  obtain ⟨hlt, ⟨htag, hmon⟩, _⟩ := h
  exact ⟨hlt, htag, hmon⟩

theorem contained_last (hw : Hw) (cls part cl unit : Nat) (hcls : cls < 2 ^ 8) : (contained hw cls part cl unit).pkg.last.toNat % 2 ^ 8 = cls :=
  (containedAs_last hw _ cls part cl unit hcls (by have := (containCode_reportable cls).1; omega)).1

/-- A containment leaves every core. -/
theorem coreAt_contained (hw : Hw) (cls part cl unit c : Nat) : coreAt (contained hw cls part cl unit) c = coreAt hw c := by
  unfold contained coreAt
  rw [containedAs_cores]

/-- A containment leaves every service core; its report is on its way. -/
theorem scAt_contained (hw : Hw) (cls part cl unit d c : Nat) : scAt (contained hw cls part cl unit) d c = scAt hw d c := by
  unfold contained scAt dieAt
  rw [containedAs_dies]

end Sys2Proof.Machine
end

section
/-! PROOFS. Registers from outside (15 R380, R382, R385, R393 to R397, R399, 11 R311, 13 R344, 16 R405): who may write, what a
write event does for one who may and for one who may not, and what a read returns and clears. -/
namespace Sys2Proof.Machine

/-! ## Who may write -/

/-- Who may write the package's, a partition's and an ownership register, by the kind of writer (15 R382, R399). -/
theorem mayWrite_rights (hw : Hw) (n : BitVec 2) (q p k : Nat) : mayWrite hw .firmware .gown = true ∧
    (mayWrite hw (.agent n) .gown = true ↔ n = hw.pkg.owner ∧ n ≠ 0) ∧
    mayWrite hw (.function q) .gown = false ∧ mayWrite hw (.function q) .ownClaim = false ∧ mayWrite hw (.function q) .ownSucc = false ∧
    (∀ r, mayRead hw (.agent n) r = true ∧ mayRead hw .firmware r = true ∧ mayRead hw (.function q) r = mayWrite hw (.function q) r) ∧
    (∀ c, mayWrite hw (.core c) .gown = false ∧ mayWrite hw (.core c) .ownClaim = false ∧
      (mayWrite hw (.core c) (.cntVal k 0) = true ↔ c.isSome = true ∧ partOfCl hw k = c)) ∧
    (let ofFunction := fun (n : Nat) => (tget hw.pkg.parts {} n).valid = true ∧ (tget hw.pkg.parts {} n).func.toNat = q
     (mayWrite hw (.function q) (.cntVal k 0) = true ↔ ∃ n, partOfCl hw k = some n ∧ ofFunction n) ∧
     (mayWrite hw (.function q) (.ingCfg p) = true ↔ ofFunction (portAt hw p).part.toNat)) := by
  refine ⟨rfl, ?agent, rfl, rfl, rfl, fun r => ⟨rfl, rfl, rfl⟩, fun c => ⟨rfl, rfl, ?core⟩, ?cluster, ?port⟩
  case agent => simp [mayWrite, mayPkg]
  case core => simp [mayWrite, mayPart]
  case cluster => simp [mayWrite, mayPart, partOfFunction, Option.any_eq_true]
  case port => simp [mayWrite, mayPart, partOfFunction]

/-! ## Write events -/

/-- A write event by one who may not write its register is ignored (15 R382). -/
theorem refused_write {i : Instr} {s : State} {b : Writer} {r : Reg} {v : Word} (e : exec i s = writeEvent b r v s)
    (h : mayWrite s.hw b r = false) : exec i s = .next { s with hw := ignored s.hw b } := by
  rw [e, writeEvent, h]; rfl

/-- A write event by one who may write its register has the register's effect. -/
theorem permitted_write {i : Instr} {s : State} {b : Writer} {r : Reg} {v : Word} {m : Mem} {hw : Hw} (e : exec i s = writeEvent b r v s)
    (he : regSet b s.mem s.hw r v = some (m, hw)) (h : mayWrite s.hw b r = true) : exec i s = .next { mem := m, hw := hw } := by
  rw [e, writeEvent, h, he]; rfl

variable (s : State) (b : Writer) (v : Word)

theorem exec_cntValWrite (k n : Nat) (hk : k < 32) (hn : n < 1024) : exec (.cntValWrite b k n v) s = writeEvent b (.cntVal k n) v s :=
  if_neg (by simp; omega)

theorem exec_shootDown (d : Nat) (hd : d < 4) (hgo : v.getLsbD 63 = true) (hall : v.getLsbD 62 = false) :
    exec (.shootDown b d v) s = writeEvent b (.xlInv d) v s :=
  if_neg (by simp only [hgo, hall, Bool.not_true, Bool.or_false, decide_eq_true_eq]; omega)

theorem exec_shootDownAll (d : Nat) (hd : d < 4) (hgo : v.getLsbD 63 = true) (hall : v.getLsbD 62 = true) :
    exec (.shootDownAll b d v) s = writeEvent b (.xlInv d) v s :=
  if_neg (by simp only [hgo, hall, Bool.not_true, Bool.or_false, decide_eq_true_eq]; omega)

theorem exec_ingCfgWrite (p : Nat) (hp : p < 64) : exec (.ingCfgWrite b p v) s = writeEvent b (.ingCfg p) v s :=
  if_neg (by omega)

theorem exec_ingErrClear (p : Nat) (hp : p < 64) (herr : v.getLsbD 0 = true) : exec (.ingErrClear b p v) s = writeEvent b (.ingStatus p) v s :=
  if_neg (by simp only [herr, Bool.not_true, Bool.or_false, decide_eq_true_eq]; omega)

theorem exec_granuleAssign : exec (.granuleAssign b v) s = writeEvent b .gown v s := rfl

theorem exec_partCfgWrite (n : Nat) (hn : n < 16) : exec (.partCfgWrite b n v) s = writeEvent b (.partCfg n) v s :=
  if_neg (by omega)

theorem exec_partReset (hgo : v.getLsbD 63 = true) : exec (.partReset b v) s = writeEvent b .partReset v s :=
  if_neg (by rw [hgo]; decide)

theorem exec_lnkCtlWrite (l : Nat) (hl : l < 16) : exec (.lnkCtlWrite b l v) s = writeEvent b (.lnkCtl l) v s :=
  if_neg (by omega)

/-! ## The effects -/

variable (m : Mem) (hw : Hw)

theorem regSet_cntVal (k n : Nat) : regSet b m hw (.cntVal k n) v = some (m, settleCnt (setCnt hw k n
    { v := v.setWidth 32, fault := (cntAt hw k n).fault && !v.getLsbD 32, uflow := (cntAt hw k n).uflow && !v.getLsbD 33 }) k n) := by
  rw [BitVec.setWidth_eq_extractLsb' (by decide)]; rfl

theorem regSet_xlInv (d : Nat) (hgo : v.getLsbD 63 = true) (hfree : (dieAt hw d).shoot = none) :
    regSet b m hw (.xlInv d) v = some (m, shootWrite hw d v) := by
  exact (if_neg (by rw [hgo]; decide)).trans (if_neg (by rw [hfree]; decide))

theorem regSet_ingCfg (p : Nat) : regSet b m hw (.ingCfg p) v = some (m, setPort hw p
    (let x := { portAt hw p with en := v.getLsbD 63, part := v.setWidth 4 }
     if v.getLsbD 63 = true ∧ (portAt hw p).en = false then { x with next := 0, seq := 0, hoist := 0, ewin := [], nrec := 0, words := [] } else x)) := by
  simp [regSet, ingCfgWrite, BitVec.setWidth_eq_extractLsb']

theorem regSet_ingStatus (p : Nat) (herr : v.getLsbD 0 = true) :
    regSet b m hw (.ingStatus p) v = some (m, setPort hw p { portAt hw p with err := false, words := [] }) :=
  congrArg (fun h => some (m, h)) (if_pos herr)

/-- A field that starts at bit 0. -/
theorem bits_zero (n len : Nat) : bits n 0 len = n % 2 ^ len := by
  rw [bits, Nat.pow_zero, Nat.div_one]

/-- The field KIND of PART_GOWN, as a number, is 3 only where its bits are. -/
theorem gownKind (h : v.extractLsb' 61 2 ≠ 3) : bits v.toNat 61 2 ≠ 3 := by
  intro e
  refine h (BitVec.eq_of_toNat_eq ?_)
  rw [BitVec.extractLsb'_toNat, Nat.shiftRight_eq_div_pow]
  exact e

theorem regSet_gown (hgo : v.getLsbD 63 = true) (hkind : v.extractLsb' 61 2 ≠ 3) (hfree : hw.pkg.assigning = none) :
    regSet b m hw .gown v = some (m, modPkg hw fun p => { p with assigning := some (v.toNat % 2 ^ 18, v.extractLsb' 61 2, v.extractLsb' 51 10) }) := by
  have hgoes : ¬ (!v.getLsbD 63 || decide (bits v.toNat 61 2 = 3)) = true := by
    simp only [hgo, gownKind v hkind, decide_false, Bool.not_true, Bool.or_false, Bool.false_eq_true, not_false_eq_true]
  have hidle : ¬ hw.pkg.assigning.isSome = true := by rw [hfree]; decide
  refine (if_neg hgoes).trans ((if_neg hidle).trans ?_)
  rw [bits_zero]

/-- A write of PART_GOWN without GO or with the reserved KIND does nothing (15 R394). -/
theorem regSet_gown_nothing (h : v.getLsbD 63 = false ∨ v.extractLsb' 61 2 = 3) : regSet b m hw .gown v = some (m, hw) := by
  have hk : v.extractLsb' 61 2 = 3 → bits v.toNat 61 2 = 3 := by
    intro e
    have := congrArg BitVec.toNat e
    rwa [BitVec.extractLsb'_toNat, Nat.shiftRight_eq_div_pow] at this
  refine if_pos ?_
  rcases h with h | h
  · simp only [h, Bool.not_false, Bool.true_or]
  · simp only [hk h, decide_true, Bool.or_true]

/-- A write of PART_CFG that would share a cluster with another valid partition is ignored (15 R393). -/
theorem partCfgWrite_clash (n : Nat) (hgo : v.getLsbD 63 = true)
    (h : ∃ q ∈ hw.pkg.parts, q.1 ≠ n ∧ q.2.valid = true ∧ q.2.clusters &&& v.setWidth 32 ≠ 0) : partCfgWrite m hw n v = (m, hw) := by
  rw [BitVec.setWidth_eq_extractLsb' (by decide)] at h
  unfold partCfgWrite
  dsimp only
  rw [if_pos]
  simpa [hgo, and_assoc] using h

/-- A write of PART_CFG that shares no cluster takes effect (15 R393). -/
theorem partCfgWrite_taken (n : Nat)
    (h : v.getLsbD 63 = false ∨ ∀ q ∈ hw.pkg.parts, q.1 ≠ n → q.2.valid = true → q.2.clusters &&& v.setWidth 32 = 0) :
    tget (partCfgWrite m hw n v).2.pkg.parts {} n =
      { tget hw.pkg.parts {} n with valid := v.getLsbD 63, func := v.extractLsb' 40 5, clusters := v.setWidth 32 } := by
  rw [BitVec.setWidth_eq_extractLsb' (by decide)] at h ⊢
  unfold partCfgWrite
  dsimp only
  rw [if_neg, modPkg_pkg, tget_tput_same]
  rcases h with h | h
  · simp only [h, Bool.false_and, Bool.false_eq_true, not_false_eq_true]
  · simpa using fun _ => h

theorem regSet_lnkCtl (l : Nat) : regSet b m hw (.lnkCtl l) v = some (m, lnkCtlWrite hw l v) := rfl

/-- Of the registers that are not starts, every permitted write takes effect at once (15 R380). -/
theorem regSet_now (r : Reg) (hg : r ≠ .gown) (hd : ∀ d, r ≠ .pctl d ∧ r ≠ .xlInv d) : ∃ m' hw', regSet b m hw r v = some (m', hw') := by
  have h : (regSet b m hw r v).isSome = true := by
    cases r with
    | gown => exact absurd rfl hg
    | pctl d => exact absurd rfl (hd d).1
    | xlInv d => exact absurd rfl (hd d).2
    | qstall k i hi => cases hi <;> rfl
    | _ => rfl
  obtain ⟨x, hx⟩ := Option.isSome_iff_exists.1 h
  exact ⟨x.1, x.2, hx⟩

/-! ## ENS_SELF on all dies (16 R405) -/

/-- What ENS_SELF keeps of a value written: VALID and the logical chip number (16 Table 16.1). -/
theorem ensSelfWord : BitVec.ofNat 64 (b2n (v.getLsbD 63) * 2 ^ 63 + bits v.toNat 0 10) = v &&& 0x80000000000003FF := by
  have hmask : (0x80000000000003FF : Word) = BitVec.ofNat 64 (2 ^ 63 * 1 + (2 ^ 10 - 1)) := by decide
  refine BitVec.eq_of_getLsbD_eq fun i hi => ?_
  have hlow : bits v.toNat 0 10 < 2 ^ 63 := Nat.lt_trans (Nat.mod_lt _ (by decide)) (by decide)
  rw [BitVec.getLsbD_and, hmask, BitVec.getLsbD_ofNat, BitVec.getLsbD_ofNat, Nat.mul_comm, Nat.testBit_two_pow_mul_add _ hlow,
    Nat.testBit_two_pow_mul_add _ (by decide)]
  by_cases h : i < 63
  · simp only [h, if_true, bits_zero, Nat.testBit_mod_two_pow, Nat.testBit_two_pow_sub_one, BitVec.testBit_toNat, hi,
      decide_true, Bool.true_and]
    exact Bool.and_comm _ _
  · obtain rfl : i = 63 := by omega
    cases hv : v.getLsbD 63 <;> simp [b2n]

/-- One die's ENS_SELF, written while no ingress port is enabled. -/
theorem ensSelfWrite_off (d : Nat) (hoff : ∀ x ∈ hw.pkg.ports, x.2.en = false) : ensSelfWrite hw d v =
    if d = 0 then fabRestart (modDie hw d fun y => { y with ensSelf := v &&& 0x80000000000003FF })
    else modDie hw d fun y => { y with ensSelf := v &&& 0x80000000000003FF } := by
  unfold ensSelfWrite
  rw [if_neg (by simpa using hoff), ensSelfWord]

@[simp] theorem dieAt_fabRestart (d : Nat) : dieAt (fabRestart hw) d = dieAt hw d := rfl

/-- A write of a die's ENS_SELF, while no ingress port is enabled, is of that die's register alone. -/
theorem dieAt_ensSelfWrite (d j : Nat) (hoff : ∀ x ∈ hw.pkg.ports, x.2.en = false) : (dieAt (ensSelfWrite hw d v) j).ensSelf =
    if j = d then v &&& 0x80000000000003FF else (dieAt hw j).ensSelf := by
  have hdie : dieAt (ensSelfWrite hw d v) j = dieAt (modDie hw d fun y => { y with ensSelf := v &&& 0x80000000000003FF }) j := by
    rw [ensSelfWrite_off v hw d hoff]
    split
    · exact dieAt_fabRestart _ _
    · rfl
  rw [hdie]
  split
  next h => subst h; rw [dieAt_modDie]
  next h => rw [dieAt_modDie_ne _ _ _ _ h]

theorem ensSelfWrite_ports (d : Nat) (hoff : ∀ x ∈ hw.pkg.ports, x.2.en = false) : (ensSelfWrite hw d v).pkg.ports = hw.pkg.ports := by
  rw [ensSelfWrite_off v hw d hoff]
  split
  · rfl
  · rw [modDie_pkg]

/-- The register of a die after ENS_SELF has been written on some dies, one after another. -/
theorem dieAt_ensSelfWrites (l : List Nat) (d : Nat) (hoff : ∀ x ∈ hw.pkg.ports, x.2.en = false) :
    (dieAt (l.foldl (fun hw d => ensSelfWrite hw d v) hw) d).ensSelf = if d ∈ l then v &&& 0x80000000000003FF else (dieAt hw d).ensSelf := by
  induction l generalizing hw with
  | nil => simp
  | cons a r ih =>
    rw [List.foldl_cons, ih _ (by rwa [ensSelfWrite_ports v hw a hoff]), dieAt_ensSelfWrite v hw a d hoff]
    by_cases hr : d ∈ r <;> simp [hr]

/-- The fabric's streams at their start (16 R410). -/
def FabricStart (hw : Hw) : Prop := hw.pkg.nums = [] ∧ hw.pkg.replay = [] ∧ hw.pkg.fabWait = [] ∧ hw.pkg.recvBuf = []

/-- A write of die 0's ENS_SELF takes the streams to their start; a write of another die's leaves them there. -/
theorem ensSelfWrite_start (d : Nat) (hoff : ∀ x ∈ hw.pkg.ports, x.2.en = false) (h : d = 0 ∨ FabricStart hw) : FabricStart (ensSelfWrite hw d v) := by
  rw [ensSelfWrite_off v hw d hoff]
  split
  · exact ⟨rfl, rfl, rfl, rfl⟩
  next hd => exact h.resolve_left hd

/-- ENS_SELF written on all four dies while no ingress port is enabled: each holds the value, and the fabric's streams start anew
(16 R405, R410). -/
theorem ensSelfWrite_all (hoff : ∀ x ∈ hw.pkg.ports, x.2.en = false) : let h := [0, 1, 2, 3].foldl (fun hw d => ensSelfWrite hw d v) hw
    (∀ d, d < 4 → (dieAt h d).ensSelf = (v &&& 0x80000000000003FF)) ∧ FabricStart h := by
  have step : ∀ hw d, (∀ x ∈ hw.pkg.ports, x.2.en = false) → d = 0 ∨ FabricStart hw →
      (∀ x ∈ (ensSelfWrite hw d v).pkg.ports, x.2.en = false) ∧ FabricStart (ensSelfWrite hw d v) := fun hw d ho hs =>
    ⟨by rwa [ensSelfWrite_ports v hw d ho], ensSelfWrite_start v hw d ho hs⟩
  have start := foldl_keeps (fun hw => (∀ x ∈ hw.pkg.ports, x.2.en = false) ∧ FabricStart hw) (fun hw d => ensSelfWrite hw d v)
    (fun hw d h => step hw d h.1 (.inr h.2)) [1, 2, 3] _ (step hw 0 hoff (.inl rfl))
  refine ⟨fun d hd => ?_, start.2⟩
  rw [dieAt_ensSelfWrites v hw _ d hoff, if_pos (by simp only [List.mem_cons, List.not_mem_nil, or_false]; omega)]

/-- ENS_SELF_WRITE: ignored from one who may not, without effect while an ingress port is enabled, else on every die (16 R405). -/
theorem ensSelfWrite_next : (mayPkg s.hw b = false → exec (.ensSelfWrite b v) s = .next { s with hw := ignored s.hw b }) ∧
    (mayPkg s.hw b = true → (∃ x ∈ s.hw.pkg.ports, x.2.en = true) → exec (.ensSelfWrite b v) s = .next s) ∧
    (mayPkg s.hw b = true → (∀ x ∈ s.hw.pkg.ports, x.2.en = false) → ∃ hw, exec (.ensSelfWrite b v) s = .next { s with hw := hw } ∧
      (∀ d, d < 4 → (dieAt hw d).ensSelf = (v &&& 0x80000000000003FF)) ∧ hw.pkg.nums = [] ∧ hw.pkg.replay = [] ∧ hw.pkg.fabWait = [] ∧ hw.pkg.recvBuf = []) := by
  have e : exec (.ensSelfWrite b v) s = if !mayPkg s.hw b then .next { s with hw := ignored s.hw b }
      else .next { s with hw := [0, 1, 2, 3].foldl (fun hw d => ensSelfWrite hw d v) s.hw } := rfl
  refine ⟨fun h => ?_, fun h hon => ?_, fun h hoff => ⟨_, ?_, ensSelfWrite_all v s.hw hoff⟩⟩
  · rw [e, h]; rfl
  · have still : ∀ d, ensSelfWrite s.hw d v = s.hw := fun d => if_pos (by simpa using hon)
    rw [e, h]
    simp only [List.foldl_cons, List.foldl_nil, still, Bool.not_true, Bool.false_eq_true, if_false]
  · rw [e, h]; rfl

/-! ## Writes and reads at an address (15 R380, R382) -/

/-- A write of register space does what its register's write does, for one whose store does not go to memory there. -/
theorem exec_registerWrite (a : Nat) (ha : inRegs a = true) (h8 : a % 8 = 0) (hb : b ≠ .firmware ∨ inMemory a = false) {m : Mem} {hw : Hw}
    (h : regWrite b s.mem s.hw a v = some (m, hw)) : exec (.registerWrite b a v) s = .next { mem := m, hw := hw } := by
  have hmem : ¬ (b = .firmware ∧ inMemory a = true) := fun h => hb.elim (absurd h.1) fun hm => by rw [hm] at h; cases h.2
  change execRegisterWrite b a v s = _
  unfold execRegisterWrite
  rw [if_neg (not_not_intro h8), if_neg hmem, if_neg (by rw [ha]; decide), h]

theorem regWrite_none (a : Nat) (h : regAt a = none) : regWrite b m hw a v = some (m, ignored hw b) := by
  rw [regWrite, h]
theorem regWrite_refused (a : Nat) (r : Reg) (h : regAt a = some r) (hno : mayWrite hw b r = false) : regWrite b m hw a v = some (m, ignored hw b) := by
  simp only [regWrite, h, hno, Bool.false_eq_true, if_false]
theorem regWrite_permitted (a : Nat) (r : Reg) (h : regAt a = some r) (hyes : mayWrite hw b r = true) : regWrite b m hw a v = regSet b m hw r v := by
  simp only [regWrite, h, hyes, if_true]

/-- A service core's store to memory performs at its home (13 R356; log 77). -/
theorem registerWrite_memory (a : Nat) (ha : inMemory a = true) (h8 : a % 8 = 0) (hz : zeroing s.hw a = false) (hb : bankBusy s.hw 3 a 8 = false) :
    exec (.registerWrite .firmware a v) s =
      .next { mem := memStore s.mem a 8 v.toNat false, hw := afterWrite (memStore s.mem a 8 v.toNat false) (physWrite (bankTake s.hw a 8) a) a 8 } := by
  change execRegisterWrite .firmware a v s = _
  unfold execRegisterWrite
  rw [if_neg (not_not_intro h8), if_pos ⟨rfl, ha⟩, if_neg (by rw [hz, rankOutside, hb]; decide)]
  rfl

/-- A read of register space answers with what its reader is shown, and does what a read of that register does. -/
theorem exec_registerReadClear (a : Nat) (ha : inRegs a = true) (h8 : a % 8 = 0) : exec (.registerReadClear ⟨b, a⟩) s =
    .next { s with hw := modPkg (readFor s.hw b a).2 fun p => { p with readVal := (readFor s.hw b a).1 } } :=
  if_neg (by simp [ha, h8])

theorem readFor_shown (a : Nat) (r : Reg) (h : regAt a = some r) (hyes : mayRead hw b r = true) :
    readFor hw b a = (regValue hw r, regReadEffect hw r) := by
  simp only [readFor, h, hyes, if_true]
theorem readFor_hidden (a : Nat) (h : ∀ r, regAt a = some r → mayRead hw b r = false) : readFor hw b a = (0, hw) := by
  cases hr : regAt a with
  | none => rw [readFor, hr]
  | some r => simp only [readFor, hr, h r hr, Bool.false_eq_true, if_false]

/-! ## The register's events of their own -/

/-- The report of a fault copy is acknowledged (03 R102). -/
theorem errEfaultAck_next (k i : Nat) (hk : k < 32) (hi : i < 12) : ∃ hw, exec (.errEfaultAck k i) s = .next { s with hw := hw } ∧
    tget (clAt hw k).copies {} i = { tget (clAt s.hw k).copies {} i with held := false } := by
  refine ⟨ackCopy s.hw k i, if_neg (by simp; omega), ?_⟩
  unfold ackCopy
  rw [clAt_modCl]
  exact tget_tput_same _ _ _ _

/-- A granule that has been zeroed goes to the owner that PART_GOWN named (15 R394). -/
theorem granuleZeroed_next (g : Nat) (kind : BitVec 2) (own : BitVec 10) (h : s.hw.pkg.assigning = some (g, kind, own)) :
    ∃ t, exec .granuleZeroed s = .next t ∧ t.hw.pkg.assigning = none ∧ tget t.hw.pkg.granules (0, 0) g = (kind, own) ∧
    (∀ a, memByte t.mem a = if g * 2 ^ 21 ≤ a ∧ a < g * 2 ^ 21 + 2 ^ 21 then 0 else memByte s.mem a) := by
  have e : exec .granuleZeroed s = .next {
      mem := memZero s.mem (g * 2 ^ 21) (2 ^ 21)
      hw := modPkg (homeZero s.mem s.hw (g * 2 ^ 21) (2 ^ 21)).2 fun p => { p with assigning := none, granules := tput p.granules (0, 0) g (kind, own) } } := by
    change execGranuleZeroed s = _
    unfold execGranuleZeroed
    rw [h]
    rfl
  refine ⟨_, e, rfl, ?_, memByte_memZero s.mem _ _⟩
  simp only [modPkg_pkg, tget_tput_same]

/-- No lower agent's claim is there to be decided first (15 R399). -/
theorem lowerClaim_none (n : BitVec 2) (h : ∀ k, Instr.ownClaim k ∈ hw.inputs → k = 0 ∨ n ≤ k) : lowerClaim hw n = false := by
  unfold lowerClaim
  rw [List.any_eq_false]
  intro i hi
  split
  next k =>
    rw [decide_eq_true_eq]
    rintro ⟨hlt, hne⟩
    exact (h k hi).elim hne fun hle => absurd hlt (BitVec.not_lt.2 hle)
  · decide

/-- An agent's number is read back from the word that carries it. -/
theorem agentWord (n : BitVec 2) : (n.setWidth 64).extractLsb' 0 2 = n := by
  rw [← BitVec.setWidth_eq_extractLsb' (by decide), BitVec.setWidth_setWidth_of_le _ (by decide), BitVec.setWidth_eq]

/-- OWN_CLAIM takes a package without an owner, no lower agent's claim being there (15 R399). -/
theorem ownClaim_next (n : BitVec 2) (h : ∀ k, Instr.ownClaim k ∈ s.hw.inputs → k = 0 ∨ n ≤ k) : exec (.ownClaim n) s =
    if s.hw.pkg.owner = 0 ∧ n ≠ 0 then .next { s with hw := modPkg s.hw fun p => { p with owner := n, epoch := p.epoch + 1 } } else .next s := by
  have e : exec (.ownClaim n) s = writeEvent (.agent n) .ownClaim (n.setWidth 64) s := if_neg (by rw [lowerClaim_none s.hw n h]; decide)
  have he : regSet (.agent n) s.mem s.hw .ownClaim (n.setWidth 64) = some (s.mem, ownClaim s.hw n n) :=
    congrArg (fun x => some (s.mem, ownClaim s.hw n x)) (agentWord n)
  rw [permitted_write e he rfl]
  simp only [ownClaim, decide_true, Bool.and_true, Bool.and_eq_true, decide_eq_true_eq]
  split <;> rfl

/-- OWN_SUCC passes the package from its owner to another agent, or to none (15 R399). -/
theorem ownSucc_next (n n' : BitVec 2) : exec (.ownSucc n n') s =
    if n ≠ 0 ∧ s.hw.pkg.owner = n ∧ n' ≠ n then .next { s with hw := modPkg s.hw fun p => { p with owner := n', epoch := p.epoch + 1 } } else .next s := by
  have e : exec (.ownSucc n n') s = writeEvent (.agent n) .ownSucc (n'.setWidth 64) s := rfl
  have he : regSet (.agent n) s.mem s.hw .ownSucc (n'.setWidth 64) = some (s.mem, ownSucc s.hw n n') :=
    congrArg (fun x => some (s.mem, ownSucc s.hw n x)) (agentWord n')
  rw [permitted_write e he rfl]
  simp only [ownSucc, Bool.and_eq_true, decide_eq_true_eq, and_assoc]
  split <;> rfl

/-- A count that a read clears reads 0 after it (00 R5). -/
theorem readClears : regValue (regReadEffect hw .errCe) .errCe = 0 ∧ regValue (regReadEffect hw .errUe) .errUe = 0 ∧
    regValue (regReadEffect hw .errStale) .errStale = 0 ∧
    ∀ k, regValue (regReadEffect hw (.starts k)) (.starts k) = 0 ∧ (clAt (regReadEffect hw (.monStat k)) k).monOver = 0 :=
  ⟨rfl, rfl, rfl, fun _ => ⟨congrArg Cluster.starts (clAt_modCl _ _ _), congrArg Cluster.monOver (clAt_modCl _ _ _)⟩⟩

/-! ## The clauses of the statement -/

/-- PART_RESET resets the partition that it names, whose generation advances (15 R397). -/
theorem partReset_next (hgo : v.getLsbD 63 = true) (hmay : mayWrite s.hw b .partReset = true) : ∃ t, exec (.partReset b v) s = .next t ∧
    t = (let r := partReset s.mem s.hw (v.toNat % 16)
         { mem := r.1, hw := r.2 }) ∧
    (tget t.hw.pkg.parts {} (v.toNat % 16)).gen = (tget s.hw.pkg.parts {} (v.toNat % 16)).gen + 1 := by
  have he : regSet b s.mem s.hw .partReset v = some ((partReset s.mem s.hw (v.toNat % 16)).1, (partReset s.mem s.hw (v.toNat % 16)).2) :=
    (congrArg some (if_pos hgo)).trans (congrArg (fun n => some (partReset s.mem s.hw n)) (bits_zero v.toNat 4))
  refine ⟨_, permitted_write (exec_partReset s b v hgo) he hmay, rfl, ?_⟩
  rw [partReset_parts, tget_tput_same]

/-- PART_CFG: ignored from one who may not and where it would share a cluster, else the partition's (15 R393). -/
theorem partCfgWrite_next (n : Nat) (hn : n < 16) :
    (mayWrite s.hw b (.partCfg n) = false → exec (.partCfgWrite b n v) s = .next { s with hw := ignored s.hw b }) ∧
    (v.getLsbD 63 = true → (∃ q ∈ s.hw.pkg.parts, q.1 ≠ n ∧ q.2.valid = true ∧ q.2.clusters &&& v.setWidth 32 ≠ 0) →
      mayWrite s.hw b (.partCfg n) = true → exec (.partCfgWrite b n v) s = .next { s with hw := s.hw }) ∧
    ((v.getLsbD 63 = false ∨ ∀ q ∈ s.hw.pkg.parts, q.1 ≠ n → q.2.valid = true → q.2.clusters &&& v.setWidth 32 = 0) → mayWrite s.hw b (.partCfg n) = true →
      ∃ t, exec (.partCfgWrite b n v) s = .next t ∧ tget t.hw.pkg.parts {} n =
        { tget s.hw.pkg.parts {} n with valid := v.getLsbD 63, func := v.extractLsb' 40 5, clusters := v.setWidth 32 }) := by
  have e := exec_partCfgWrite s b v n hn
  refine ⟨refused_write e, fun hgo hclash hyes => ?_, fun hfree hyes => ?_⟩
  · exact permitted_write e (congrArg some (partCfgWrite_clash v s.mem s.hw n hgo hclash)) hyes
  · exact ⟨_, permitted_write e (m := (partCfgWrite s.mem s.hw n v).1) (hw := (partCfgWrite s.mem s.hw n v).2) rfl hyes,
      partCfgWrite_taken v s.mem s.hw n hfree⟩

/-- A write or a read of register space at an address (15 R380, R382). -/
theorem registerAccess_next (a : Nat) (ha : inRegs a = true) (h8 : a % 8 = 0) :
    (regAt a = none → (b ≠ .firmware ∨ inMemory a = false) → exec (.registerWrite b a v) s = .next { s with hw := ignored s.hw b }) ∧
    (∀ r, regAt a = some r → (b ≠ .firmware ∨ inMemory a = false) → mayWrite s.hw b r = false →
      exec (.registerWrite b a v) s = .next { s with hw := ignored s.hw b }) ∧
    (∀ r, regAt a = some r → (b ≠ .firmware ∨ inMemory a = false) → mayWrite s.hw b r = true → r ≠ .gown → (∀ d, r ≠ .pctl d ∧ r ≠ .xlInv d) →
      ∃ m hw, regSet b s.mem s.hw r v = some (m, hw) ∧ exec (.registerWrite b a v) s = .next { mem := m, hw := hw }) ∧
    (let answers := fun (hw : Hw) (x : Word) => exec (.registerReadClear ⟨b, a⟩) s = .next { s with hw := modPkg hw fun p => { p with readVal := x } }
     (∀ r, regAt a = some r → mayRead s.hw b r = true → answers (regReadEffect s.hw r) (regValue s.hw r)) ∧
     ((∀ r, regAt a = some r → mayRead s.hw b r = false) → answers s.hw 0)) := by
  refine ⟨fun hr hb => ?_, fun r hr hb hno => ?_, fun r hr hb hyes hg hd => ?_, fun r hr hyes => ?_, fun hno => ?_⟩
  · exact exec_registerWrite s b v a ha h8 hb (regWrite_none b v _ _ a hr)
  · exact exec_registerWrite s b v a ha h8 hb (regWrite_refused b v _ _ a r hr hno)
  · obtain ⟨m, hw, he⟩ := regSet_now b v s.mem s.hw r hg hd
    exact ⟨m, hw, he, exec_registerWrite s b v a ha h8 hb ((regWrite_permitted b v _ _ a r hr hyes).trans he)⟩
  · rw [exec_registerReadClear s b a ha h8, readFor_shown b s.hw a r hr hyes]
  · rw [exec_registerReadClear s b a ha h8, readFor_hidden b s.hw a hno]

end Sys2Proof.Machine

end

namespace Sys2Proof.Machine

/-- Settles O53: the events of register writes and reads, register by register. -/
theorem registerEvents : Obligations.RegisterEvents := by
  refine ⟨mayWrite_rights, fun s b v => ?events, errEfaultAck_next, granuleZeroed_next, fun s n n' => ⟨ownClaim_next s n, ownSucc_next s n n'⟩, readClears⟩
  case events =>
    refine ⟨fun k n hk hn => ?counter, fun d hd hgo hidle => ?shoot, fun p hp => ?port, fun p hp herr => ?portErr, fun hgo hkind hidle => ?granule,
      fun h => permitted_write (exec_granuleAssign s b v) (regSet_gown_nothing b v s.mem s.hw h), partCfgWrite_next s b v,
      fun hgo => ⟨refused_write (exec_partReset s b v hgo), partReset_next s b v hgo⟩, fun l hl => ?link, ensSelfWrite_next s b v,
      registerAccess_next s b v, registerWrite_memory s v⟩
    case counter =>
      have e := exec_cntValWrite s b v k n hk hn
      exact ⟨refused_write e, permitted_write e (regSet_cntVal b v s.mem s.hw k n)⟩
    case shoot =>
      have he := regSet_xlInv b v s.mem s.hw d hgo hidle
      refine ⟨fun hall => ?_, fun hall => ?_⟩
      · have e := exec_shootDown s b v d hd hgo hall
        exact ⟨refused_write e, permitted_write e he⟩
      · have e := exec_shootDownAll s b v d hd hgo hall
        exact ⟨refused_write e, permitted_write e he⟩
    case port =>
      have e := exec_ingCfgWrite s b v p hp
      exact ⟨refused_write e, permitted_write e (regSet_ingCfg b v s.mem s.hw p)⟩
    case portErr =>
      have e := exec_ingErrClear s b v p hp herr
      exact ⟨refused_write e, permitted_write e (regSet_ingStatus b v s.mem s.hw p herr)⟩
    case granule =>
      have e := exec_granuleAssign s b v
      exact ⟨refused_write e, permitted_write e (regSet_gown b v s.mem s.hw hgo hkind hidle)⟩
    case link =>
      have e := exec_lnkCtlWrite s b v l hl
      exact ⟨refused_write e, permitted_write e (regSet_lnkCtl b v s.mem s.hw l)⟩

end Sys2Proof.Machine

section
/-! PROOFS. Pre-emption (13 R363, R364, R367 to R370): what a write of PART_PCTL starts, when a drain ends, when a save is taken
and what it keeps of a task, and when a RESUME puts the work back. -/
namespace Sys2Proof.Machine

variable (s : State) (w : Writer) (v : Word)

/-! ## PART_PCTL with GO -/

theorem preGo_refused (hw : Hw) (h : partOfAsid hw (v.extractLsb' 0 10) = none ∨ mayPkg hw w = false) : preGo hw w v = ignored hw w := by
  unfold preGo pctlPart
  dsimp only
  split
  · rfl
  next p hp =>
    have hno : mayPkg hw w = false := h.resolve_left (by rw [hp]; exact Option.some_ne_none p)
    simp [hno]

/-- What GO does for one who may write, at a partition's pre-emption `x` (13 R363, R364). -/
theorem preGo_permitted (hw : Hw) (p : Nat) (hp : partOfAsid hw (v.extractLsb' 0 10) = some p) (hmay : mayPkg hw w = true) :
    preGo hw w v =
      (let x := preAt hw p
       let a := v.extractLsb' 0 10
       if x.phase = .idle ∧ isSaved hw a = false then
         setPre hw p { x with phase := if v.getLsbD 61 then .drain else .soft, hard := v.getLsbD 61, asid := a, since := hw.now }
       else if v.getLsbD 61 = true ∧ x.phase = .soft ∧ x.asid = a then setPre hw p { x with phase := .drain, hard := true, since := hw.now }
       else hw) := by
  unfold preGo pctlPart
  simp [hp, hmay, and_assoc]

theorem exec_preempt (hgo : v.getLsbD 63 = true) :
    exec (if v.getLsbD 61 then .hardPreemption w v else .softPreemption w v) s = .next { s with hw := preGo s.hw w v } := by
  cases h : v.getLsbD 61
  · exact if_pos (by rw [hgo, h]; rfl)
  · exact if_pos (by rw [hgo, h]; rfl)

/-- A GO starts a pre-emption at an idle partition, a hard one takes over a soft one, and any other write changes nothing. -/
theorem preempt_go (hgo : v.getLsbD 63 = true) :
    let i := if v.getLsbD 61 then Instr.hardPreemption w v else Instr.softPreemption w v
    let a := v.extractLsb' 0 10
    (partOfAsid s.hw a = none ∨ mayPkg s.hw w = false → exec i s = .next { s with hw := ignored s.hw w }) ∧
    (∀ p, partOfAsid s.hw a = some p → mayPkg s.hw w = true →
      let x := preAt s.hw p
      (x.phase = .idle → isSaved s.hw a = false →
        let y := { x with phase := if v.getLsbD 61 then .drain else .soft, hard := v.getLsbD 61, asid := a, since := s.hw.now }
        exec i s = .next { s with hw := setPre s.hw p y }) ∧
      (v.getLsbD 61 = true → x.phase = .soft → x.asid = a → exec i s =
        .next { s with hw := setPre s.hw p { x with phase := .drain, hard := true, since := s.hw.now } }) ∧
      (¬ (x.phase = .idle ∧ isSaved s.hw a = false) → ¬ (v.getLsbD 61 = true ∧ x.phase = .soft ∧ x.asid = a) → exec i s = .next s)) := by
  intro i a
  have hi : exec i s = .next { s with hw := preGo s.hw w v } := exec_preempt s w v hgo
  refine ⟨fun h => by rw [hi, preGo_refused w v s.hw h], fun p hp hmay => ?_⟩
  have hpre := preGo_permitted w v s.hw p hp hmay
  refine ⟨fun hidle hsaved => ?start, fun hhard hsoft hasid => ?takeover, fun hstart htake => ?nothing⟩
  case start => rw [hi, hpre.trans (if_pos ⟨hidle, hsaved⟩)]
  case takeover =>
    have hbusy : ¬ ((preAt s.hw p).phase = .idle ∧ isSaved s.hw a = false) := fun h => by rw [hsoft] at h; cases h.1
    rw [hi, hpre.trans ((if_neg hbusy).trans (if_pos ⟨hhard, hsoft, hasid⟩))]
  case nothing => rw [hi, hpre.trans ((if_neg hstart).trans (if_neg htake))]

/-- Each of the three events takes the write that its name says. -/
theorem preempt_guards :
    (v.getLsbD 63 = false ∨ v.getLsbD 61 = true → exec (.softPreemption w v) s = .fault .notEnabled) ∧
    (v.getLsbD 63 = false ∨ v.getLsbD 61 = false → exec (.hardPreemption w v) s = .fault .notEnabled) ∧
    (v.getLsbD 63 = true ∨ v.getLsbD 62 = false → exec (.preemptResume w v) s = .fault .notEnabled) := by
  refine ⟨fun h => ?_, fun h => ?_, fun h => ?_⟩
  · exact if_neg (by rcases h with h | h <;> simp only [h, Bool.false_and, Bool.and_false, Bool.not_true, Bool.false_eq_true, not_false_eq_true])
  · exact if_neg (by rcases h with h | h <;> simp only [h, Bool.false_and, Bool.and_false, Bool.false_eq_true, not_false_eq_true])
  · exact if_pos (by rcases h with h | h <;> simp only [h, Bool.or_true, Bool.not_false, Bool.true_or])

/-! ## The end of the drain -/

/-- The drain of a pre-empted ASID ends as none of its exposed activations is left, or as its limit has passed; what is left is
discarded, counted and, where it is any, reported (13 R367 steps 2 to 5). -/
theorem drain_ends (part : Nat) :
    let x := preAt s.hw part
    let mine := fun (a : BitVec 10) => decide (a = x.asid)
    let left := (actsOfAsid s.hw mine).filter fun d => d.2.exposed
    let lapsed := left = [] ∨ x.since + (dieAt s.hw 0).pdrain.toNat ≤ s.hw.now
    let lost := (s.hw.cores.flatMap fun c => c.2.logLost.filter fun l => (frameAt c.2 l.1).asid = x.asid).length
    let cl := ((partClusters (tget s.hw.pkg.parts {} part))[0]?).getD 0
    let hw := discardAsids s.hw mine fun _ _ => false
    let told := if left = [] then hw else report hw cl 0 left.length
    (x.phase = .drain → lapsed → exec (.drainLimit part) s =
      .next { s with hw := setPre told part { x with phase := .ready, xlost := left.length, llost := lost } }) ∧
    (¬ (x.phase = .drain ∧ lapsed) → exec (.drainLimit part) s = .fault .notEnabled) := by
  intro x mine left lapsed lost cl hw told
  have ends : (decide (x.phase ≠ .drain) || (!left.isEmpty && decide (s.hw.now < x.since + (dieAt s.hw 0).pdrain.toNat))) = false ↔
      x.phase = .drain ∧ lapsed := by
    simp only [lapsed, Bool.or_eq_false_iff, decide_eq_false_iff_not, Bool.and_eq_false_iff, Bool.not_eq_false', List.isEmpty_iff, Nat.not_lt,
      ne_eq, Decidable.not_not]
  have htold : (if left.isEmpty then hw else report hw cl 0 left.length) = told := by simp only [told, List.isEmpty_iff]
  refine ⟨fun hdrain hlapsed => ?_, fun h => if_pos (eq_true_of_ne_false (h ∘ ends.1))⟩
  rw [← htold]
  exact if_neg (ne_true_of_eq_false (ends.2 ⟨hdrain, hlapsed⟩))

/-! ## The save -/

/-- A save is taken of an ASID that is quiet, with nothing of its committed activations under way (13 R364, R367, R369). -/
theorem save_taken (part : Nat) :
    let x := preAt s.hw part
    let go := (x.phase = .ready ∨ (x.phase = .soft ∧ softDone s.hw x.asid = true)) ∧ chanBusy s.hw x.asid = false ∧ underWay s.hw x.asid = false
    (go →
      let r := saveVictim s.mem s.hw x.asid x.hard
      exec (.save part) s = .next { mem := r.1, hw := setPre r.2.1 part { x with phase := .idle, works := x.works ++ [(x.asid, r.2.2)] } }) ∧
    (¬ go → exec (.save part) s = .fault .notEnabled) := by
  intro x go
  have goes : (!(decide (x.phase = .ready) || (decide (x.phase = .soft) && softDone s.hw x.asid)) || chanBusy s.hw x.asid ||
      underWay s.hw x.asid) = false ↔ go := by
    simp only [go, Bool.or_eq_false_iff, Bool.not_eq_false', Bool.or_eq_true, Bool.and_eq_true, decide_eq_true_eq, and_assoc]
  exact ⟨fun h => if_neg (ne_true_of_eq_false (goes.2 h)), fun h => if_pos (eq_true_of_ne_false (h ∘ goes.1))⟩

/-- What a save makes of the task it takes: saved, with its context's hold registers below HOLDS and its PX entries (13 R369). -/
theorem saveTask_saved (m : Mem) (hw : Hw) (t u : Task) (h : u ∈ (saveTask m hw t).2.tasks) (hid : u.id = t.id) :
    u.state = .saved ∧
    u.saved = some { ctxAt (coreAt hw t.core) t.ctx with
      hold := tkeep (fun j => decide (j < (typeAt hw t.asid (recType t.words)).holds)) (ctxAt (coreAt hw t.core) t.ctx).hold } ∧
    u.px = (coreAt hw t.core).tlb.filter fun x => x.px && x.pxTask == some t.id := by
  unfold saveTask at h
  dsimp only at h
  rw [homeZero_tasks] at h
  obtain ⟨y, _, hy⟩ := List.mem_map.1 h
  split at hy
  next => subst hy; exact ⟨rfl, rfl, rfl⟩
  next hne => subst hy; exact absurd hid hne

/-- A save zeroes the task's slice of its core's task area, and no other memory. -/
theorem saveTask_mem (m : Mem) (hw : Hw) (t : Task) :
    (saveTask m hw t).1 = memZero m (taskSlice hw t.core t.ctx).1 (taskSlice hw t.core t.ctx).2 := rfl

/-! ## RESUME -/

/-- PREEMPT_RESUME does what the write of PART_PCTL with RESUME does. -/
theorem exec_preemptResume (hres : v.getLsbD 62 = true) (hgo : v.getLsbD 63 = false) {m : Mem} {hw : Hw}
    (h : preResume s.mem s.hw w v = some (m, hw)) : exec (.preemptResume w v) s = .next { mem := m, hw := hw } := by
  change execPreemptResume w v s = _
  unfold execPreemptResume
  rw [if_neg (by rw [hres, hgo]; decide), h]

/-- PREEMPT_RESUME waits where that write has no answer. -/
theorem exec_preemptResume_waits (hres : v.getLsbD 62 = true) (hgo : v.getLsbD 63 = false) (h : preResume s.mem s.hw w v = none) :
    exec (.preemptResume w v) s = .fault .notEnabled := by
  change execPreemptResume w v s = _
  unfold execPreemptResume
  rw [if_neg (by rw [hres, hgo]; decide), h]

theorem preResume_refused (m : Mem) (hw : Hw) (h : partOfAsid hw (v.extractLsb' 0 10) = none ∨ mayPkg hw w = false) :
    preResume m hw w v = some (m, ignored hw w) := by
  unfold preResume pctlPart
  dsimp only
  split
  · rfl
  next p hp =>
    have hno : mayPkg hw w = false := h.resolve_left (by rw [hp]; exact Option.some_ne_none p)
    simp [hno]

/-- What RESUME does for one who may write: nothing while the partition is busy or has no saved work of the ASID, else it puts the work
back where its places are free, and waits where they are not (13 R363, R370). -/
theorem preResume_permitted (m : Mem) (hw : Hw) (p : Nat) (hp : partOfAsid hw (v.extractLsb' 0 10) = some p) (hmay : mayPkg hw w = true) :
    let x := preAt hw p
    let a := v.extractLsb' 0 10
    (x.phase ≠ .idle → preResume m hw w v = some (m, hw)) ∧
    (x.phase = .idle → x.works.find? (fun y => y.1 = a) = none → preResume m hw w v = some (m, hw)) ∧
    (∀ y, x.phase = .idle → x.works.find? (fun y => y.1 = a) = some y →
      let free := placesFree hw y.2 = true ∧ (pxBack y.2.px hw).isSome = true
      (free → preResume m hw w v = some (restoreVictim m (setPre hw p { x with works := x.works.filter fun z => z.1 ≠ a }) y.2)) ∧
      (¬ free → preResume m hw w v = none)) := by
  intro x a
  have back (y : SavedWork) : (!placesFree hw y || (pxBack y.px hw).isNone) = false ↔
      placesFree hw y = true ∧ (pxBack y.px hw).isSome = true := by
    rw [Bool.or_eq_false_iff, Bool.not_eq_false', Option.isNone_eq_false_iff]
  unfold preResume pctlPart
  refine ⟨fun hbusy => ?_, fun hidle hnone => ?_, fun y hidle hsome => ⟨fun hfree => ?_, fun hfree => ?_⟩⟩
  · simp only [hp, hmay, Bool.not_true, Bool.false_eq_true, if_false]
    exact if_pos hbusy
  · simp only [hp, hmay, Bool.not_true, Bool.false_eq_true, if_false]
    rw [if_neg (not_not_intro hidle), hnone]
  · simp only [hp, hmay, Bool.not_true, Bool.false_eq_true, if_false]
    rw [if_neg (not_not_intro hidle), hsome]
    exact if_neg (ne_true_of_eq_false ((back y.2).2 hfree))
  · simp only [hp, hmay, Bool.not_true, Bool.false_eq_true, if_false]
    rw [if_neg (not_not_intro hidle), hsome]
    exact if_pos (eq_true_of_ne_false (hfree ∘ (back y.2).1))

/-- The events of pre-emption (13 R363 to R370). -/
theorem preemptEvents : Clauses.PreemptEvents := by
  refine ⟨preempt_go, preempt_guards, drain_ends, save_taken, fun m hw t => ?tasks, fun m hw t => ?slices, fun s w v hres hgo => ?resume⟩
  case tasks =>
    refine ⟨fun u hu hid => (saveTask_saved m hw t u hu hid).1, ?_⟩
    rintro k ⟨u, hu, hid, hk⟩ j hj
    obtain ⟨_, hsaved, _⟩ := saveTask_saved m hw t u hu hid
    rw [hsaved] at hk
    cases hk
    exact tget_tkeep_dropped (fun j => decide (j < (typeAt hw t.asid (recType t.words)).holds)) _ _ _ (by simpa using hj)
  case slices => exact ⟨saveTask_mem m hw t, fun u hu hid => (saveTask_saved m hw t u hu hid).2.2⟩
  case resume =>
    refine ⟨fun h => ?_, fun p hp hmay => ?_⟩
    · exact exec_preemptResume s w v hres hgo (preResume_refused w v s.mem s.hw h)
    · obtain ⟨busy, nothing, work⟩ := preResume_permitted w v s.mem s.hw p hp hmay
      refine ⟨fun h => ?_, fun hidle hnone => ?_, fun y hidle hsome => ⟨fun hfree => ?_, fun hfree => ?_⟩⟩
      · exact exec_preemptResume s w v hres hgo (busy h)
      · exact exec_preemptResume s w v hres hgo (nothing hidle hnone)
      · exact exec_preemptResume s w v hres hgo ((work y hidle hsome).1 hfree)
      · exact exec_preemptResume_waits s w v hres hgo ((work y hidle hsome).2 hfree)

end Sys2Proof.Machine
end

section
/-! PROOFS. The package's host (15 R395, R399 to R402, 06 R189) and the containment of errors (15 R398, Table 15.6). -/
namespace Sys2Proof.Machine

/-! ## Reset, bring-up, attestation -/

/-- Bring-up starts from a package at reset; whether it runs turns on the signature and the version (15 R400, R402). -/
theorem bringUp_next (s : State) (fw : Firmware) : ∃ t, exec (.bringUp fw) s = .next t ∧ t.mem = {} ∧ t.hw.pkg.owner = 0 ∧ t.hw.pkg.parts = [] ∧
    t.hw.pkg.asids = [] ∧ t.hw.pkg.ports = [] ∧ t.hw.cores = [] ∧ t.hw.cls = [] ∧
    let ok := Config.signatureOk fw.image = true ∧ s.hw.pkg.fwVersion ≤ fw.version
    (ok → t.hw.pkg.stopped = false ∧ t.hw.pkg.fwVersion = fw.version ∧ t.hw.pkg.fwImage = fw.image) ∧
    (¬ ok → t.hw.pkg.stopped = true ∧ t.hw.pkg.fwVersion = s.hw.pkg.fwVersion ∧ t.hw.pkg.fwImage = []) := by
  by_cases h : (Config.signatureOk fw.image && decide (s.hw.pkg.fwVersion ≤ fw.version)) = true
  · have hok : Config.signatureOk fw.image = true ∧ s.hw.pkg.fwVersion ≤ fw.version := by simpa using h
    refine ⟨_, rfl, rfl, ?_⟩
    dsimp only [modPkg]
    rw [if_pos h]
    exact ⟨rfl, rfl, rfl, rfl, rfl, rfl, fun _ => ⟨rfl, rfl, rfl⟩, fun hn => absurd hok hn⟩
  · have hok : ¬ (Config.signatureOk fw.image = true ∧ s.hw.pkg.fwVersion ≤ fw.version) := by simpa using h
    refine ⟨_, rfl, rfl, ?_⟩
    dsimp only [modPkg]
    rw [if_neg h]
    exact ⟨rfl, rfl, rfl, rfl, rfl, rfl, fun hp => absurd hp hok, fun _ => ⟨rfl, rfl, rfl⟩⟩

/-- An attestation is refused as its indices are spent, and else advances its index and signs what 15 R401 lists. -/
theorem attestation_next (s : State) (nonce : List Byte) :
    (2 ^ 40 ≤ s.hw.pkg.attIdx → exec (.attestationRequest nonce) s =
      .next { s with hw := modPkg s.hw fun p => { p with attCode := BitVec.ofNat 8 cREFUSED } }) ∧
    (s.hw.pkg.attIdx < 2 ^ 40 → ∃ t r sig, exec (.attestationRequest nonce) s = .next t ∧ t.mem = s.mem ∧ t.hw.pkg.attCode = 0 ∧ t.hw.pkg.attIdx = s.hw.pkg.attIdx + 1 ∧
      t.hw.pkg.attested = s.hw.pkg.attested ++ [(s.hw.pkg.attIdx, nonce, r ++ [BitVec.ofNat 64 s.hw.pkg.fwVersion, 3] ++ ((List.range 16).map fun n => regValue s.hw (.partCfg n)) ++ [sig])] ∧
      r = (List.range 4).map fun i => BitVec.ofNat 64 (ofBytes (((shake256 s.hw.pkg.fwImage).drop (8 * i)).take 8))) :=
  ⟨fun h => if_pos h, fun h => ⟨_, _, Config.signature s.hw.free, if_neg (Nat.not_le.2 h), rfl, rfl, rfl, rfl, rfl⟩⟩

/-! ## Cores -/

/-- A gate needs a core of the package that is not gated, a return one that is, an assignment a core and an ASID. -/
theorem core_guards (s : State) (core : Nat) :
    (256 ≤ core ∨ (coreAt s.hw core).gated = true → exec (.corePowerGate core) s = .fault .notEnabled) ∧
    ((coreAt s.hw core).gated = false → exec (.powerGatingReturn core) s = .fault .notEnabled) ∧
    (∀ asid, 256 ≤ core ∨ 1024 ≤ asid → exec (.coreAssignment core asid) s = .fault .notEnabled) :=
  ⟨fun h => if_pos (by simpa using h), fun h => if_pos (by simp [h]), fun asid h => if_pos (by simpa using h)⟩

/-- A gated core keeps its frames and holds no translation, here and in the directory (07 R197, 13 R345). -/
theorem corePowerGate_next (s : State) (core : Nat) (hc : core < 256) (hg : (coreAt s.hw core).gated = false) :
    ∃ t, exec (.corePowerGate core) s = .next t ∧ t.mem = s.mem ∧ (coreAt t.hw core).gated = true ∧
      (coreAt t.hw core).tlb = [] ∧ (coreAt t.hw core).frames = (coreAt s.hw core).frames ∧
      ∀ e ∈ (dieAt t.hw (dieOf core)).dir, core % 64 ∉ e.holders := by
  refine ⟨_, if_neg (by simp [hg]; omega), rfl, ?_⟩
  dsimp only
  rw [clearHolder_core, coreAt_modCore]
  exact ⟨rfl, rfl, rfl, clearHolder_dir _ _ _⟩

/-- The cycle counter of a core that returns starts at 0 (06 R189). -/
theorem powerGatingReturn_next (s : State) (core : Nat) (hg : (coreAt s.hw core).gated = true) :
    ∃ t, exec (.powerGatingReturn core) s = .next t ∧ t.mem = s.mem ∧ (coreAt t.hw core).gated = false ∧
      (coreAt t.hw core).cycleAt0 = t.hw.now := by
  refine ⟨_, if_neg (by simp [hg]), rfl, ?_⟩
  dsimp only
  rw [coreAt_modCore]
  exact ⟨rfl, rfl⟩

/-- The owner of a core's memory tiles written. -/
def ownTiles (hw : Hw) (core : Nat) (a : BitVec 10) : Hw :=
  modPkg hw fun p => { p with tileOwner := tput (tput p.tileOwner 0 (core * 2) a) 0 (core * 2 + 1) a }

theorem exec_coreAssignment (s : State) (core asid : Nat) (hc : core < 256) (ha : asid < 1024) : exec (.coreAssignment core asid) s =
    (let x := if tget s.hw.pkg.tileOwner 0 (core * 2) = BitVec.ofNat 10 asid then (s.mem, s.hw) else passCore s.mem s.hw core
     .next { mem := x.1, hw := ownTiles x.2 core (BitVec.ofNat 10 asid) }) :=
  if_neg (by simp; omega)

theorem ownTiles_tileOwner (hw : Hw) (core : Nat) (a : BitVec 10) :
    tget (ownTiles hw core a).pkg.tileOwner 0 (core * 2) = a ∧ tget (ownTiles hw core a).pkg.tileOwner 0 (core * 2 + 1) = a := by
  unfold ownTiles
  rw [modPkg_pkg]
  exact ⟨(tget_tput_other _ _ _ _ _ (by omega)).trans (tget_tput_same _ _ _ _), tget_tput_same _ _ _ _⟩

@[simp] theorem elemAt_ownTiles (hw : Hw) (core : Nat) (a : BitVec 10) (e : Nat) : elemAt (ownTiles hw core a) e = elemAt hw e := by
  rw [ownTiles, elemAt_modPkg]

@[simp] theorem frozen_ownTiles (hw : Hw) (core : Nat) (a : BitVec 10) (e : Nat) : frozen (ownTiles hw core a) e = frozen hw e := by
  rw [frozen, elemAt_ownTiles, frozen]

/-- The owner of a core's memory tiles is written, the core having been zeroed where it passes to another ASID (07 R197, 15 R395). -/
theorem coreAssignment_next (s : State) (core asid : Nat) (hc : core < 256) (ha : asid < 1024) : ∃ t, exec (.coreAssignment core asid) s = .next t ∧
    tget t.hw.pkg.tileOwner 0 (core * 2) = BitVec.ofNat 10 asid ∧ tget t.hw.pkg.tileOwner 0 (core * 2 + 1) = BitVec.ofNat 10 asid ∧
    (tget s.hw.pkg.tileOwner 0 (core * 2) = BitVec.ofNat 10 asid → t.mem = s.mem) ∧
    (tget s.hw.pkg.tileOwner 0 (core * 2) ≠ BitVec.ofNat 10 asid → t.mem = memZero s.mem (tileBase core 0) (2 ^ 20) ∧
      ∀ e5, e5 < 32 → (elemAt t.hw (core * 32 + e5)).ops = [] ∧ frozen t.hw (core * 32 + e5) = false) := by
  rw [exec_coreAssignment s core asid hc ha]
  dsimp only
  by_cases h : tget s.hw.pkg.tileOwner 0 (core * 2) = BitVec.ofNat 10 asid
  · rw [if_pos h]
    obtain ⟨even, odd⟩ := ownTiles_tileOwner s.hw core (BitVec.ofNat 10 asid)
    exact ⟨_, rfl, even, odd, fun _ => rfl, fun hn => absurd h hn⟩
  · rw [if_neg h]
    obtain ⟨even, odd⟩ := ownTiles_tileOwner (passCore s.mem s.hw core).2 core (BitVec.ofNat 10 asid)
    refine ⟨_, rfl, even, odd, fun he => absurd he h, fun _ => ⟨passCore_mem s.mem s.hw core, fun e5 he => ?_⟩⟩
    rw [elemAt_ownTiles, frozen_ownTiles]
    exact passCore_elem s.mem s.hw core e5 he

/-- The package's events of its host (15 R395, R399 to R402). -/
theorem hostEvents : Clauses.HostEvents := by
  refine ⟨fun s => ?reset, bringUp_next, attestation_next, core_guards, fun s core hc => ?gating, coreAssignment_next⟩
  case reset => exact ⟨_, rfl, rfl, rfl, rfl, rfl, rfl, rfl, rfl, rfl, rfl, rfl, rfl, rfl, rfl, rfl⟩
  case gating => exact ⟨corePowerGate_next s core hc, powerGatingReturn_next s core⟩

/-! ## Contained errors (15 Table 15.6) -/

/-- A poisoned line is counted and reported with its address (class 2). -/
theorem uncorrectableError_next (s : State) (addr : Nat) :
    let ok := inHbm addr = true ∨ (inAperture addr = true ∧ bits addr 28 12 = 0)
    (¬ ok → exec (.uncorrectableError addr) s = .fault .notEnabled) ∧ (ok → ∃ t m, exec (.uncorrectableError addr) s = .next t ∧
    t.mem = poisonLine s.mem (lineOf addr) ∧ linePsn t.mem addr = true ∧ t.hw.pkg.ue = s.hw.pkg.ue + 1 ∧ t.hw.pkg.last.toNat % 2 ^ 8 = 2 ∧
    t.hw.svc = s.hw.svc ++ [m] ∧ m.tok = mkTok 0 0 .service (BitVec.ofNat 64 (ownPa s.hw (lineOf addr) + 2 ^ 63)) 0) := by
  intro ok
  have guard : (!(inHbm addr || (inAperture addr && decide (bits addr 28 12 = 0)))) = true ↔ ¬ ok := by
    simp only [ok, Bool.not_eq_true', ← Bool.not_eq_true, Bool.or_eq_true, Bool.and_eq_true, decide_eq_true_eq]
  refine ⟨fun h => if_pos (guard.2 h), fun h => ⟨_, _, if_neg fun h' => guard.1 h' h, rfl, ?_, rfl, ?_, rfl, rfl⟩⟩
  · simp [linePsn, poisonLine, mem_sins]
  · exact (errLast_last _ 2 0 _ _ (by decide) (by decide)).1

/-- A region whose element's state is lost is aborted and loaded anew (class 3). -/
theorem elementStateError_region (s : State) (elem frame k i : Nat) (r : Region) (h : regionOf s.hw (coreOf elem) frame = some (k, i, r)) :
    exec (.elementStateError elem frame) s =
      .next { s with hw := contained (reloadRegion (regionAbort s.hw k i) k i) 3 ((partOfCl s.hw (clOf (coreOf elem))).getD 0) k elem } := by
  change execElementStateError elem frame s = _
  unfold execElementStateError
  dsimp only
  rw [h]

/-- Of a frame that no region holds, the tasks with an activation in it are discarded, and it is emptied (class 3; log 18). -/
theorem elementStateError_frame (s : State) (elem frame : Nat) (h : regionOf s.hw (coreOf elem) frame = none) :
    ∃ hw part, exec (.elementStateError elem frame) s =
      .next { s with hw := contained (modCore hw (coreOf elem) fun x => setFrame x frame {}) 3 part (clOf (coreOf elem)) elem } := by
  change ∃ hw part, execElementStateError elem frame s = _
  unfold execElementStateError
  dsimp only
  rw [h]
  exact ⟨_, _, rfl⟩

/-- An element-state error changes no memory, is of class 3, and leaves a frame that no region holds empty. -/
theorem elementStateError_next (s : State) (elem frame : Nat) : ∃ t, exec (.elementStateError elem frame) s = .next t ∧ t.mem = s.mem ∧
    t.hw.pkg.last.toNat % 2 ^ 8 = 3 ∧ ((regionOf s.hw (coreOf elem) frame).isNone = true → frameAt (coreAt t.hw (coreOf elem)) frame = {}) := by
  cases h : regionOf s.hw (coreOf elem) frame with
  | some x => exact ⟨_, elementStateError_region s elem frame x.1 x.2.1 x.2.2 h, rfl, contained_last _ 3 _ _ _ (by decide), fun h => nomatch h⟩
  | none =>
    obtain ⟨hw, part, e⟩ := elementStateError_frame s elem frame h
    refine ⟨_, e, rfl, contained_last _ 3 _ _ _ (by decide), fun _ => ?_⟩
    rw [coreAt_contained, coreAt_modCore, frameAt_setFrame]

/-- A core that has been reset holds no activation, translation or frame (class 4). -/
theorem resetCore_core (hw : Hw) (c : Nat) : let x := coreAt (resetCore hw c) c
    x.acts = [] ∧ x.tlb = [] ∧ x.frames = [] := by
  unfold resetCore
  dsimp only
  rw [clearHolder_core, coreAt_setCore]
  exact ⟨rfl, rfl, rfl⟩

theorem exec_coreStateError (s : State) (core : Nat) (hc : core < 256) :
    ∃ hw part, exec (.coreStateError core) s = .next { s with hw := contained (resetCore hw core) 4 part (clOf core) core } :=
  ⟨_, _, if_neg (by omega)⟩

theorem coreStateError_next (s : State) (core : Nat) (hc : core < 256) : ∃ t, exec (.coreStateError core) s = .next t ∧ t.mem = s.mem ∧
    t.hw.pkg.last.toNat % 2 ^ 8 = 4 ∧ (coreAt t.hw core).acts = [] ∧ (coreAt t.hw core).tlb = [] ∧ (coreAt t.hw core).frames = [] := by
  obtain ⟨hw, part, e⟩ := exec_coreStateError s core hc
  refine ⟨_, e, rfl, contained_last _ 4 _ _ _ (by decide), ?_⟩
  rw [coreAt_contained]
  exact resetCore_core hw core

/-- The partition of a cluster whose control has failed is reset (class 5). -/
theorem clusterControlError_next (s : State) (cl : Nat) (hc : cl < 32) : ∃ t, exec (.clusterControlError cl) s = .next t ∧
    t.hw.pkg.last.toNat % 2 ^ 8 = 5 ∧
    (partOfCl s.hw cl = none → t.mem = s.mem) ∧ (∀ p, partOfCl s.hw cl = some p → t.mem = (partReset s.mem s.hw p).1) := by
  change ∃ t, execClusterControlError cl s = .next t ∧ _
  unfold execClusterControlError
  rw [if_neg (by omega)]
  cases h : partOfCl s.hw cl with
  | none => exact ⟨_, rfl, contained_last _ 5 _ _ _ (by decide), fun _ => rfl, fun p hp => nomatch hp⟩
  | some p =>
    refine ⟨_, rfl, contained_last _ 5 _ _ _ (by decide), fun hn => ?_, fun q hq => ?_⟩
    · cases hn
    · cases hq; rfl

/-- Taking a stack off line changes no granule and no ASID. -/
theorem stackParts_offline (hw : Hw) (l : List Nat) (stack : Nat) : stackParts (modPkg hw fun p => { p with offline := l }) stack = stackParts hw stack := rfl

theorem exec_hbmStackFailure (s : State) (stack : Nat) (hs : stack < 8) : exec (.hbmStackFailure stack) s =
    (let x := (stackParts s.hw stack).foldl (fun (x : Mem × Hw) p => partReset x.1 x.2 p)
       ({ s.mem with dead := sins s.mem.dead stack }, modPkg s.hw fun p => { p with offline := sins p.offline stack })
     .next { mem := x.1, hw := contained x.2 6 ((stackParts s.hw stack).headD 0) (stack / 2 * 8) stack }) := by
  change execHbmStackFailure stack s = _
  unfold execHbmStackFailure
  rw [if_neg (by omega)]
  rfl

/-- A stack that fails is off line, its lines poisoned, and every partition with granules on it is reset (class 6). -/
theorem hbmStackFailure_next (s : State) (stack : Nat) (hs : stack < 8) : ∃ t, exec (.hbmStackFailure stack) s = .next t ∧
    t.hw.pkg.last.toNat % 2 ^ 8 = 6 ∧ stack ∈ t.mem.dead ∧
    t.mem = ((stackParts s.hw stack).foldl (fun (x : Mem × Hw) p => partReset x.1 x.2 p)
      ({ s.mem with dead := sins s.mem.dead stack }, modPkg s.hw fun p => { p with offline := sins p.offline stack })).1 ∧
    (stackParts s.hw stack = [] → stack ∈ t.hw.pkg.offline) := by
  have self : ∀ l, stack ∈ sins l stack := fun l => (mem_sins l stack stack).2 (.inl rfl)
  refine ⟨_, exec_hbmStackFailure s stack hs, contained_last _ 6 _ _ _ (by decide), ?dead, rfl, fun h => ?offline⟩
  case dead =>
    rw [foldl_same (fun x : Mem × Hw => x.1.dead) _ fun x p => partReset_dead x.1 x.2 p]
    exact self _
  case offline =>
    rw [contained, containedAs_offline, h, List.foldl_nil, modPkg_pkg]
    exact self _

/-- A UCIe link retrains, or, its replays exhausted, its traffic takes another way (class 7). -/
theorem ucieLinkError_next (s : State) (d1 d2 : Nat) (x : Bool) (h1 : d1 < 4) (h2 : d2 < 4) (hne : d1 ≠ d2) :
    ∃ t, exec (.ucieLinkError d1 d2 x) s = .next t ∧ t.mem = s.mem ∧ t.hw.pkg.last.toNat % 2 ^ 8 = 7 ∧
    t.hw.pkg.detour = (if x then s.hw.pkg.detour ++ [(d1, d2)] else s.hw.pkg.detour) ∧ (x = true → t.hw.pkg.last.toNat / 2 ^ 8 % 2 ^ 8 = cREPLAY) := by
  have hcode : (if x then cREPLAY else containCode 7) < 2 ^ 8 := by
    have := (containCode_reportable 7).1
    split
    · decide
    · omega
  obtain ⟨hcls, hsaid⟩ := containedAs_last
    (if x then modPkg s.hw fun p => { p with detour := p.detour ++ [(d1, d2)] } else s.hw) _ 7 0 (d1 * 8) (d1 * 4 + d2) (by decide) hcode
  refine ⟨_, if_neg (by simp [hne]; omega), rfl, hcls, ?_, fun hx => ?_⟩
  · rw [containedAs_detour]
    cases x <;> rfl
  · rw [hsaid, if_pos hx]

/-! ## Service cores (class 9, 10) -/

/-- A unit's report changes no die. -/
theorem dies_reportIf (hw : Hw) (p : Bool) (k code v : Nat) : (if p then report hw k code v else hw).dies = hw.dies := by
  split <;> rfl

theorem reportAgain_dies (hw : Hw) (c : Nat) : (reportAgain hw c).dies = hw.dies := by
  unfold reportAgain matReport
  dsimp only
  rw [dies_reportIf, dies_reportIf, foldl_same Hw.dies _ fun h k => dies_reportIf h _ _ _ _]
  exact foldl_same Hw.dies _ (fun h g => dies_reportIf h _ _ _ _) _ _

theorem svcRefuse_dies (hw : Hw) (m : SvcMsg) : (svcRefuse hw m).dies = hw.dies := by
  unfold svcRefuse svcAnswer
  split <;> rfl

theorem scAt_setSc (hw : Hw) (d c j : Nat) (x : ServiceCore) : scAt (setSc hw d c x) d j = if j = c then x else scAt hw d j := by
  unfold scAt setSc
  rw [dieAt_modDie]
  exact tget_tput _ _ _ _ _

/-- A package that has stopped (class 10). -/
def stopPackage (hw : Hw) : Hw := modPkg hw fun p => { p with stopped := true }

theorem stopPackage_stopped (hw : Hw) : (stopPackage hw).pkg.stopped = true := rfl
theorem stopPackage_last (hw : Hw) : (stopPackage hw).pkg.last = hw.pkg.last := rfl
theorem scAt_stopPackage (hw : Hw) (d c : Nat) : scAt (stopPackage hw) d c = scAt hw d c := rfl

/-- The package as a failed service core leaves it, before its report: the core reset, its requests refused, its clusters' units reporting anew. -/
def serviceCoreLost (hw : Hw) (die sc : Nat) : Hw :=
  ((List.range 8).filter fun k => scOf hw (die * 8 + k) = sc).foldl (fun hw k =>
      (List.range 8).foldl (fun hw i => reportAgain hw ((die * 8 + k) * 8 + i)) (modCl hw (die * 8 + k) fun c => { c with copies := [] }))
    ((scAt hw die sc).inbox.foldl svcRefuse (setSc hw die sc { reset := true, inbox := [] }))

/-- Of the service cores of a die, its loss resets one and empties its inbox. -/
theorem scAt_serviceCoreLost (hw : Hw) (die sc j : Nat) :
    scAt (serviceCoreLost hw die sc) die j = if j = sc then { reset := true, inbox := [] } else scAt hw die j := by
  have hdies : (serviceCoreLost hw die sc).dies = (setSc hw die sc { reset := true, inbox := [] }).dies := by
    unfold serviceCoreLost
    rw [foldl_same Hw.dies _ fun h k => (foldl_same Hw.dies _ (fun h i => reportAgain_dies h ((die * 8 + k) * 8 + i)) _ _).trans (modCl_dies _ _ _)]
    exact foldl_same Hw.dies _ svcRefuse_dies _ _
  rw [← scAt_setSc, scAt, scAt, dieAt, dieAt, hdies]

theorem exec_serviceCoreFailure (s : State) (die sc : Nat) (hd : die < 4) (hs : sc < 4) (hr : (scAt s.hw die sc).reset = false) :
    exec (.serviceCoreFailure die sc) s =
      if (List.range 4).all fun i => (scAt (serviceCoreLost s.hw die sc) die i).reset then
        .next { s with hw := stopPackage (contained (serviceCoreLost s.hw die sc) 10 0 (die * 8) die) }
      else .next { s with hw := contained (serviceCoreLost s.hw die sc) 9 0 (die * 8) (die * 4 + sc) } :=
  if_neg (by simp [hr]; omega)

/-- A service core that fails is reset with its inbox emptied; with the last one of a die the package stops. -/
theorem serviceCoreFailure_next (s : State) (die sc : Nat) (hd : die < 4) (hs : sc < 4) (hr : (scAt s.hw die sc).reset = false) :
    ∃ t, exec (.serviceCoreFailure die sc) s = .next t ∧ t.mem = s.mem ∧ (scAt t.hw die sc).reset = true ∧ (scAt t.hw die sc).inbox = [] ∧
    ((∃ j, j < 4 ∧ j ≠ sc ∧ (scAt s.hw die j).reset = false) → t.hw.pkg.last.toNat % 2 ^ 8 = 9) ∧
    ((∀ j, j < 4 → j ≠ sc → (scAt s.hw die j).reset = true) → t.hw.pkg.last.toNat % 2 ^ 8 = 10 ∧ t.hw.pkg.stopped = true) := by
  have hall : ((List.range 4).all fun i => (scAt (serviceCoreLost s.hw die sc) die i).reset) = true ↔
      ∀ j, j < 4 → j ≠ sc → (scAt s.hw die j).reset = true := by
    simp only [List.all_eq_true, List.mem_range, scAt_serviceCoreLost]
    refine forall₂_congr fun j _ => ?_
    by_cases h : j = sc <;> simp [h]
  have hsc := scAt_serviceCoreLost s.hw die sc sc
  rw [if_pos rfl] at hsc
  rw [exec_serviceCoreFailure s die sc hd hs hr]
  by_cases h : ∀ j, j < 4 → j ≠ sc → (scAt s.hw die j).reset = true
  · rw [if_pos (hall.2 h)]
    refine ⟨_, rfl, rfl, ?_, ?_, ?_, fun _ => ⟨?_, stopPackage_stopped _⟩⟩
    · rw [scAt_stopPackage, scAt_contained, hsc]
    · rw [scAt_stopPackage, scAt_contained, hsc]
    · rintro ⟨j, hj, hne, hoff⟩
      rw [h j hj hne] at hoff
      cases hoff
    · rw [stopPackage_last]
      exact contained_last (serviceCoreLost s.hw die sc) 10 0 (die * 8) die (by decide)
  · rw [if_neg fun h' => h (hall.1 h')]
    refine ⟨_, rfl, rfl, ?_, ?_, fun _ => contained_last _ 9 _ _ _ (by decide), fun h' => absurd h' h⟩
    · rw [scAt_contained, hsc]
    · rw [scAt_contained, hsc]

/-- The events of contained errors name a unit of the package, and a service core that runs. -/
theorem error_guards (s : State) (n : Nat) :
    (256 ≤ n → exec (.coreStateError n) s = .fault .notEnabled) ∧ (32 ≤ n → exec (.clusterControlError n) s = .fault .notEnabled) ∧
    (8 ≤ n → exec (.hbmStackFailure n) s = .fault .notEnabled) ∧ (∀ d x, 4 ≤ n ∨ 4 ≤ d ∨ n = d → exec (.ucieLinkError n d x) s = .fault .notEnabled) ∧
    (∀ sc, 4 ≤ n ∨ 4 ≤ sc ∨ (scAt s.hw n sc).reset = true → exec (.serviceCoreFailure n sc) s = .fault .notEnabled) :=
  ⟨fun h => if_pos h, fun h => if_pos h, fun h => if_pos h, fun d x h => if_pos (by simpa [or_assoc] using h),
    fun sc h => if_pos (by simpa [or_assoc] using h)⟩

/-- A package error stops the package (class 10). -/
theorem packageError_next (s : State) : ∃ t, exec .packageError s = .next t ∧ t.mem = s.mem ∧ t.hw.pkg.last.toNat % 2 ^ 8 = 10 ∧ t.hw.pkg.stopped = true := by
  refine ⟨{ s with hw := stopPackage (contained s.hw 10 0 0 0) }, rfl, rfl, ?_, stopPackage_stopped _⟩
  rw [stopPackage_last]
  exact contained_last s.hw 10 0 0 0 (by decide)

/-- Each class of error is contained as Table 15.6 states (15 R398). -/
theorem containedErrors : Clauses.ContainedErrors :=
  ⟨fun _ _ => rfl, fun _ _ _ => rfl, containCode_reportable, uncorrectableError_next, elementStateError_region, elementStateError_next,
    coreStateError_next, clusterControlError_next, hbmStackFailure_next, ucieLinkError_next, serviceCoreFailure_next, error_guards,
    packageError_next⟩

/-- Settles O59: pre-emption, the package's host and the containment of errors, clause by clause. -/
theorem packageEvents : Obligations.PackageEvents := ⟨preemptEvents, hostEvents, containedErrors⟩

end Sys2Proof.Machine
end
